-- ==== Sys2Proof/Word.lean ====
section
/-! DEFINITION. The words of the machine: bytes, the two instruction lengths (R140), and the fields a 32-bit
instruction (R142) and a 16-bit instruction (R158) are split into. -/

namespace Sys2Proof

/-- One byte of memory (R100). -/
abbrev Byte := BitVec 8

/-- The bits of one instruction: a 16-bit halfword or a 32-bit word (R140). -/
inductive Code where
  | half (w : BitVec 16)
  | word (w : BitVec 32)
deriving DecidableEq, Repr

/-- The common fields of a 32-bit instruction (R142), most significant first. -/
structure Fields32 where
  f7  : BitVec 7
  rs2 : BitVec 5
  rs1 : BitVec 5
  f3  : BitVec 3
  rd  : BitVec 5
  op  : BitVec 7
deriving DecidableEq, Repr

/-- The common fields of a 16-bit instruction (R158, R159): c[15:13], c[12], c[11:7], c[6:2] and the quadrant
c[1:0]. -/
structure Fields16 where
  f3  : BitVec 3
  b12 : BitVec 1
  r1  : BitVec 5
  r2  : BitVec 5
  op  : BitVec 2
deriving DecidableEq, Repr

end Sys2Proof
end

