-- ==== Sys2Proof/Config.lean ====
section
/-! DEFINITION. What an implementation fixes: the parameters of 00_scope.md R9 to R16, with the platform's address
map (R118), and the free values, which the spec leaves open and nothing in Lean can evaluate. -/

namespace Sys2Proof

/-- XLEN is 32 or 64, fixed for the life of a machine (R9). -/
inductive XLen where
  | x32
  | x64
deriving DecidableEq, Repr

/-- The kind of a region of the address map (R111, R118). -/
inductive RegionKind where
  /-- main memory: a read returns the last value written -/
  | memory
  /-- a device: what a read returns is the device's, a write is handed to it -/
  | io
deriving DecidableEq, Repr

/-- One region of the physical address map PMA (R118). -/
structure Region where
  base   : Nat
  size   : Nat
  kind   : RegionKind
  read   : Bool
  write  : Bool
  exec   : Bool
  /-- whether LR/SC and AMOs are supported -/
  atomic : Bool
deriving DecidableEq, Repr

/-- The address lies in the region. -/
def Region.holds (r : Region) (a : Nat) : Bool := r.base ≤ a && a < r.base + r.size

/-- The parameters of one machine (R9 to R16, R118, R761). -/
structure Config where
  xl        : XLen
  hasF      : Bool
  hasD      : Bool
  hasV      : Bool
  hasS      : Bool
  hasU      : Bool
  vlen      : Nat
  elen      : Nat
  slen      : Nat
  resetPc   : BitVec 64
  mvendorid : BitVec 64
  marchid   : BitVec 64
  mimpid    : BitVec 64
  mhartid   : BitVec 64
  /-- VMS_UIMM_ZEXT (R650) -/
  vmsUimmZext : Bool
  /-- SC_MAY_FAIL_SPURIOUSLY (R463) -/
  scMayFail : Bool
  /-- PMA: every address in no region is vacant (R118) -/
  pma       : List Region
deriving DecidableEq, Repr

/-- XLEN in bits (R9). -/
def Config.xlen (c : Config) : Nat :=
  match c.xl with
  | .x32 => 32
  | .x64 => 64

/-- FLEN in bits: 64 with the D instructions, else 32 (R10). -/
def Config.flen (c : Config) : Nat := if c.hasD then 64 else 32

/-- XLEN is 64. -/
def Config.rv64 (c : Config) : Bool :=
  match c.xl with
  | .x32 => false
  | .x64 => true

/-- The number is a power of two (R12 to R14). -/
def isPow2 (n : Nat) : Bool := n == 2 ^ n.log2

/-- No two regions of the map share an address (R118 "a finite list of disjoint regions"). -/
def Config.pmaDisjoint (c : Config) : Bool :=
  decide (c.pma.Pairwise fun r s => r.base + r.size ≤ s.base ∨ s.base + s.size ≤ r.base)

/-- What R10, R12 to R14, R40, R118 and R735 require of the parameters. -/
def Config.wf (c : Config) : Bool :=
  (!c.hasD || c.hasF) && (!c.hasS || c.hasU) &&
  isPow2 c.vlen && isPow2 c.elen && isPow2 c.slen &&
  32 ≤ c.vlen && 8 ≤ c.elen && c.elen ≤ c.slen && c.slen ≤ c.vlen &&
  !c.resetPc.getLsbD 0 && c.pmaDisjoint

/-- The address map of R769: one memory region with all permissions. DESIGN CHOICE (log 2), unsafe. -/
def Config.defaultPma : List Region :=
  [{ base := 0x80000000, size := 0x20000, kind := .memory, read := true, write := true, exec := true, atomic := true }]

/-- The profile RV64 with D, V, S and U, at the spec's defaults (R4, R10, R12 to R16, R61, R761). That the reset
state is of this profile is a DESIGN CHOICE (log 1), unsafe. -/
def Config.rv64Default : Config where
  xl := .x64
  hasF := true
  hasD := true
  hasV := true
  hasS := true
  hasU := true
  vlen := 128
  elen := 64
  slen := 128
  resetPc := 0x80000000
  mvendorid := 0
  marchid := 0
  mimpid := 0
  mhartid := 0
  vmsUimmZext := true
  scMayFail := false
  pma := Config.defaultPma

/-- The profile RV32 with F and V and without D, at the spec's defaults (R4, R10, R13). -/
def Config.rv32Default : Config :=
  { Config.rv64Default with xl := .x32, hasD := false, elen := 32 }

/-! Free values. Each is applied to the counter `draws` of the state, which every step advances, so that a statement
about them holds for every sequence of values. -/

/-- How far mcycle advances beyond the spec's minimum in the step with this draw (R64, R740). Log 7. -/
opaque Config.cycles : Nat → Nat

/-- VL_CHOICE: the vl proposed for (AVL, VLMAX) when VLMAX < AVL < 2*VLMAX; the operation that reads it keeps it
within the bounds of R545 and R546. It depends on its arguments only ("deterministic on any given implementation").
Log 8, safe. -/
opaque Config.vlChoice : Nat → Nat → Nat

/-- Whether the wfi with this draw waits or is a no-op (R745, U15). Log 9, safe. -/
opaque Config.wfiWaits : Nat → Bool

/-- The byte a device answers for the read with this draw at this address (R111, U6). Log 10, safe. -/
opaque Config.ioByte : Nat → Nat → Byte

end Sys2Proof
end

