-- ==== Sys2Proof/Syntax.lean ====
section
/-! DEFINITION. The 295 instructions of spec/opcode_table.json (R3, R184), one constructor each, in the table's order.
Operands are the fields of the encoding: register numbers of 5 bits, or of 3 bits (a name ending in p, the source's
prime) in the compressed forms that reach x8 to x15 or f8 to f15 (R158); immediates in the order of their
significance, without the low bits that are zero by construction: a branch offset is offset[12:1] (R148), a jump
offset[20:1] (R149), c.j and c.jal offset[11:1], c.beqz and c.bnez offset[8:1] (R166), the scaled compressed offsets
uimm[6:2], uimm[7:3], uimm[7:2], uimm[8:3], uimm[9:2] (R163 to R165), c.addi16sp imm[9:4] (R162), c.lui imm[17:12]
(R161), lui and auipc imm[31:12] (R146). -/

namespace Sys2Proof

/-- The instructions, each with the rule that gives its meaning. -/
inductive Instr where
  | lb (rd rs1 : BitVec 5) (offset : BitVec 12)  -- lb, R262
  | lbu (rd rs1 : BitVec 5) (offset : BitVec 12)  -- lbu, R263
  | lh (rd rs1 : BitVec 5) (offset : BitVec 12)  -- lh, R264
  | lhu (rd rs1 : BitVec 5) (offset : BitVec 12)  -- lhu, R265
  | lw (rd rs1 : BitVec 5) (offset : BitVec 12)  -- lw, R266
  | sb (rs2 rs1 : BitVec 5) (offset : BitVec 12)  -- sb, R267
  | sh (rs2 rs1 : BitVec 5) (offset : BitVec 12)  -- sh, R268
  | sw (rs2 rs1 : BitVec 5) (offset : BitVec 12)  -- sw, R269
  | sll (rd rs1 rs2 : BitVec 5)  -- sll, R272
  | slli (rd rs1 : BitVec 5) (shamt : BitVec 6)  -- slli, R273
  | srl (rd rs1 rs2 : BitVec 5)  -- srl, R274
  | srli (rd rs1 : BitVec 5) (shamt : BitVec 6)  -- srli, R275
  | sra (rd rs1 rs2 : BitVec 5)  -- sra, R276
  | srai (rd rs1 : BitVec 5) (shamt : BitVec 6)  -- srai, R277
  | add (rd rs1 rs2 : BitVec 5)  -- add, R278
  | addi (rd rs1 : BitVec 5) (imm : BitVec 12)  -- addi, R279
  | sub (rd rs1 rs2 : BitVec 5)  -- sub, R280
  | lui (rd : BitVec 5) (imm : BitVec 20)  -- lui, R281
  | auipc (rd : BitVec 5) (imm : BitVec 20)  -- auipc, R282
  | and (rd rs1 rs2 : BitVec 5)  -- and, R283
  | andi (rd rs1 : BitVec 5) (imm : BitVec 12)  -- andi, R284
  | or (rd rs1 rs2 : BitVec 5)  -- or, R285
  | ori (rd rs1 : BitVec 5) (imm : BitVec 12)  -- ori, R286
  | xor (rd rs1 rs2 : BitVec 5)  -- xor, R287
  | xori (rd rs1 : BitVec 5) (imm : BitVec 12)  -- xori, R288
  | slt (rd rs1 rs2 : BitVec 5)  -- slt, R289
  | sltu (rd rs1 rs2 : BitVec 5)  -- sltu, R290
  | slti (rd rs1 : BitVec 5) (imm : BitVec 12)  -- slti, R291
  | sltiu (rd rs1 : BitVec 5) (imm : BitVec 12)  -- sltiu, R292
  | beq (rs1 rs2 : BitVec 5) (offset : BitVec 12)  -- beq, R301
  | bne (rs1 rs2 : BitVec 5) (offset : BitVec 12)  -- bne, R302
  | blt (rs1 rs2 : BitVec 5) (offset : BitVec 12)  -- blt, R303
  | bge (rs1 rs2 : BitVec 5) (offset : BitVec 12)  -- bge, R304
  | bltu (rs1 rs2 : BitVec 5) (offset : BitVec 12)  -- bltu, R305
  | bgeu (rs1 rs2 : BitVec 5) (offset : BitVec 12)  -- bgeu, R306
  | jal (rd : BitVec 5) (offset : BitVec 20)  -- jal, R307
  | jalr (rd rs1 : BitVec 5) (offset : BitVec 12)  -- jalr, R308
  | fence (pred succ : BitVec 4)  -- fence, R320
  | fenceI  -- fence.i, R321
  | sfenceVma (rs1 rs2 : BitVec 5)  -- sfence.vma, R322
  | csrrw (rd : BitVec 5) (csr : BitVec 12) (rs1 : BitVec 5)  -- csrrw, R324
  | csrrs (rd : BitVec 5) (csr : BitVec 12) (rs1 : BitVec 5)  -- csrrs, R325
  | csrrc (rd : BitVec 5) (csr : BitVec 12) (rs1 : BitVec 5)  -- csrrc, R326
  | csrrwi (rd : BitVec 5) (csr : BitVec 12) (zimm : BitVec 5)  -- csrrwi, R327
  | csrrsi (rd : BitVec 5) (csr : BitVec 12) (zimm : BitVec 5)  -- csrrsi, R328
  | csrrci (rd : BitVec 5) (csr : BitVec 12) (zimm : BitVec 5)  -- csrrci, R329
  | ecall  -- ecall, R330
  | ebreak  -- ebreak, R331
  | mret  -- mret, R332
  | sret  -- sret, R333
  | wfi  -- wfi, R334
  | mul (rd rs1 rs2 : BitVec 5)  -- mul, R342
  | mulh (rd rs1 rs2 : BitVec 5)  -- mulh, R343
  | mulhsu (rd rs1 rs2 : BitVec 5)  -- mulhsu, R344
  | mulhu (rd rs1 rs2 : BitVec 5)  -- mulhu, R345
  | div (rd rs1 rs2 : BitVec 5)  -- div, R346
  | divu (rd rs1 rs2 : BitVec 5)  -- divu, R347
  | rem (rd rs1 rs2 : BitVec 5)  -- rem, R348
  | remu (rd rs1 rs2 : BitVec 5)  -- remu, R349
  | cLw (rdp rs1p : BitVec 3) (uimm : BitVec 5)  -- c.lw, R357
  | cSw (rs2p rs1p : BitVec 3) (uimm : BitVec 5)  -- c.sw, R358
  | cLwsp (rd : BitVec 5) (uimm : BitVec 6)  -- c.lwsp, R359
  | cSwsp (rs2 : BitVec 5) (uimm : BitVec 6)  -- c.swsp, R360
  | cBeqz (rs1p : BitVec 3) (offset : BitVec 8)  -- c.beqz, R361
  | cBnez (rs1p : BitVec 3) (offset : BitVec 8)  -- c.bnez, R362
  | cJ (offset : BitVec 11)  -- c.j, R363
  | cJr (rs1 : BitVec 5)  -- c.jr, R364
  | cJal (offset : BitVec 11)  -- c.jal, R365
  | cJalr (rs1 : BitVec 5)  -- c.jalr, R366
  | cEbreak  -- c.ebreak, R367
  | cAdd (rd rs2 : BitVec 5)  -- c.add, R368
  | cAddi (rd : BitVec 5) (imm : BitVec 6)  -- c.addi, R369
  | cSub (rdp rs2p : BitVec 3)  -- c.sub, R370
  | cAddi16sp (imm : BitVec 6)  -- c.addi16sp, R371
  | cAddi4spn (rdp : BitVec 3) (uimm : BitVec 8)  -- c.addi4spn, R372
  | cAnd (rdp rs2p : BitVec 3)  -- c.and, R373
  | cAndi (rdp : BitVec 3) (imm : BitVec 6)  -- c.andi, R374
  | cOr (rdp rs2p : BitVec 3)  -- c.or, R375
  | cXor (rdp rs2p : BitVec 3)  -- c.xor, R376
  | cSlli (rd : BitVec 5) (uimm : BitVec 6)  -- c.slli, R377
  | cSrli (rdp : BitVec 3) (uimm : BitVec 6)  -- c.srli, R378
  | cSrai (rdp : BitVec 3) (uimm : BitVec 6)  -- c.srai, R379
  | cMv (rd rs2 : BitVec 5)  -- c.mv, R380
  | cLi (rd : BitVec 5) (imm : BitVec 6)  -- c.li, R381
  | cLui (rd : BitVec 5) (imm : BitVec 6)  -- c.lui, R382
  | cFlw (rdp rs1p : BitVec 3) (uimm : BitVec 5)  -- c.flw, R384
  | cFlwsp (rd : BitVec 5) (uimm : BitVec 6)  -- c.flwsp, R385
  | cFsw (rs2p rs1p : BitVec 3) (uimm : BitVec 5)  -- c.fsw, R386
  | cFswsp (rs2 : BitVec 5) (uimm : BitVec 6)  -- c.fswsp, R387
  | flw (rd rs1 : BitVec 5) (offset : BitVec 12)  -- flw, R410
  | fsw (rs2 rs1 : BitVec 5) (offset : BitVec 12)  -- fsw, R411
  | fmaddS (rd rs1 rs2 rs3 : BitVec 5) (rm : BitVec 3)  -- fmadd.s, R412
  | fmsubS (rd rs1 rs2 rs3 : BitVec 5) (rm : BitVec 3)  -- fmsub.s, R413
  | fnmaddS (rd rs1 rs2 rs3 : BitVec 5) (rm : BitVec 3)  -- fnmadd.s, R414
  | fnmsubS (rd rs1 rs2 rs3 : BitVec 5) (rm : BitVec 3)  -- fnmsub.s, R415
  | faddS (rd rs1 rs2 : BitVec 5) (rm : BitVec 3)  -- fadd.s, R416
  | fsubS (rd rs1 rs2 : BitVec 5) (rm : BitVec 3)  -- fsub.s, R417
  | fmulS (rd rs1 rs2 : BitVec 5) (rm : BitVec 3)  -- fmul.s, R418
  | fdivS (rd rs1 rs2 : BitVec 5) (rm : BitVec 3)  -- fdiv.s, R419
  | fsqrtS (rd rs1 : BitVec 5) (rm : BitVec 3)  -- fsqrt.s, R420
  | fminS (rd rs1 rs2 : BitVec 5)  -- fmin.s, R421
  | fmaxS (rd rs1 rs2 : BitVec 5)  -- fmax.s, R422
  | fcvtWS (rd rs1 : BitVec 5) (rm : BitVec 3)  -- fcvt.w.s, R423
  | fcvtWuS (rd rs1 : BitVec 5) (rm : BitVec 3)  -- fcvt.wu.s, R424
  | fcvtSW (rd rs1 : BitVec 5) (rm : BitVec 3)  -- fcvt.s.w, R425
  | fcvtSWu (rd rs1 : BitVec 5) (rm : BitVec 3)  -- fcvt.s.wu, R426
  | fsgnjS (rd rs1 rs2 : BitVec 5)  -- fsgnj.s, R427
  | fsgnjnS (rd rs1 rs2 : BitVec 5)  -- fsgnjn.s, R428
  | fsgnjxS (rd rs1 rs2 : BitVec 5)  -- fsgnjx.s, R429
  | fmvXW (rd rs1 : BitVec 5)  -- fmv.x.w, R430
  | fmvWX (rd rs1 : BitVec 5)  -- fmv.w.x, R431
  | feqS (rd rs1 rs2 : BitVec 5)  -- feq.s, R432
  | fltS (rd rs1 rs2 : BitVec 5)  -- flt.s, R433
  | fleS (rd rs1 rs2 : BitVec 5)  -- fle.s, R434
  | fclassS (rd rs1 : BitVec 5)  -- fclass.s, R435
  | lwu (rd rs1 : BitVec 5) (offset : BitVec 12)  -- lwu, R441
  | ld (rd rs1 : BitVec 5) (offset : BitVec 12)  -- ld, R442
  | sd (rs2 rs1 : BitVec 5) (offset : BitVec 12)  -- sd, R443
  | addw (rd rs1 rs2 : BitVec 5)  -- addw, R444
  | addiw (rd rs1 : BitVec 5) (imm : BitVec 12)  -- addiw, R445
  | subw (rd rs1 rs2 : BitVec 5)  -- subw, R446
  | sllw (rd rs1 rs2 : BitVec 5)  -- sllw, R447
  | slliw (rd rs1 shamt : BitVec 5)  -- slliw, R448
  | sraw (rd rs1 rs2 : BitVec 5)  -- sraw, R449
  | sraiw (rd rs1 shamt : BitVec 5)  -- sraiw, R450
  | srliw (rd rs1 shamt : BitVec 5)  -- srliw, R451
  | srlw (rd rs1 rs2 : BitVec 5)  -- srlw, R452
  | mulw (rd rs1 rs2 : BitVec 5)  -- mulw, R454
  | divw (rd rs1 rs2 : BitVec 5)  -- divw, R455
  | divuw (rd rs1 rs2 : BitVec 5)  -- divuw, R456
  | remw (rd rs1 rs2 : BitVec 5)  -- remw, R457
  | remuw (rd rs1 rs2 : BitVec 5)  -- remuw, R458
  | lrD (rd rs1 : BitVec 5) (aq rl : BitVec 1)  -- lr.d, R461
  | scD (rd rs2 rs1 : BitVec 5) (aq rl : BitVec 1)  -- sc.d, R463
  | amoaddD (rd rs2 rs1 : BitVec 5) (aq rl : BitVec 1)  -- amoadd.d, R464
  | amoandD (rd rs2 rs1 : BitVec 5) (aq rl : BitVec 1)  -- amoand.d, R465
  | amomaxD (rd rs2 rs1 : BitVec 5) (aq rl : BitVec 1)  -- amomax.d, R466
  | amomaxuD (rd rs2 rs1 : BitVec 5) (aq rl : BitVec 1)  -- amomaxu.d, R467
  | amominD (rd rs2 rs1 : BitVec 5) (aq rl : BitVec 1)  -- amomin.d, R468
  | amominuD (rd rs2 rs1 : BitVec 5) (aq rl : BitVec 1)  -- amominu.d, R469
  | amominuW (rd rs2 rs1 : BitVec 5) (aq rl : BitVec 1)  -- amominu.w, R470
  | amoorD (rd rs2 rs1 : BitVec 5) (aq rl : BitVec 1)  -- amoor.d, R471
  | amoswapD (rd rs2 rs1 : BitVec 5) (aq rl : BitVec 1)  -- amoswap.d, R472
  | amoxorD (rd rs2 rs1 : BitVec 5) (aq rl : BitVec 1)  -- amoxor.d, R473
  | fld (rd rs1 : BitVec 5) (offset : BitVec 12)  -- fld, R481
  | fsd (rs2 rs1 : BitVec 5) (offset : BitVec 12)  -- fsd, R482
  | fmaddD (rd rs1 rs2 rs3 : BitVec 5) (rm : BitVec 3)  -- fmadd.d, R483
  | fmsubD (rd rs1 rs2 rs3 : BitVec 5) (rm : BitVec 3)  -- fmsub.d, R484
  | fnmsubD (rd rs1 rs2 rs3 : BitVec 5) (rm : BitVec 3)  -- fnmsub.d, R485
  | fnmaddD (rd rs1 rs2 rs3 : BitVec 5) (rm : BitVec 3)  -- fnmadd.d, R486
  | faddD (rd rs1 rs2 : BitVec 5) (rm : BitVec 3)  -- fadd.d, R487
  | fsubD (rd rs1 rs2 : BitVec 5) (rm : BitVec 3)  -- fsub.d, R488
  | fmulD (rd rs1 rs2 : BitVec 5) (rm : BitVec 3)  -- fmul.d, R489
  | fdivD (rd rs1 rs2 : BitVec 5) (rm : BitVec 3)  -- fdiv.d, R490
  | fsqrtD (rd rs1 : BitVec 5) (rm : BitVec 3)  -- fsqrt.d, R491
  | fsgnjD (rd rs1 rs2 : BitVec 5)  -- fsgnj.d, R492
  | fsgnjnD (rd rs1 rs2 : BitVec 5)  -- fsgnjn.d, R493
  | fsgnjxD (rd rs1 rs2 : BitVec 5)  -- fsgnjx.d, R494
  | fminD (rd rs1 rs2 : BitVec 5)  -- fmin.d, R495
  | fmaxD (rd rs1 rs2 : BitVec 5)  -- fmax.d, R496
  | fcvtSD (rd rs1 : BitVec 5) (rm : BitVec 3)  -- fcvt.s.d, R497
  | fcvtDS (rd rs1 : BitVec 5) (rm : BitVec 3)  -- fcvt.d.s, R498
  | fcvtWD (rd rs1 : BitVec 5) (rm : BitVec 3)  -- fcvt.w.d, R499
  | fcvtWuD (rd rs1 : BitVec 5) (rm : BitVec 3)  -- fcvt.wu.d, R500
  | fcvtDW (rd rs1 : BitVec 5) (rm : BitVec 3)  -- fcvt.d.w, R501
  | fcvtDWu (rd rs1 : BitVec 5) (rm : BitVec 3)  -- fcvt.d.wu, R502
  | feqD (rd rs1 rs2 : BitVec 5)  -- feq.d, R503
  | fltD (rd rs1 rs2 : BitVec 5)  -- flt.d, R504
  | fleD (rd rs1 rs2 : BitVec 5)  -- fle.d, R505
  | fmvDX (rd rs1 : BitVec 5)  -- fmv.d.x, R506
  | fmvXD (rd rs1 : BitVec 5)  -- fmv.x.d, R507
  | fcvtDL (rd rs1 : BitVec 5) (rm : BitVec 3)  -- fcvt.d.l, R508
  | fcvtDLu (rd rs1 : BitVec 5) (rm : BitVec 3)  -- fcvt.d.lu, R509
  | fcvtLD (rd rs1 : BitVec 5) (rm : BitVec 3)  -- fcvt.l.d, R510
  | fcvtLS (rd rs1 : BitVec 5) (rm : BitVec 3)  -- fcvt.l.s, R511
  | fcvtLuD (rd rs1 : BitVec 5) (rm : BitVec 3)  -- fcvt.lu.d, R512
  | fcvtLuS (rd rs1 : BitVec 5) (rm : BitVec 3)  -- fcvt.lu.s, R513
  | fcvtSL (rd rs1 : BitVec 5) (rm : BitVec 3)  -- fcvt.s.l, R514
  | fcvtSLu (rd rs1 : BitVec 5) (rm : BitVec 3)  -- fcvt.s.lu, R515
  | fclassD (rd rs1 : BitVec 5)  -- fclass.d, R516
  | cLd (rdp rs1p : BitVec 3) (uimm : BitVec 5)  -- c.ld, R526
  | cLdsp (rd : BitVec 5) (uimm : BitVec 6)  -- c.ldsp, R527
  | cSd (rs2p rs1p : BitVec 3) (uimm : BitVec 5)  -- c.sd, R528
  | cSdsp (rs2 : BitVec 5) (uimm : BitVec 6)  -- c.sdsp, R529
  | cAddw (rdp rs2p : BitVec 3)  -- c.addw, R530
  | cAddiw (rd : BitVec 5) (imm : BitVec 6)  -- c.addiw, R531
  | cSubw (rdp rs2p : BitVec 3)  -- c.subw, R532
  | cFld (rdp rs1p : BitVec 3) (uimm : BitVec 5)  -- c.fld, R533
  | cFldsp (rd : BitVec 5) (uimm : BitVec 6)  -- c.fldsp, R534
  | cFsd (rs2p rs1p : BitVec 3) (uimm : BitVec 5)  -- c.fsd, R535
  | cFsdsp (rs2 : BitVec 5) (uimm : BitVec 6)  -- c.fsdsp, R536
  | vsetvli (rd rs1 : BitVec 5) (zimm : BitVec 11)  -- vsetvli, R541
  | vsetvl (rd rs1 rs2 : BitVec 5)  -- vsetvl, R542
  | vlbV (vd rs1 : BitVec 5) (vm : BitVec 1)  -- vlb.v, R560
  | vlhV (vd rs1 : BitVec 5) (vm : BitVec 1)  -- vlh.v, R561
  | vlwV (vd rs1 : BitVec 5) (vm : BitVec 1)  -- vlw.v, R562
  | vlbuV (vd rs1 : BitVec 5) (vm : BitVec 1)  -- vlbu.v, R563
  | vlhuV (vd rs1 : BitVec 5) (vm : BitVec 1)  -- vlhu.v, R564
  | vlwuV (vd rs1 : BitVec 5) (vm : BitVec 1)  -- vlwu.v, R565
  | vleV (vd rs1 : BitVec 5) (vm : BitVec 1)  -- vle.v, R566
  | vsbV (vs3 rs1 : BitVec 5) (vm : BitVec 1)  -- vsb.v, R567
  | vshV (vs3 rs1 : BitVec 5) (vm : BitVec 1)  -- vsh.v, R568
  | vswV (vs3 rs1 : BitVec 5) (vm : BitVec 1)  -- vsw.v, R569
  | vseV (vs3 rs1 : BitVec 5) (vm : BitVec 1)  -- vse.v, R570
  | vlsbV (vd rs1 rs2 : BitVec 5) (vm : BitVec 1)  -- vlsb.v, R572
  | vlshV (vd rs1 rs2 : BitVec 5) (vm : BitVec 1)  -- vlsh.v, R573
  | vlswV (vd rs1 rs2 : BitVec 5) (vm : BitVec 1)  -- vlsw.v, R574
  | vlsbuV (vd rs1 rs2 : BitVec 5) (vm : BitVec 1)  -- vlsbu.v, R575
  | vlshuV (vd rs1 rs2 : BitVec 5) (vm : BitVec 1)  -- vlshu.v, R576
  | vlswuV (vd rs1 rs2 : BitVec 5) (vm : BitVec 1)  -- vlswu.v, R577
  | vlseV (vd rs1 rs2 : BitVec 5) (vm : BitVec 1)  -- vlse.v, R578
  | vssbV (vs3 rs1 rs2 : BitVec 5) (vm : BitVec 1)  -- vssb.v, R579
  | vsshV (vs3 rs1 rs2 : BitVec 5) (vm : BitVec 1)  -- vssh.v, R580
  | vsswV (vs3 rs1 rs2 : BitVec 5) (vm : BitVec 1)  -- vssw.v, R581
  | vsseV (vs3 rs1 rs2 : BitVec 5) (vm : BitVec 1)  -- vsse.v, R582
  | vlxbV (vd rs1 vs2 : BitVec 5) (vm : BitVec 1)  -- vlxb.v, R584
  | vlxhV (vd rs1 vs2 : BitVec 5) (vm : BitVec 1)  -- vlxh.v, R585
  | vlxwV (vd rs1 vs2 : BitVec 5) (vm : BitVec 1)  -- vlxw.v, R586
  | vlxbuV (vd rs1 vs2 : BitVec 5) (vm : BitVec 1)  -- vlxbu.v, R587
  | vlxhuV (vd rs1 vs2 : BitVec 5) (vm : BitVec 1)  -- vlxhu.v, R588
  | vlxwuV (vd rs1 vs2 : BitVec 5) (vm : BitVec 1)  -- vlxwu.v, R589
  | vlxeV (vd rs1 vs2 : BitVec 5) (vm : BitVec 1)  -- vlxe.v, R590
  | vsxbV (vs3 rs1 vs2 : BitVec 5) (vm : BitVec 1)  -- vsxb.v, R591
  | vsxhV (vs3 rs1 vs2 : BitVec 5) (vm : BitVec 1)  -- vsxh.v, R592
  | vsxwV (vs3 rs1 vs2 : BitVec 5) (vm : BitVec 1)  -- vsxw.v, R593
  | vsxeV (vs3 rs1 vs2 : BitVec 5) (vm : BitVec 1)  -- vsxe.v, R594
  | vaddVv (vd vs2 vs1 : BitVec 5) (vm : BitVec 1)  -- vadd.vv, R605
  | vaddVx (vd vs2 rs1 : BitVec 5) (vm : BitVec 1)  -- vadd.vx, R606
  | vaddVi (vd vs2 simm5 : BitVec 5) (vm : BitVec 1)  -- vadd.vi, R607
  | vsubVv (vd vs2 vs1 : BitVec 5) (vm : BitVec 1)  -- vsub.vv, R608
  | vsubVx (vd vs2 rs1 : BitVec 5) (vm : BitVec 1)  -- vsub.vx, R609
  | vrsubVx (vd vs2 rs1 : BitVec 5) (vm : BitVec 1)  -- vrsub.vx, R610
  | vrsubVi (vd vs2 simm5 : BitVec 5) (vm : BitVec 1)  -- vrsub.vi, R611
  | vandVv (vd vs2 vs1 : BitVec 5) (vm : BitVec 1)  -- vand.vv, R612
  | vandVx (vd vs2 rs1 : BitVec 5) (vm : BitVec 1)  -- vand.vx, R613
  | vandVi (vd vs2 simm5 : BitVec 5) (vm : BitVec 1)  -- vand.vi, R614
  | vorVv (vd vs2 vs1 : BitVec 5) (vm : BitVec 1)  -- vor.vv, R615
  | vorVx (vd vs2 rs1 : BitVec 5) (vm : BitVec 1)  -- vor.vx, R616
  | vorVi (vd vs2 simm5 : BitVec 5) (vm : BitVec 1)  -- vor.vi, R617
  | vxorVv (vd vs2 vs1 : BitVec 5) (vm : BitVec 1)  -- vxor.vv, R618
  | vxorVx (vd vs2 rs1 : BitVec 5) (vm : BitVec 1)  -- vxor.vx, R619
  | vxorVi (vd vs2 simm5 : BitVec 5) (vm : BitVec 1)  -- vxor.vi, R620
  | vsllVv (vd vs2 vs1 : BitVec 5) (vm : BitVec 1)  -- vsll.vv, R622
  | vsllVx (vd vs2 rs1 : BitVec 5) (vm : BitVec 1)  -- vsll.vx, R623
  | vsllVi (vd vs2 simm5 : BitVec 5) (vm : BitVec 1)  -- vsll.vi, R624
  | vsrlVv (vd vs2 vs1 : BitVec 5) (vm : BitVec 1)  -- vsrl.vv, R625
  | vsrlVx (vd vs2 rs1 : BitVec 5) (vm : BitVec 1)  -- vsrl.vx, R626
  | vsrlVi (vd vs2 simm5 : BitVec 5) (vm : BitVec 1)  -- vsrl.vi, R627
  | vsraVv (vd vs2 vs1 : BitVec 5) (vm : BitVec 1)  -- vsra.vv, R628
  | vsraVx (vd vs2 rs1 : BitVec 5) (vm : BitVec 1)  -- vsra.vx, R629
  | vsraVi (vd vs2 simm5 : BitVec 5) (vm : BitVec 1)  -- vsra.vi, R630
  | vmseqVv (vd vs2 vs1 : BitVec 5) (vm : BitVec 1)  -- vmseq.vv, R651
  | vmseqVx (vd vs2 rs1 : BitVec 5) (vm : BitVec 1)  -- vmseq.vx, R652
  | vmseqVi (vd vs2 simm5 : BitVec 5) (vm : BitVec 1)  -- vmseq.vi, R653
  | vmsneVv (vd vs2 vs1 : BitVec 5) (vm : BitVec 1)  -- vmsne.vv, R654
  | vmsneVx (vd vs2 rs1 : BitVec 5) (vm : BitVec 1)  -- vmsne.vx, R655
  | vmsneVi (vd vs2 simm5 : BitVec 5) (vm : BitVec 1)  -- vmsne.vi, R656
  | vmsltuVv (vd vs2 vs1 : BitVec 5) (vm : BitVec 1)  -- vmsltu.vv, R657
  | vmsltuVx (vd vs2 rs1 : BitVec 5) (vm : BitVec 1)  -- vmsltu.vx, R658
  | vmsltVv (vd vs2 vs1 : BitVec 5) (vm : BitVec 1)  -- vmslt.vv, R659
  | vmsltVx (vd vs2 rs1 : BitVec 5) (vm : BitVec 1)  -- vmslt.vx, R660
  | vmsleuVv (vd vs2 vs1 : BitVec 5) (vm : BitVec 1)  -- vmsleu.vv, R661
  | vmsleuVx (vd vs2 rs1 : BitVec 5) (vm : BitVec 1)  -- vmsleu.vx, R662
  | vmsleuVi (vd vs2 simm5 : BitVec 5) (vm : BitVec 1)  -- vmsleu.vi, R663
  | vmsleVv (vd vs2 vs1 : BitVec 5) (vm : BitVec 1)  -- vmsle.vv, R664
  | vmsleVx (vd vs2 rs1 : BitVec 5) (vm : BitVec 1)  -- vmsle.vx, R665
  | vmsleVi (vd vs2 simm5 : BitVec 5) (vm : BitVec 1)  -- vmsle.vi, R666
  | vmsgtuVx (vd vs2 rs1 : BitVec 5) (vm : BitVec 1)  -- vmsgtu.vx, R667
  | vmsgtuVi (vd vs2 simm5 : BitVec 5) (vm : BitVec 1)  -- vmsgtu.vi, R668
  | vmsgtVx (vd vs2 rs1 : BitVec 5) (vm : BitVec 1)  -- vmsgt.vx, R669
  | vmsgtVi (vd vs2 simm5 : BitVec 5) (vm : BitVec 1)  -- vmsgt.vi, R670
  | vminuVv (vd vs2 vs1 : BitVec 5) (vm : BitVec 1)  -- vminu.vv, R671
  | vminuVx (vd vs2 rs1 : BitVec 5) (vm : BitVec 1)  -- vminu.vx, R672
  | vminVv (vd vs2 vs1 : BitVec 5) (vm : BitVec 1)  -- vmin.vv, R673
  | vminVx (vd vs2 rs1 : BitVec 5) (vm : BitVec 1)  -- vmin.vx, R674
  | vmaxuVv (vd vs2 vs1 : BitVec 5) (vm : BitVec 1)  -- vmaxu.vv, R675
  | vmaxuVx (vd vs2 rs1 : BitVec 5) (vm : BitVec 1)  -- vmaxu.vx, R676
  | vmaxVv (vd vs2 vs1 : BitVec 5) (vm : BitVec 1)  -- vmax.vv, R677
  | vmaxVx (vd vs2 rs1 : BitVec 5) (vm : BitVec 1)  -- vmax.vx, R678
  | vmulVv (vd vs2 vs1 : BitVec 5) (vm : BitVec 1)  -- vmul.vv, R680
  | vmulVx (vd vs2 rs1 : BitVec 5) (vm : BitVec 1)  -- vmul.vx, R681
  | vmulhVv (vd vs2 vs1 : BitVec 5) (vm : BitVec 1)  -- vmulh.vv, R682
  | vmulhVx (vd vs2 rs1 : BitVec 5) (vm : BitVec 1)  -- vmulh.vx, R683
  | vmulhuVv (vd vs2 vs1 : BitVec 5) (vm : BitVec 1)  -- vmulhu.vv, R684
  | vmulhuVx (vd vs2 rs1 : BitVec 5) (vm : BitVec 1)  -- vmulhu.vx, R685
  | vmulhsuVv (vd vs2 vs1 : BitVec 5) (vm : BitVec 1)  -- vmulhsu.vv, R686
  | vmulhsuVx (vd vs2 rs1 : BitVec 5) (vm : BitVec 1)  -- vmulhsu.vx, R687
  | vmaccVv (vd vs2 vs1 : BitVec 5) (vm : BitVec 1)  -- vmacc.vv, R689
  | vmaccVx (vd vs2 rs1 : BitVec 5) (vm : BitVec 1)  -- vmacc.vx, R690
  | vnmsacVv (vd vs2 vs1 : BitVec 5) (vm : BitVec 1)  -- vnmsac.vv, R691
  | vnmsacVx (vd vs2 rs1 : BitVec 5) (vm : BitVec 1)  -- vnmsac.vx, R692
  | vmaddVv (vd vs2 vs1 : BitVec 5) (vm : BitVec 1)  -- vmadd.vv, R693
  | vmaddVx (vd vs2 rs1 : BitVec 5) (vm : BitVec 1)  -- vmadd.vx, R694
  | vnmsubVv (vd vs2 vs1 : BitVec 5) (vm : BitVec 1)  -- vnmsub.vv, R695
  | vnmsubVx (vd vs2 rs1 : BitVec 5) (vm : BitVec 1)  -- vnmsub.vx, R696
deriving DecidableEq, Repr

end Sys2Proof
end

