-- ==== Sys2Proof/WellFormed.lean ====
section
/-! DEFINITION. Which instructions exist: the conditions on the configuration (R177 a to c, with the lists of R184) and
the operand values that make a listed pattern illegal (R178 cases 1 to 13). An instruction that is not well formed is
no instruction: decoding never gives it, and `step` raises IllegalInstruction for its bits (R176). -/

namespace Sys2Proof

/-- What an instruction needs of the configuration (R177). -/
inductive Ext where
  /-- exists in every configuration -/
  | base
  /-- exists only when XLEN = 64 -/
  | rv64
  /-- exists only when XLEN = 32 -/
  | rv32
  /-- exists when HAS_F -/
  | f
  /-- exists when HAS_F and XLEN = 32 (c.flw and its kin) -/
  | f32
  /-- exists when HAS_F and XLEN = 64 (the long conversions of singles) -/
  | f64
  /-- exists when HAS_D -/
  | d
  /-- exists when HAS_D and XLEN = 64 -/
  | d64
  /-- exists when HAS_V -/
  | v
deriving DecidableEq, Repr

/-- The configuration has it (R177 a, b, c). -/
def Ext.present (c : Config) : Ext → Bool
  | .base => true
  | .rv64 => c.rv64
  | .rv32 => !c.rv64
  | .f    => c.hasF
  | .f32  => c.hasF && !c.rv64
  | .f64  => c.hasF && c.rv64
  | .d    => c.hasD
  | .d64  => c.hasD && c.rv64
  | .v    => c.hasV

/-- What each instruction needs (R177, R184). -/
def Instr.ext : Instr → Ext
  | .lb _ _ _ => .base
  | .lbu _ _ _ => .base
  | .lh _ _ _ => .base
  | .lhu _ _ _ => .base
  | .lw _ _ _ => .base
  | .sb _ _ _ => .base
  | .sh _ _ _ => .base
  | .sw _ _ _ => .base
  | .sll _ _ _ => .base
  | .slli _ _ _ => .base
  | .srl _ _ _ => .base
  | .srli _ _ _ => .base
  | .sra _ _ _ => .base
  | .srai _ _ _ => .base
  | .add _ _ _ => .base
  | .addi _ _ _ => .base
  | .sub _ _ _ => .base
  | .lui _ _ => .base
  | .auipc _ _ => .base
  | .and _ _ _ => .base
  | .andi _ _ _ => .base
  | .or _ _ _ => .base
  | .ori _ _ _ => .base
  | .xor _ _ _ => .base
  | .xori _ _ _ => .base
  | .slt _ _ _ => .base
  | .sltu _ _ _ => .base
  | .slti _ _ _ => .base
  | .sltiu _ _ _ => .base
  | .beq _ _ _ => .base
  | .bne _ _ _ => .base
  | .blt _ _ _ => .base
  | .bge _ _ _ => .base
  | .bltu _ _ _ => .base
  | .bgeu _ _ _ => .base
  | .jal _ _ => .base
  | .jalr _ _ _ => .base
  | .fence _ _ => .base
  | .fenceI => .base
  | .sfenceVma _ _ => .base
  | .csrrw _ _ _ => .base
  | .csrrs _ _ _ => .base
  | .csrrc _ _ _ => .base
  | .csrrwi _ _ _ => .base
  | .csrrsi _ _ _ => .base
  | .csrrci _ _ _ => .base
  | .ecall => .base
  | .ebreak => .base
  | .mret => .base
  | .sret => .base
  | .wfi => .base
  | .mul _ _ _ => .base
  | .mulh _ _ _ => .base
  | .mulhsu _ _ _ => .base
  | .mulhu _ _ _ => .base
  | .div _ _ _ => .base
  | .divu _ _ _ => .base
  | .rem _ _ _ => .base
  | .remu _ _ _ => .base
  | .cLw _ _ _ => .base
  | .cSw _ _ _ => .base
  | .cLwsp _ _ => .base
  | .cSwsp _ _ => .base
  | .cBeqz _ _ => .base
  | .cBnez _ _ => .base
  | .cJ _ => .base
  | .cJr _ => .base
  | .cJalr _ => .base
  | .cEbreak => .base
  | .cAdd _ _ => .base
  | .cAddi _ _ => .base
  | .cSub _ _ => .base
  | .cAddi16sp _ => .base
  | .cAddi4spn _ _ => .base
  | .cAnd _ _ => .base
  | .cAndi _ _ => .base
  | .cOr _ _ => .base
  | .cXor _ _ => .base
  | .cSlli _ _ => .base
  | .cSrli _ _ => .base
  | .cSrai _ _ => .base
  | .cMv _ _ => .base
  | .cLi _ _ => .base
  | .cLui _ _ => .base
  | .amominuW _ _ _ _ _ => .base
  | .lwu _ _ _ => .rv64
  | .ld _ _ _ => .rv64
  | .sd _ _ _ => .rv64
  | .addw _ _ _ => .rv64
  | .addiw _ _ _ => .rv64
  | .subw _ _ _ => .rv64
  | .sllw _ _ _ => .rv64
  | .slliw _ _ _ => .rv64
  | .sraw _ _ _ => .rv64
  | .sraiw _ _ _ => .rv64
  | .srliw _ _ _ => .rv64
  | .srlw _ _ _ => .rv64
  | .mulw _ _ _ => .rv64
  | .divw _ _ _ => .rv64
  | .divuw _ _ _ => .rv64
  | .remw _ _ _ => .rv64
  | .remuw _ _ _ => .rv64
  | .lrD _ _ _ _ => .rv64
  | .scD _ _ _ _ _ => .rv64
  | .amoaddD _ _ _ _ _ => .rv64
  | .amoandD _ _ _ _ _ => .rv64
  | .amomaxD _ _ _ _ _ => .rv64
  | .amomaxuD _ _ _ _ _ => .rv64
  | .amominD _ _ _ _ _ => .rv64
  | .amominuD _ _ _ _ _ => .rv64
  | .amoorD _ _ _ _ _ => .rv64
  | .amoswapD _ _ _ _ _ => .rv64
  | .amoxorD _ _ _ _ _ => .rv64
  | .cLd _ _ _ => .rv64
  | .cLdsp _ _ => .rv64
  | .cSd _ _ _ => .rv64
  | .cSdsp _ _ => .rv64
  | .cAddw _ _ => .rv64
  | .cAddiw _ _ => .rv64
  | .cSubw _ _ => .rv64
  | .cJal _ => .rv32
  | .flw _ _ _ => .f
  | .fsw _ _ _ => .f
  | .fmaddS _ _ _ _ _ => .f
  | .fmsubS _ _ _ _ _ => .f
  | .fnmaddS _ _ _ _ _ => .f
  | .fnmsubS _ _ _ _ _ => .f
  | .faddS _ _ _ _ => .f
  | .fsubS _ _ _ _ => .f
  | .fmulS _ _ _ _ => .f
  | .fdivS _ _ _ _ => .f
  | .fsqrtS _ _ _ => .f
  | .fminS _ _ _ => .f
  | .fmaxS _ _ _ => .f
  | .fcvtWS _ _ _ => .f
  | .fcvtWuS _ _ _ => .f
  | .fcvtSW _ _ _ => .f
  | .fcvtSWu _ _ _ => .f
  | .fsgnjS _ _ _ => .f
  | .fsgnjnS _ _ _ => .f
  | .fsgnjxS _ _ _ => .f
  | .fmvXW _ _ => .f
  | .fmvWX _ _ => .f
  | .feqS _ _ _ => .f
  | .fltS _ _ _ => .f
  | .fleS _ _ _ => .f
  | .fclassS _ _ => .f
  | .cFlw _ _ _ => .f32
  | .cFlwsp _ _ => .f32
  | .cFsw _ _ _ => .f32
  | .cFswsp _ _ => .f32
  | .fcvtLS _ _ _ => .f64
  | .fcvtLuS _ _ _ => .f64
  | .fcvtSL _ _ _ => .f64
  | .fcvtSLu _ _ _ => .f64
  | .fld _ _ _ => .d
  | .fsd _ _ _ => .d
  | .fmaddD _ _ _ _ _ => .d
  | .fmsubD _ _ _ _ _ => .d
  | .fnmsubD _ _ _ _ _ => .d
  | .fnmaddD _ _ _ _ _ => .d
  | .faddD _ _ _ _ => .d
  | .fsubD _ _ _ _ => .d
  | .fmulD _ _ _ _ => .d
  | .fdivD _ _ _ _ => .d
  | .fsqrtD _ _ _ => .d
  | .fsgnjD _ _ _ => .d
  | .fsgnjnD _ _ _ => .d
  | .fsgnjxD _ _ _ => .d
  | .fminD _ _ _ => .d
  | .fmaxD _ _ _ => .d
  | .fcvtSD _ _ _ => .d
  | .fcvtDS _ _ _ => .d
  | .fcvtWD _ _ _ => .d
  | .fcvtWuD _ _ _ => .d
  | .fcvtDW _ _ _ => .d
  | .fcvtDWu _ _ _ => .d
  | .feqD _ _ _ => .d
  | .fltD _ _ _ => .d
  | .fleD _ _ _ => .d
  | .fclassD _ _ => .d
  | .cFld _ _ _ => .d
  | .cFldsp _ _ => .d
  | .cFsd _ _ _ => .d
  | .cFsdsp _ _ => .d
  | .fmvDX _ _ => .d64
  | .fmvXD _ _ => .d64
  | .fcvtDL _ _ _ => .d64
  | .fcvtDLu _ _ _ => .d64
  | .fcvtLD _ _ _ => .d64
  | .fcvtLuD _ _ _ => .d64
  | .vsetvli _ _ _ => .v
  | .vsetvl _ _ _ => .v
  | .vlbV _ _ _ => .v
  | .vlhV _ _ _ => .v
  | .vlwV _ _ _ => .v
  | .vlbuV _ _ _ => .v
  | .vlhuV _ _ _ => .v
  | .vlwuV _ _ _ => .v
  | .vleV _ _ _ => .v
  | .vsbV _ _ _ => .v
  | .vshV _ _ _ => .v
  | .vswV _ _ _ => .v
  | .vseV _ _ _ => .v
  | .vlsbV _ _ _ _ => .v
  | .vlshV _ _ _ _ => .v
  | .vlswV _ _ _ _ => .v
  | .vlsbuV _ _ _ _ => .v
  | .vlshuV _ _ _ _ => .v
  | .vlswuV _ _ _ _ => .v
  | .vlseV _ _ _ _ => .v
  | .vssbV _ _ _ _ => .v
  | .vsshV _ _ _ _ => .v
  | .vsswV _ _ _ _ => .v
  | .vsseV _ _ _ _ => .v
  | .vlxbV _ _ _ _ => .v
  | .vlxhV _ _ _ _ => .v
  | .vlxwV _ _ _ _ => .v
  | .vlxbuV _ _ _ _ => .v
  | .vlxhuV _ _ _ _ => .v
  | .vlxwuV _ _ _ _ => .v
  | .vlxeV _ _ _ _ => .v
  | .vsxbV _ _ _ _ => .v
  | .vsxhV _ _ _ _ => .v
  | .vsxwV _ _ _ _ => .v
  | .vsxeV _ _ _ _ => .v
  | .vaddVv _ _ _ _ => .v
  | .vaddVx _ _ _ _ => .v
  | .vaddVi _ _ _ _ => .v
  | .vsubVv _ _ _ _ => .v
  | .vsubVx _ _ _ _ => .v
  | .vrsubVx _ _ _ _ => .v
  | .vrsubVi _ _ _ _ => .v
  | .vandVv _ _ _ _ => .v
  | .vandVx _ _ _ _ => .v
  | .vandVi _ _ _ _ => .v
  | .vorVv _ _ _ _ => .v
  | .vorVx _ _ _ _ => .v
  | .vorVi _ _ _ _ => .v
  | .vxorVv _ _ _ _ => .v
  | .vxorVx _ _ _ _ => .v
  | .vxorVi _ _ _ _ => .v
  | .vsllVv _ _ _ _ => .v
  | .vsllVx _ _ _ _ => .v
  | .vsllVi _ _ _ _ => .v
  | .vsrlVv _ _ _ _ => .v
  | .vsrlVx _ _ _ _ => .v
  | .vsrlVi _ _ _ _ => .v
  | .vsraVv _ _ _ _ => .v
  | .vsraVx _ _ _ _ => .v
  | .vsraVi _ _ _ _ => .v
  | .vmseqVv _ _ _ _ => .v
  | .vmseqVx _ _ _ _ => .v
  | .vmseqVi _ _ _ _ => .v
  | .vmsneVv _ _ _ _ => .v
  | .vmsneVx _ _ _ _ => .v
  | .vmsneVi _ _ _ _ => .v
  | .vmsltuVv _ _ _ _ => .v
  | .vmsltuVx _ _ _ _ => .v
  | .vmsltVv _ _ _ _ => .v
  | .vmsltVx _ _ _ _ => .v
  | .vmsleuVv _ _ _ _ => .v
  | .vmsleuVx _ _ _ _ => .v
  | .vmsleuVi _ _ _ _ => .v
  | .vmsleVv _ _ _ _ => .v
  | .vmsleVx _ _ _ _ => .v
  | .vmsleVi _ _ _ _ => .v
  | .vmsgtuVx _ _ _ _ => .v
  | .vmsgtuVi _ _ _ _ => .v
  | .vmsgtVx _ _ _ _ => .v
  | .vmsgtVi _ _ _ _ => .v
  | .vminuVv _ _ _ _ => .v
  | .vminuVx _ _ _ _ => .v
  | .vminVv _ _ _ _ => .v
  | .vminVx _ _ _ _ => .v
  | .vmaxuVv _ _ _ _ => .v
  | .vmaxuVx _ _ _ _ => .v
  | .vmaxVv _ _ _ _ => .v
  | .vmaxVx _ _ _ _ => .v
  | .vmulVv _ _ _ _ => .v
  | .vmulVx _ _ _ _ => .v
  | .vmulhVv _ _ _ _ => .v
  | .vmulhVx _ _ _ _ => .v
  | .vmulhuVv _ _ _ _ => .v
  | .vmulhuVx _ _ _ _ => .v
  | .vmulhsuVv _ _ _ _ => .v
  | .vmulhsuVx _ _ _ _ => .v
  | .vmaccVv _ _ _ _ => .v
  | .vmaccVx _ _ _ _ => .v
  | .vnmsacVv _ _ _ _ => .v
  | .vnmsacVx _ _ _ _ => .v
  | .vmaddVv _ _ _ _ => .v
  | .vmaddVx _ _ _ _ => .v
  | .vnmsubVv _ _ _ _ => .v
  | .vnmsubVx _ _ _ _ => .v

/-- The operand restrictions of R178 cases 1 to 13 that the fields of an instruction can break. -/
def Instr.operandsOk (c : Config) : Instr → Bool
  | .slli _ _ shamt | .srli _ _ shamt | .srai _ _ shamt => c.rv64 || !shamt.getLsbD 5      -- (1)
  | .cLwsp rd _ => rd != 0                                                                -- (3)
  | .cLdsp rd _ => rd != 0                                                                -- (4)
  | .cJr rs1 => rs1 != 0                                                                  -- (5)
  | .cJalr rs1 => rs1 != 0                                                                -- (6)
  | .cAdd rd rs2 => rd != 0 && rs2 != 0                                                   -- (7)
  | .cMv _ rs2 => rs2 != 0                                                                -- (8)
  | .cAddi16sp imm => imm != 0                                                            -- (9)
  | .cAddi4spn _ uimm => uimm != 0                                                        -- (10)
  | .cLui rd imm => rd != 2 && imm != 0                                                   -- (11)
  | .cAddiw rd _ => rd != 0                                                               -- (12)
  | .cSlli _ uimm | .cSrli _ uimm | .cSrai _ uimm => c.rv64 || !uimm.getLsbD 5             -- (13)
  | _ => true

/-- The instruction exists in this configuration with these operands (R175 step 4, without the conditions that read
the state). -/
def Instr.wf (c : Config) (i : Instr) : Bool := i.ext.present c && i.operandsOk c

end Sys2Proof
end

