-- ==== Sys2Proof/Decode.lean ====
section
/-! DEFINITION. Decoding (R140 to R184), total on any bits, and after it the encoder. Decoding goes as R175 says: the
length from the two low bits (R141), the quadrant and funct3 of a 16-bit instruction (R174), the major opcode of a
32-bit one (R167) and then its function fields (R168 to R173), then the conditions of R177 and R178. What matches no
listed instruction decodes to none (R176). Some definitions are marked noncomputable for one reason only (log 22): the
compiled code of this Lean cannot build a constructor past the 245th of a type that has data, and Instr has 295; they
are plain definitions that the kernel evaluates. -/

namespace Sys2Proof

/-! ## Words and their fields -/

/-- How many bytes the instruction takes (R41: 2 or 4). -/
def Code.bytes : Code → Nat
  | .half _ => 2
  | .word _ => 4

/-- The instruction bits as a number: the trap value of an illegal instruction before it is widened (R182). -/
def Code.toNat : Code → Nat
  | .half w => w.toNat
  | .word w => w.toNat

/-- The 32-bit word whose fields these are (R142). -/
def Fields32.join (f : Fields32) : BitVec 32 :=
  f.f7 ++ f.rs2 ++ f.rs1 ++ f.f3 ++ f.rd ++ f.op

/-- The fields of a 32-bit word (R142). -/
def Fields32.split (w : BitVec 32) : Fields32 where
  f7  := w.extractLsb' 25 7
  rs2 := w.extractLsb' 20 5
  rs1 := w.extractLsb' 15 5
  f3  := w.extractLsb' 12 3
  rd  := w.extractLsb' 7 5
  op  := w.extractLsb' 0 7

/-- The 16-bit halfword whose fields these are (R158). -/
def Fields16.join (f : Fields16) : BitVec 16 :=
  f.f3 ++ f.b12 ++ f.r1 ++ f.r2 ++ f.op

/-- The fields of a 16-bit halfword (R158). -/
def Fields16.split (w : BitVec 16) : Fields16 where
  f3  := w.extractLsb' 13 3
  b12 := w.extractLsb' 12 1
  r1  := w.extractLsb' 7 5
  r2  := w.extractLsb' 2 5
  op  := w.extractLsb' 0 2

/-! ## Immediates and subfields of a 32-bit instruction -/

/-- I-type immediate, inst[31:20] (R144); also the csr field (R151). -/
def Fields32.immI (f : Fields32) : BitVec 12 := f.f7 ++ f.rs2

/-- S-type immediate, inst[31:25] and inst[11:7] (R145). -/
def Fields32.immS (f : Fields32) : BitVec 12 := f.f7 ++ f.rd

/-- B-type offset[12:1]: inst[31], inst[7], inst[30:25], inst[11:8] (R148). -/
def Fields32.immB (f : Fields32) : BitVec 12 :=
  f.f7.extractLsb' 6 1 ++ f.rd.extractLsb' 0 1 ++ f.f7.extractLsb' 0 6 ++ f.rd.extractLsb' 1 4

/-- U-type imm[31:12], inst[31:12] (R146). -/
def Fields32.immU (f : Fields32) : BitVec 20 := f.f7 ++ f.rs2 ++ f.rs1 ++ f.f3

/-- J-type offset[20:1]: inst[31], inst[19:12], inst[20], inst[30:21] (R149). -/
def Fields32.immJ (f : Fields32) : BitVec 20 :=
  f.f7.extractLsb' 6 1 ++ (f.rs1 ++ f.f3) ++ f.rs2.extractLsb' 0 1 ++ f.f7.extractLsb' 0 6 ++ f.rs2.extractLsb' 1 4

/-- funct6, inst[31:26] (R150, R155). -/
def Fields32.f6 (f : Fields32) : BitVec 6 := f.f7.extractLsb' 1 6

/-- The 6-bit shift amount, inst[25:20] (R150). -/
def Fields32.shamt (f : Fields32) : BitVec 6 := f.f7.extractLsb' 0 1 ++ f.rs2

/-- funct5, inst[31:27] (R153), or rs3 (R147). -/
def Fields32.f5 (f : Fields32) : BitVec 5 := f.f7.extractLsb' 2 5

/-- fmt, inst[26:25] (R147). -/
def Fields32.fmt (f : Fields32) : BitVec 2 := f.f7.extractLsb' 0 2

/-- rs3, inst[31:27] (R147). -/
def Fields32.rs3 (f : Fields32) : BitVec 5 := f.f5

/-- aq, inst[26] (R153). -/
def Fields32.aq (f : Fields32) : BitVec 1 := f.f7.extractLsb' 1 1

/-- rl, inst[25] (R153). -/
def Fields32.rl (f : Fields32) : BitVec 1 := f.f7.extractLsb' 0 1

/-- vm, inst[25] (R155, R156). -/
def Fields32.vm (f : Fields32) : BitVec 1 := f.f7.extractLsb' 0 1

/-- pred, inst[27:24] (R152). -/
def Fields32.pred (f : Fields32) : BitVec 4 := f.f7.extractLsb' 0 3 ++ f.rs2.extractLsb' 4 1

/-- succ, inst[23:20] (R152). -/
def Fields32.succ (f : Fields32) : BitVec 4 := f.rs2.extractLsb' 0 4

/-- zimm[10:0] of vsetvli, inst[30:20] (R157). -/
def Fields32.zimm11 (f : Fields32) : BitVec 11 := f.f7.extractLsb' 0 6 ++ f.rs2

/-! ## The major opcodes of R167 -/

/-- LOAD, by funct3 (R169). -/
def decodeLoad (f : Fields32) : Option Instr :=
  match f.f3 with
  | 0b000 => some (.lb f.rd f.rs1 f.immI)
  | 0b100 => some (.lbu f.rd f.rs1 f.immI)
  | 0b001 => some (.lh f.rd f.rs1 f.immI)
  | 0b101 => some (.lhu f.rd f.rs1 f.immI)
  | 0b010 => some (.lw f.rd f.rs1 f.immI)
  | 0b110 => some (.lwu f.rd f.rs1 f.immI)
  | 0b011 => some (.ld f.rd f.rs1 f.immI)
  | _ => none

/-- flw and fld, by the width field (R156, R167). -/
def decodeFpLoad (f : Fields32) : Option Instr :=
  match f.f3 with
  | 0b010 => some (.flw f.rd f.rs1 f.immI)
  | 0b011 => some (.fld f.rd f.rs1 f.immI)
  | _ => none

/-- A vector load, by nf and mop together (inst[31:26]) and the width (R156, R595); the unit-stride forms have
inst[24:20] = 00000. -/
def decodeVLoad (f : Fields32) : Option Instr :=
  match f.f6, f.f3 with
  | 0b000100, 0b000 => if f.rs2 = 0 then some (.vlbV f.rd f.rs1 f.vm) else none
  | 0b000100, 0b101 => if f.rs2 = 0 then some (.vlhV f.rd f.rs1 f.vm) else none
  | 0b000100, 0b110 => if f.rs2 = 0 then some (.vlwV f.rd f.rs1 f.vm) else none
  | 0b000000, 0b000 => if f.rs2 = 0 then some (.vlbuV f.rd f.rs1 f.vm) else none
  | 0b000000, 0b101 => if f.rs2 = 0 then some (.vlhuV f.rd f.rs1 f.vm) else none
  | 0b000000, 0b110 => if f.rs2 = 0 then some (.vlwuV f.rd f.rs1 f.vm) else none
  | 0b000000, 0b111 => if f.rs2 = 0 then some (.vleV f.rd f.rs1 f.vm) else none
  | 0b000110, 0b000 => some (.vlsbV f.rd f.rs1 f.rs2 f.vm)
  | 0b000110, 0b101 => some (.vlshV f.rd f.rs1 f.rs2 f.vm)
  | 0b000110, 0b110 => some (.vlswV f.rd f.rs1 f.rs2 f.vm)
  | 0b000010, 0b000 => some (.vlsbuV f.rd f.rs1 f.rs2 f.vm)
  | 0b000010, 0b101 => some (.vlshuV f.rd f.rs1 f.rs2 f.vm)
  | 0b000010, 0b110 => some (.vlswuV f.rd f.rs1 f.rs2 f.vm)
  | 0b000010, 0b111 => some (.vlseV f.rd f.rs1 f.rs2 f.vm)
  | 0b000111, 0b000 => some (.vlxbV f.rd f.rs1 f.rs2 f.vm)
  | 0b000111, 0b101 => some (.vlxhV f.rd f.rs1 f.rs2 f.vm)
  | 0b000111, 0b110 => some (.vlxwV f.rd f.rs1 f.rs2 f.vm)
  | 0b000011, 0b000 => some (.vlxbuV f.rd f.rs1 f.rs2 f.vm)
  | 0b000011, 0b101 => some (.vlxhuV f.rd f.rs1 f.rs2 f.vm)
  | 0b000011, 0b110 => some (.vlxwuV f.rd f.rs1 f.rs2 f.vm)
  | 0b000011, 0b111 => some (.vlxeV f.rd f.rs1 f.rs2 f.vm)
  | _, _ => none

/-- LOAD-FP: the scalar forms have width 010 and 011, the others are vector loads (R156). -/
def decodeLoadFp (f : Fields32) : Option Instr :=
  match f.f3 with
  | 0b010 | 0b011 => decodeFpLoad f
  | _ => decodeVLoad f

/-- fsw and fsd, by the width field (R156, R167). -/
def decodeFpStore (f : Fields32) : Option Instr :=
  match f.f3 with
  | 0b010 => some (.fsw f.rs2 f.rs1 f.immS)
  | 0b011 => some (.fsd f.rs2 f.rs1 f.immS)
  | _ => none

/-- A vector store, by nf and mop together (inst[31:26]) and the width (R156, R595). -/
def decodeVStore (f : Fields32) : Option Instr :=
  match f.f6, f.f3 with
  | 0b000000, 0b000 => if f.rs2 = 0 then some (.vsbV f.rd f.rs1 f.vm) else none
  | 0b000000, 0b101 => if f.rs2 = 0 then some (.vshV f.rd f.rs1 f.vm) else none
  | 0b000000, 0b110 => if f.rs2 = 0 then some (.vswV f.rd f.rs1 f.vm) else none
  | 0b000000, 0b111 => if f.rs2 = 0 then some (.vseV f.rd f.rs1 f.vm) else none
  | 0b000010, 0b000 => some (.vssbV f.rd f.rs1 f.rs2 f.vm)
  | 0b000010, 0b101 => some (.vsshV f.rd f.rs1 f.rs2 f.vm)
  | 0b000010, 0b110 => some (.vsswV f.rd f.rs1 f.rs2 f.vm)
  | 0b000010, 0b111 => some (.vsseV f.rd f.rs1 f.rs2 f.vm)
  | 0b000011, 0b000 => some (.vsxbV f.rd f.rs1 f.rs2 f.vm)
  | 0b000011, 0b101 => some (.vsxhV f.rd f.rs1 f.rs2 f.vm)
  | 0b000011, 0b110 => some (.vsxwV f.rd f.rs1 f.rs2 f.vm)
  | 0b000011, 0b111 => some (.vsxeV f.rd f.rs1 f.rs2 f.vm)
  | _, _ => none

/-- STORE-FP (R156). -/
def decodeStoreFp (f : Fields32) : Option Instr :=
  match f.f3 with
  | 0b010 | 0b011 => decodeFpStore f
  | _ => decodeVStore f

/-- MISC-MEM: fence with bits 31:28, rs1 and rd zero, fence.i with every operand bit zero (R152). -/
def decodeMiscMem (f : Fields32) : Option Instr :=
  match f.f3 with
  | 0b000 => if f.f7.extractLsb' 3 4 = 0 ∧ f.rs1 = 0 ∧ f.rd = 0 then some (.fence f.pred f.succ) else none
  | 0b001 => if f.f7 = 0 ∧ f.rs2 = 0 ∧ f.rs1 = 0 ∧ f.rd = 0 then some .fenceI else none
  | _ => none

/-- OP-IMM, by funct3 and for the shifts inst[31:26] (R168). -/
def decodeOpImm (f : Fields32) : Option Instr :=
  match f.f3 with
  | 0b000 => some (.addi f.rd f.rs1 f.immI)
  | 0b111 => some (.andi f.rd f.rs1 f.immI)
  | 0b110 => some (.ori f.rd f.rs1 f.immI)
  | 0b100 => some (.xori f.rd f.rs1 f.immI)
  | 0b010 => some (.slti f.rd f.rs1 f.immI)
  | 0b011 => some (.sltiu f.rd f.rs1 f.immI)
  | 0b001 => if f.f6 = 0b000000 then some (.slli f.rd f.rs1 f.shamt) else none
  | 0b101 =>
    match f.f6 with
    | 0b000000 => some (.srli f.rd f.rs1 f.shamt)
    | 0b010000 => some (.srai f.rd f.rs1 f.shamt)
    | _ => none

/-- OP-IMM-32 (R168): the shifts have bit 25 zero, so their amount is inst[24:20] (R178 case 2). -/
def decodeOpImm32 (f : Fields32) : Option Instr :=
  match f.f3 with
  | 0b000 => some (.addiw f.rd f.rs1 f.immI)
  | 0b001 => if f.f7 = 0b0000000 then some (.slliw f.rd f.rs1 f.rs2) else none
  | 0b101 =>
    match f.f7 with
    | 0b0000000 => some (.srliw f.rd f.rs1 f.rs2)
    | 0b0100000 => some (.sraiw f.rd f.rs1 f.rs2)
    | _ => none
  | _ => none

/-- STORE, by funct3 (R169). -/
def decodeStore (f : Fields32) : Option Instr :=
  match f.f3 with
  | 0b000 => some (.sb f.rs2 f.rs1 f.immS)
  | 0b001 => some (.sh f.rs2 f.rs1 f.immS)
  | 0b010 => some (.sw f.rs2 f.rs1 f.immS)
  | 0b011 => some (.sd f.rs2 f.rs1 f.immS)
  | _ => none

/-- AMO, by funct3 and funct5 (R171); lr.d has inst[24:20] = 00000. -/
def decodeAmo (f : Fields32) : Option Instr :=
  match f.f3, f.f5 with
  | 0b011, 0b00010 => if f.rs2 = 0 then some (.lrD f.rd f.rs1 f.aq f.rl) else none
  | 0b011, 0b00011 => some (.scD f.rd f.rs2 f.rs1 f.aq f.rl)
  | 0b011, 0b00000 => some (.amoaddD f.rd f.rs2 f.rs1 f.aq f.rl)
  | 0b011, 0b01100 => some (.amoandD f.rd f.rs2 f.rs1 f.aq f.rl)
  | 0b011, 0b10100 => some (.amomaxD f.rd f.rs2 f.rs1 f.aq f.rl)
  | 0b011, 0b11100 => some (.amomaxuD f.rd f.rs2 f.rs1 f.aq f.rl)
  | 0b011, 0b10000 => some (.amominD f.rd f.rs2 f.rs1 f.aq f.rl)
  | 0b011, 0b11000 => some (.amominuD f.rd f.rs2 f.rs1 f.aq f.rl)
  | 0b010, 0b11000 => some (.amominuW f.rd f.rs2 f.rs1 f.aq f.rl)
  | 0b011, 0b01000 => some (.amoorD f.rd f.rs2 f.rs1 f.aq f.rl)
  | 0b011, 0b00001 => some (.amoswapD f.rd f.rs2 f.rs1 f.aq f.rl)
  | 0b011, 0b00100 => some (.amoxorD f.rd f.rs2 f.rs1 f.aq f.rl)
  | _, _ => none

/-- OP, by funct7 and funct3 (R168). -/
def decodeOp (f : Fields32) : Option Instr :=
  match f.f7, f.f3 with
  | 0b0000000, 0b001 => some (.sll f.rd f.rs1 f.rs2)
  | 0b0000000, 0b101 => some (.srl f.rd f.rs1 f.rs2)
  | 0b0100000, 0b101 => some (.sra f.rd f.rs1 f.rs2)
  | 0b0000000, 0b000 => some (.add f.rd f.rs1 f.rs2)
  | 0b0100000, 0b000 => some (.sub f.rd f.rs1 f.rs2)
  | 0b0000000, 0b111 => some (.and f.rd f.rs1 f.rs2)
  | 0b0000000, 0b110 => some (.or f.rd f.rs1 f.rs2)
  | 0b0000000, 0b100 => some (.xor f.rd f.rs1 f.rs2)
  | 0b0000000, 0b010 => some (.slt f.rd f.rs1 f.rs2)
  | 0b0000000, 0b011 => some (.sltu f.rd f.rs1 f.rs2)
  | 0b0000001, 0b000 => some (.mul f.rd f.rs1 f.rs2)
  | 0b0000001, 0b001 => some (.mulh f.rd f.rs1 f.rs2)
  | 0b0000001, 0b010 => some (.mulhsu f.rd f.rs1 f.rs2)
  | 0b0000001, 0b011 => some (.mulhu f.rd f.rs1 f.rs2)
  | 0b0000001, 0b100 => some (.div f.rd f.rs1 f.rs2)
  | 0b0000001, 0b101 => some (.divu f.rd f.rs1 f.rs2)
  | 0b0000001, 0b110 => some (.rem f.rd f.rs1 f.rs2)
  | 0b0000001, 0b111 => some (.remu f.rd f.rs1 f.rs2)
  | _, _ => none

/-- OP-32, by funct7 and funct3 (R168). -/
def decodeOp32 (f : Fields32) : Option Instr :=
  match f.f7, f.f3 with
  | 0b0000000, 0b000 => some (.addw f.rd f.rs1 f.rs2)
  | 0b0100000, 0b000 => some (.subw f.rd f.rs1 f.rs2)
  | 0b0000000, 0b001 => some (.sllw f.rd f.rs1 f.rs2)
  | 0b0100000, 0b101 => some (.sraw f.rd f.rs1 f.rs2)
  | 0b0000000, 0b101 => some (.srlw f.rd f.rs1 f.rs2)
  | 0b0000001, 0b000 => some (.mulw f.rd f.rs1 f.rs2)
  | 0b0000001, 0b100 => some (.divw f.rd f.rs1 f.rs2)
  | 0b0000001, 0b101 => some (.divuw f.rd f.rs1 f.rs2)
  | 0b0000001, 0b110 => some (.remw f.rd f.rs1 f.rs2)
  | 0b0000001, 0b111 => some (.remuw f.rd f.rs1 f.rs2)
  | _, _ => none

/-- The fused multiply-adds of this opcode, by fmt (R147, R167). -/
def decodeMadd (f : Fields32) : Option Instr :=
  match f.fmt with
  | 0b00 => some (.fmaddS f.rd f.rs1 f.rs2 f.rs3 f.f3)
  | 0b01 => some (.fmaddD f.rd f.rs1 f.rs2 f.rs3 f.f3)
  | _ => none

/-- The fused multiply-adds of this opcode, by fmt (R147, R167). -/
def decodeMsub (f : Fields32) : Option Instr :=
  match f.fmt with
  | 0b00 => some (.fmsubS f.rd f.rs1 f.rs2 f.rs3 f.f3)
  | 0b01 => some (.fmsubD f.rd f.rs1 f.rs2 f.rs3 f.f3)
  | _ => none

/-- The fused multiply-adds of this opcode, by fmt (R147, R167). -/
def decodeNmsub (f : Fields32) : Option Instr :=
  match f.fmt with
  | 0b00 => some (.fnmsubS f.rd f.rs1 f.rs2 f.rs3 f.f3)
  | 0b01 => some (.fnmsubD f.rd f.rs1 f.rs2 f.rs3 f.f3)
  | _ => none

/-- The fused multiply-adds of this opcode, by fmt (R147, R167). -/
def decodeNmadd (f : Fields32) : Option Instr :=
  match f.fmt with
  | 0b00 => some (.fnmaddS f.rd f.rs1 f.rs2 f.rs3 f.f3)
  | 0b01 => some (.fnmaddD f.rd f.rs1 f.rs2 f.rs3 f.f3)
  | _ => none

/-- OP-FP, by funct7 and then the constants among rs2 and funct3 (R172). -/
def decodeOpFp (f : Fields32) : Option Instr :=
  match f.f7 with
  | 0b0000000 => some (.faddS f.rd f.rs1 f.rs2 f.f3)
  | 0b0000100 => some (.fsubS f.rd f.rs1 f.rs2 f.f3)
  | 0b0001000 => some (.fmulS f.rd f.rs1 f.rs2 f.f3)
  | 0b0001100 => some (.fdivS f.rd f.rs1 f.rs2 f.f3)
  | 0b0101100 =>
    match f.rs2 with
    | 0b00000 => some (.fsqrtS f.rd f.rs1 f.f3)
    | _ => none
  | 0b0010100 =>
    match f.f3 with
    | 0b000 => some (.fminS f.rd f.rs1 f.rs2)
    | 0b001 => some (.fmaxS f.rd f.rs1 f.rs2)
    | _ => none
  | 0b1100000 =>
    match f.rs2 with
    | 0b00000 => some (.fcvtWS f.rd f.rs1 f.f3)
    | 0b00001 => some (.fcvtWuS f.rd f.rs1 f.f3)
    | 0b00010 => some (.fcvtLS f.rd f.rs1 f.f3)
    | 0b00011 => some (.fcvtLuS f.rd f.rs1 f.f3)
    | _ => none
  | 0b1101000 =>
    match f.rs2 with
    | 0b00000 => some (.fcvtSW f.rd f.rs1 f.f3)
    | 0b00001 => some (.fcvtSWu f.rd f.rs1 f.f3)
    | 0b00010 => some (.fcvtSL f.rd f.rs1 f.f3)
    | 0b00011 => some (.fcvtSLu f.rd f.rs1 f.f3)
    | _ => none
  | 0b0010000 =>
    match f.f3 with
    | 0b000 => some (.fsgnjS f.rd f.rs1 f.rs2)
    | 0b001 => some (.fsgnjnS f.rd f.rs1 f.rs2)
    | 0b010 => some (.fsgnjxS f.rd f.rs1 f.rs2)
    | _ => none
  | 0b1110000 =>
    match f.rs2, f.f3 with
    | 0b00000, 0b000 => some (.fmvXW f.rd f.rs1)
    | 0b00000, 0b001 => some (.fclassS f.rd f.rs1)
    | _, _ => none
  | 0b1111000 =>
    match f.rs2, f.f3 with
    | 0b00000, 0b000 => some (.fmvWX f.rd f.rs1)
    | _, _ => none
  | 0b1010000 =>
    match f.f3 with
    | 0b010 => some (.feqS f.rd f.rs1 f.rs2)
    | 0b001 => some (.fltS f.rd f.rs1 f.rs2)
    | 0b000 => some (.fleS f.rd f.rs1 f.rs2)
    | _ => none
  | 0b0000001 => some (.faddD f.rd f.rs1 f.rs2 f.f3)
  | 0b0000101 => some (.fsubD f.rd f.rs1 f.rs2 f.f3)
  | 0b0001001 => some (.fmulD f.rd f.rs1 f.rs2 f.f3)
  | 0b0001101 => some (.fdivD f.rd f.rs1 f.rs2 f.f3)
  | 0b0101101 =>
    match f.rs2 with
    | 0b00000 => some (.fsqrtD f.rd f.rs1 f.f3)
    | _ => none
  | 0b0010001 =>
    match f.f3 with
    | 0b000 => some (.fsgnjD f.rd f.rs1 f.rs2)
    | 0b001 => some (.fsgnjnD f.rd f.rs1 f.rs2)
    | 0b010 => some (.fsgnjxD f.rd f.rs1 f.rs2)
    | _ => none
  | 0b0010101 =>
    match f.f3 with
    | 0b000 => some (.fminD f.rd f.rs1 f.rs2)
    | 0b001 => some (.fmaxD f.rd f.rs1 f.rs2)
    | _ => none
  | 0b0100000 =>
    match f.rs2 with
    | 0b00001 => some (.fcvtSD f.rd f.rs1 f.f3)
    | _ => none
  | 0b0100001 =>
    match f.rs2 with
    | 0b00000 => some (.fcvtDS f.rd f.rs1 f.f3)
    | _ => none
  | 0b1100001 =>
    match f.rs2 with
    | 0b00000 => some (.fcvtWD f.rd f.rs1 f.f3)
    | 0b00001 => some (.fcvtWuD f.rd f.rs1 f.f3)
    | 0b00010 => some (.fcvtLD f.rd f.rs1 f.f3)
    | 0b00011 => some (.fcvtLuD f.rd f.rs1 f.f3)
    | _ => none
  | 0b1101001 =>
    match f.rs2 with
    | 0b00000 => some (.fcvtDW f.rd f.rs1 f.f3)
    | 0b00001 => some (.fcvtDWu f.rd f.rs1 f.f3)
    | 0b00010 => some (.fcvtDL f.rd f.rs1 f.f3)
    | 0b00011 => some (.fcvtDLu f.rd f.rs1 f.f3)
    | _ => none
  | 0b1010001 =>
    match f.f3 with
    | 0b010 => some (.feqD f.rd f.rs1 f.rs2)
    | 0b001 => some (.fltD f.rd f.rs1 f.rs2)
    | 0b000 => some (.fleD f.rd f.rs1 f.rs2)
    | _ => none
  | 0b1111001 =>
    match f.rs2, f.f3 with
    | 0b00000, 0b000 => some (.fmvDX f.rd f.rs1)
    | _, _ => none
  | 0b1110001 =>
    match f.rs2, f.f3 with
    | 0b00000, 0b000 => some (.fmvXD f.rd f.rs1)
    | 0b00000, 0b001 => some (.fclassD f.rd f.rs1)
    | _, _ => none
  | _ => none

/-- The vector arithmetic instructions, by funct3 and funct6 (R155, R173). -/
noncomputable def decodeVArith (f : Fields32) : Option Instr :=
  match f.f3, f.f6 with
  | 0b000, 0b000000 => some (.vaddVv f.rd f.rs2 f.rs1 f.vm)
  | 0b100, 0b000000 => some (.vaddVx f.rd f.rs2 f.rs1 f.vm)
  | 0b011, 0b000000 => some (.vaddVi f.rd f.rs2 f.rs1 f.vm)
  | 0b000, 0b000010 => some (.vsubVv f.rd f.rs2 f.rs1 f.vm)
  | 0b100, 0b000010 => some (.vsubVx f.rd f.rs2 f.rs1 f.vm)
  | 0b100, 0b000011 => some (.vrsubVx f.rd f.rs2 f.rs1 f.vm)
  | 0b011, 0b000011 => some (.vrsubVi f.rd f.rs2 f.rs1 f.vm)
  | 0b000, 0b001001 => some (.vandVv f.rd f.rs2 f.rs1 f.vm)
  | 0b100, 0b001001 => some (.vandVx f.rd f.rs2 f.rs1 f.vm)
  | 0b011, 0b001001 => some (.vandVi f.rd f.rs2 f.rs1 f.vm)
  | 0b000, 0b001010 => some (.vorVv f.rd f.rs2 f.rs1 f.vm)
  | 0b100, 0b001010 => some (.vorVx f.rd f.rs2 f.rs1 f.vm)
  | 0b011, 0b001010 => some (.vorVi f.rd f.rs2 f.rs1 f.vm)
  | 0b000, 0b001011 => some (.vxorVv f.rd f.rs2 f.rs1 f.vm)
  | 0b100, 0b001011 => some (.vxorVx f.rd f.rs2 f.rs1 f.vm)
  | 0b011, 0b001011 => some (.vxorVi f.rd f.rs2 f.rs1 f.vm)
  | 0b000, 0b100101 => some (.vsllVv f.rd f.rs2 f.rs1 f.vm)
  | 0b100, 0b100101 => some (.vsllVx f.rd f.rs2 f.rs1 f.vm)
  | 0b011, 0b100101 => some (.vsllVi f.rd f.rs2 f.rs1 f.vm)
  | 0b000, 0b101000 => some (.vsrlVv f.rd f.rs2 f.rs1 f.vm)
  | 0b100, 0b101000 => some (.vsrlVx f.rd f.rs2 f.rs1 f.vm)
  | 0b011, 0b101000 => some (.vsrlVi f.rd f.rs2 f.rs1 f.vm)
  | 0b000, 0b101001 => some (.vsraVv f.rd f.rs2 f.rs1 f.vm)
  | 0b100, 0b101001 => some (.vsraVx f.rd f.rs2 f.rs1 f.vm)
  | 0b011, 0b101001 => some (.vsraVi f.rd f.rs2 f.rs1 f.vm)
  | 0b000, 0b011000 => some (.vmseqVv f.rd f.rs2 f.rs1 f.vm)
  | 0b100, 0b011000 => some (.vmseqVx f.rd f.rs2 f.rs1 f.vm)
  | 0b011, 0b011000 => some (.vmseqVi f.rd f.rs2 f.rs1 f.vm)
  | 0b000, 0b011001 => some (.vmsneVv f.rd f.rs2 f.rs1 f.vm)
  | 0b100, 0b011001 => some (.vmsneVx f.rd f.rs2 f.rs1 f.vm)
  | 0b011, 0b011001 => some (.vmsneVi f.rd f.rs2 f.rs1 f.vm)
  | 0b000, 0b011010 => some (.vmsltuVv f.rd f.rs2 f.rs1 f.vm)
  | 0b100, 0b011010 => some (.vmsltuVx f.rd f.rs2 f.rs1 f.vm)
  | 0b000, 0b011011 => some (.vmsltVv f.rd f.rs2 f.rs1 f.vm)
  | 0b100, 0b011011 => some (.vmsltVx f.rd f.rs2 f.rs1 f.vm)
  | 0b000, 0b011100 => some (.vmsleuVv f.rd f.rs2 f.rs1 f.vm)
  | 0b100, 0b011100 => some (.vmsleuVx f.rd f.rs2 f.rs1 f.vm)
  | 0b011, 0b011100 => some (.vmsleuVi f.rd f.rs2 f.rs1 f.vm)
  | 0b000, 0b011101 => some (.vmsleVv f.rd f.rs2 f.rs1 f.vm)
  | 0b100, 0b011101 => some (.vmsleVx f.rd f.rs2 f.rs1 f.vm)
  | 0b011, 0b011101 => some (.vmsleVi f.rd f.rs2 f.rs1 f.vm)
  | 0b100, 0b011110 => some (.vmsgtuVx f.rd f.rs2 f.rs1 f.vm)
  | 0b011, 0b011110 => some (.vmsgtuVi f.rd f.rs2 f.rs1 f.vm)
  | 0b100, 0b011111 => some (.vmsgtVx f.rd f.rs2 f.rs1 f.vm)
  | 0b011, 0b011111 => some (.vmsgtVi f.rd f.rs2 f.rs1 f.vm)
  | 0b000, 0b000100 => some (.vminuVv f.rd f.rs2 f.rs1 f.vm)
  | 0b100, 0b000100 => some (.vminuVx f.rd f.rs2 f.rs1 f.vm)
  | 0b000, 0b000101 => some (.vminVv f.rd f.rs2 f.rs1 f.vm)
  | 0b100, 0b000101 => some (.vminVx f.rd f.rs2 f.rs1 f.vm)
  | 0b000, 0b000110 => some (.vmaxuVv f.rd f.rs2 f.rs1 f.vm)
  | 0b100, 0b000110 => some (.vmaxuVx f.rd f.rs2 f.rs1 f.vm)
  | 0b000, 0b000111 => some (.vmaxVv f.rd f.rs2 f.rs1 f.vm)
  | 0b100, 0b000111 => some (.vmaxVx f.rd f.rs2 f.rs1 f.vm)
  | 0b010, 0b100101 => some (.vmulVv f.rd f.rs2 f.rs1 f.vm)
  | 0b110, 0b100101 => some (.vmulVx f.rd f.rs2 f.rs1 f.vm)
  | 0b010, 0b100111 => some (.vmulhVv f.rd f.rs2 f.rs1 f.vm)
  | 0b110, 0b100111 => some (.vmulhVx f.rd f.rs2 f.rs1 f.vm)
  | 0b010, 0b100100 => some (.vmulhuVv f.rd f.rs2 f.rs1 f.vm)
  | 0b110, 0b100100 => some (.vmulhuVx f.rd f.rs2 f.rs1 f.vm)
  | 0b010, 0b100110 => some (.vmulhsuVv f.rd f.rs2 f.rs1 f.vm)
  | 0b110, 0b100110 => some (.vmulhsuVx f.rd f.rs2 f.rs1 f.vm)
  | 0b010, 0b101101 => some (.vmaccVv f.rd f.rs2 f.rs1 f.vm)
  | 0b110, 0b101101 => some (.vmaccVx f.rd f.rs2 f.rs1 f.vm)
  | 0b010, 0b101111 => some (.vnmsacVv f.rd f.rs2 f.rs1 f.vm)
  | 0b110, 0b101111 => some (.vnmsacVx f.rd f.rs2 f.rs1 f.vm)
  | 0b010, 0b101001 => some (.vmaddVv f.rd f.rs2 f.rs1 f.vm)
  | 0b110, 0b101001 => some (.vmaddVx f.rd f.rs2 f.rs1 f.vm)
  | 0b010, 0b101011 => some (.vnmsubVv f.rd f.rs2 f.rs1 f.vm)
  | 0b110, 0b101011 => some (.vnmsubVx f.rd f.rs2 f.rs1 f.vm)
  | _, _ => none

/-- OP-V: funct3 111 is vsetvli (inst[31] = 0) or vsetvl (inst[31:25] = 1000000), the rest is arithmetic (R157, R173). -/
noncomputable def decodeOpV (f : Fields32) : Option Instr :=
  match f.f3 with
  | 0b111 =>
    match f.f7.extractLsb' 6 1 with
    | 0b0 => some (.vsetvli f.rd f.rs1 f.zimm11)
    | _ => if f.f7 = 0b1000000 then some (.vsetvl f.rd f.rs1 f.rs2) else none
  | _ => decodeVArith f

/-- BRANCH, by funct3 (R169). -/
def decodeBranch (f : Fields32) : Option Instr :=
  match f.f3 with
  | 0b000 => some (.beq f.rs1 f.rs2 f.immB)
  | 0b001 => some (.bne f.rs1 f.rs2 f.immB)
  | 0b100 => some (.blt f.rs1 f.rs2 f.immB)
  | 0b101 => some (.bge f.rs1 f.rs2 f.immB)
  | 0b110 => some (.bltu f.rs1 f.rs2 f.immB)
  | 0b111 => some (.bgeu f.rs1 f.rs2 f.immB)
  | _ => none

/-- SYSTEM (R151, R170): the CSR instructions by funct3; funct3 000 holds sfence.vma and the instructions all of whose
bits are constant. -/
def decodeSystem (f : Fields32) : Option Instr :=
  match f.f3 with
  | 0b001 => some (.csrrw f.rd f.immI f.rs1)
  | 0b010 => some (.csrrs f.rd f.immI f.rs1)
  | 0b011 => some (.csrrc f.rd f.immI f.rs1)
  | 0b101 => some (.csrrwi f.rd f.immI f.rs1)
  | 0b110 => some (.csrrsi f.rd f.immI f.rs1)
  | 0b111 => some (.csrrci f.rd f.immI f.rs1)
  | 0b000 =>
    if f.rd = 0 then
      match f.f7 with
      | 0b0001001 => some (.sfenceVma f.rs1 f.rs2)
      | _ =>
        if f.rs1 = 0 then
          match f.f7, f.rs2 with
          | 0b0000000, 0b00000 => some .ecall
          | 0b0000000, 0b00001 => some .ebreak
          | 0b0001000, 0b00010 => some .sret
          | 0b0011000, 0b00010 => some .mret
          | 0b0001000, 0b00101 => some .wfi
          | _, _ => none
        else none
    else none
  | _ => none

/-- A 32-bit instruction, by its major opcode inst[6:0] (R167). -/
noncomputable def decode32 (f : Fields32) : Option Instr :=
  match f.op with
  | 0b0000011 => decodeLoad f
  | 0b0000111 => decodeLoadFp f
  | 0b0001111 => decodeMiscMem f
  | 0b0010011 => decodeOpImm f
  | 0b0010111 => some (.auipc f.rd f.immU)
  | 0b0011011 => decodeOpImm32 f
  | 0b0100011 => decodeStore f
  | 0b0100111 => decodeStoreFp f
  | 0b0101111 => decodeAmo f
  | 0b0110011 => decodeOp f
  | 0b0110111 => some (.lui f.rd f.immU)
  | 0b0111011 => decodeOp32 f
  | 0b1000011 => decodeMadd f
  | 0b1000111 => decodeMsub f
  | 0b1001011 => decodeNmsub f
  | 0b1001111 => decodeNmadd f
  | 0b1010011 => decodeOpFp f
  | 0b1010111 => decodeOpV f
  | 0b1100011 => decodeBranch f
  | 0b1100111 => if f.f3 = 0b000 then some (.jalr f.rd f.rs1 f.immI) else none
  | 0b1101111 => some (.jal f.rd f.immJ)
  | 0b1110011 => decodeSystem f
  | _ => none

/-! ## Immediates and subfields of a 16-bit instruction -/

/-- The short register field c[9:7] (R158). -/
def Fields16.r1p (f : Fields16) : BitVec 3 := f.r1.extractLsb' 0 3

/-- The short register field c[4:2] (R158). -/
def Fields16.r2p (f : Fields16) : BitVec 3 := f.r2.extractLsb' 0 3

/-- c[11:10], a function field of the CB and CA shapes (R174). -/
def Fields16.f2h (f : Fields16) : BitVec 2 := f.r1.extractLsb' 3 2

/-- c[6:5], a function field of the CA shape (R174). -/
def Fields16.f2l (f : Fields16) : BitVec 2 := f.r2.extractLsb' 3 2

/-- The 6-bit immediate of the CI shape, c[12] and c[6:2] (R160, R161). -/
def Fields16.immCI (f : Fields16) : BitVec 6 := f.b12 ++ f.r2

/-- imm[9:4] of c.addi16sp (R162). -/
def Fields16.imm16sp (f : Fields16) : BitVec 6 :=
  f.b12 ++ f.r2.extractLsb' 1 2 ++ f.r2.extractLsb' 3 1 ++ f.r2.extractLsb' 0 1 ++ f.r2.extractLsb' 4 1

/-- uimm[9:2] of c.addi4spn (R163). -/
def Fields16.uimm4spn (f : Fields16) : BitVec 8 :=
  f.r1.extractLsb' 0 4 ++ f.b12 ++ f.r1.extractLsb' 4 1 ++ f.r2.extractLsb' 3 1 ++ f.r2.extractLsb' 4 1

/-- uimm[6:2] of the word forms of the CL and CS shapes (R164). -/
def Fields16.uimmW (f : Fields16) : BitVec 5 :=
  f.r2.extractLsb' 3 1 ++ f.b12 ++ f.r1.extractLsb' 3 2 ++ f.r2.extractLsb' 4 1

/-- uimm[7:3] of the doubleword forms of the CL and CS shapes (R164). -/
def Fields16.uimmD (f : Fields16) : BitVec 5 :=
  f.r2.extractLsb' 3 2 ++ f.b12 ++ f.r1.extractLsb' 3 2

/-- uimm[7:2] of c.lwsp and c.flwsp (R165). -/
def Fields16.uimmLwsp (f : Fields16) : BitVec 6 :=
  f.r2.extractLsb' 0 2 ++ f.b12 ++ f.r2.extractLsb' 2 3

/-- uimm[8:3] of c.ldsp and c.fldsp (R165). -/
def Fields16.uimmLdsp (f : Fields16) : BitVec 6 :=
  f.r2.extractLsb' 0 3 ++ f.b12 ++ f.r2.extractLsb' 3 2

/-- uimm[7:2] of c.swsp and c.fswsp (R165). -/
def Fields16.uimmSwsp (f : Fields16) : BitVec 6 :=
  f.r1.extractLsb' 0 2 ++ f.b12 ++ f.r1.extractLsb' 2 3

/-- uimm[8:3] of c.sdsp and c.fsdsp (R165). -/
def Fields16.uimmSdsp (f : Fields16) : BitVec 6 :=
  f.r1.extractLsb' 0 3 ++ f.b12 ++ f.r1.extractLsb' 3 2

/-- offset[8:1] of c.beqz and c.bnez (R166). -/
def Fields16.offB (f : Fields16) : BitVec 8 :=
  f.b12 ++ f.r2.extractLsb' 3 2 ++ f.r2.extractLsb' 0 1 ++ f.r1.extractLsb' 3 2 ++ f.r2.extractLsb' 1 2

/-- offset[11:1] of c.j and c.jal (R166). -/
def Fields16.offJ (f : Fields16) : BitVec 11 :=
  f.b12 ++ f.r1.extractLsb' 1 1 ++ f.r1.extractLsb' 2 2 ++ f.r2.extractLsb' 4 1 ++ f.r1.extractLsb' 0 1 ++
    f.r2.extractLsb' 0 1 ++ f.r1.extractLsb' 4 1 ++ f.r2.extractLsb' 1 3

/-! ## The quadrants of R174 -/

/-- Quadrant 00, by funct3 (R174). -/
def decodeQ0 (x64 : Bool) (f : Fields16) : Option Instr :=
  match f.f3 with
  | 0b000 => some (.cAddi4spn f.r2p f.uimm4spn)
  | 0b001 => some (.cFld f.r2p f.r1p f.uimmD)
  | 0b010 => some (.cLw f.r2p f.r1p f.uimmW)
  | 0b011 => if x64 then some (.cLd f.r2p f.r1p f.uimmD) else some (.cFlw f.r2p f.r1p f.uimmW)
  | 0b101 => some (.cFsd f.r2p f.r1p f.uimmD)
  | 0b110 => some (.cSw f.r2p f.r1p f.uimmW)
  | 0b111 => if x64 then some (.cSd f.r2p f.r1p f.uimmD) else some (.cFsw f.r2p f.r1p f.uimmW)
  | _ => none

/-- Quadrant 01 with funct3 100, by c[11:10], c[12] and c[6:5] (R174). -/
def decodeQ1Alu (f : Fields16) : Option Instr :=
  match f.f2h with
  | 0b00 => some (.cSrli f.r1p f.immCI)
  | 0b01 => some (.cSrai f.r1p f.immCI)
  | 0b10 => some (.cAndi f.r1p f.immCI)
  | _ =>
    match f.b12, f.f2l with
    | 0b0, 0b00 => some (.cSub f.r1p f.r2p)
    | 0b0, 0b01 => some (.cXor f.r1p f.r2p)
    | 0b0, 0b10 => some (.cOr f.r1p f.r2p)
    | 0b0, 0b11 => some (.cAnd f.r1p f.r2p)
    | 0b1, 0b00 => some (.cSubw f.r1p f.r2p)
    | 0b1, 0b01 => some (.cAddw f.r1p f.r2p)
    | _, _ => none

/-- Quadrant 01, by funct3 (R174). -/
def decodeQ1 (x64 : Bool) (f : Fields16) : Option Instr :=
  match f.f3 with
  | 0b000 => some (.cAddi f.r1 f.immCI)
  | 0b001 => if x64 then some (.cAddiw f.r1 f.immCI) else some (.cJal f.offJ)
  | 0b010 => some (.cLi f.r1 f.immCI)
  | 0b011 => if f.r1 = 2 then some (.cAddi16sp f.imm16sp) else some (.cLui f.r1 f.immCI)
  | 0b100 => decodeQ1Alu f
  | 0b101 => some (.cJ f.offJ)
  | 0b110 => some (.cBeqz f.r1p f.offB)
  | 0b111 => some (.cBnez f.r1p f.offB)
  | _ => none

/-- Quadrant 10 with funct3 100, by c[12], c[11:7] and c[6:2] (R174). -/
def decodeQ2Cr (f : Fields16) : Option Instr :=
  match f.b12 with
  | 0b0 => if f.r2 = 0 then some (.cJr f.r1) else some (.cMv f.r1 f.r2)
  | _ =>
    if f.r2 = 0 then
      if f.r1 = 0 then some .cEbreak else some (.cJalr f.r1)
    else some (.cAdd f.r1 f.r2)

/-- Quadrant 10, by funct3 (R174). -/
def decodeQ2 (x64 : Bool) (f : Fields16) : Option Instr :=
  match f.f3 with
  | 0b000 => some (.cSlli f.r1 f.immCI)
  | 0b001 => some (.cFldsp f.r1 f.uimmLdsp)
  | 0b010 => some (.cLwsp f.r1 f.uimmLwsp)
  | 0b011 =>
    if x64 then some (.cLdsp f.r1 f.uimmLdsp) else some (.cFlwsp f.r1 f.uimmLwsp)
  | 0b100 => decodeQ2Cr f
  | 0b101 => some (.cFsdsp f.r2 f.uimmSdsp)
  | 0b110 => some (.cSwsp f.r2 f.uimmSwsp)
  | 0b111 =>
    if x64 then some (.cSdsp f.r2 f.uimmSdsp) else some (.cFswsp f.r2 f.uimmSwsp)
  | _ => none

/-- A 16-bit instruction, by its quadrant c[1:0] (R174); quadrant 11 is no 16-bit instruction (R141). XLEN picks
between the two instructions of a shared slot (R177 a). -/
def decode16 (x64 : Bool) (f : Fields16) : Option Instr :=
  match f.op with
  | 0b00 => decodeQ0 x64 f
  | 0b01 => decodeQ1 x64 f
  | 0b10 => decodeQ2 x64 f
  | _ => none

/-- The pattern the bits match, before the conditions of R177 and R178. A 32-bit word whose low two bits are not 11
is none: R141 makes it a 16-bit instruction. -/
noncomputable def decodePattern (x64 : Bool) : Code → Option Instr
  | .half w => decode16 x64 (Fields16.split w)
  | .word w => decode32 (Fields32.split w)

/-- Decoding (R175): the pattern, if the configuration and the operands allow it; none raises IllegalInstruction
(R176). -/
noncomputable def decode (c : Config) (w : Code) : Option Instr :=
  (decodePattern c.rv64 w).filter fun i => i.wf c

/-! ## The encoder, from the same figures (R142 to R166) -/

/-- R-type, and every variant whose funct7, rs2 and rs1 fields are given (R143). -/
def encR (f7 : BitVec 7) (rs2 rs1 : BitVec 5) (f3 : BitVec 3) (rd : BitVec 5) (op : BitVec 7) : Code :=
  .word (Fields32.join ⟨f7, rs2, rs1, f3, rd, op⟩)

/-- I-type and the CSR variant (R144, R151). -/
def encI (imm : BitVec 12) (rs1 : BitVec 5) (f3 : BitVec 3) (rd : BitVec 5) (op : BitVec 7) : Code :=
  encR (imm.extractLsb' 5 7) (imm.extractLsb' 0 5) rs1 f3 rd op

/-- S-type (R145). -/
def encS (imm : BitVec 12) (rs2 rs1 : BitVec 5) (f3 : BitVec 3) (op : BitVec 7) : Code :=
  encR (imm.extractLsb' 5 7) rs2 rs1 f3 (imm.extractLsb' 0 5) op

/-- B-type; bit k of `off` is offset[k+1] (R148). -/
def encB (off : BitVec 12) (rs2 rs1 : BitVec 5) (f3 : BitVec 3) (op : BitVec 7) : Code :=
  encR (off.extractLsb' 11 1 ++ off.extractLsb' 4 6) rs2 rs1 f3 (off.extractLsb' 0 4 ++ off.extractLsb' 10 1) op

/-- U-type; bit k of `imm` is imm[k+12] (R146). -/
def encU (imm : BitVec 20) (rd : BitVec 5) (op : BitVec 7) : Code :=
  encR (imm.extractLsb' 13 7) (imm.extractLsb' 8 5) (imm.extractLsb' 3 5) (imm.extractLsb' 0 3) rd op

/-- J-type; bit k of `off` is offset[k+1] (R149). -/
def encJ (off : BitVec 20) (rd : BitVec 5) (op : BitVec 7) : Code :=
  encR (off.extractLsb' 19 1 ++ off.extractLsb' 4 6) (off.extractLsb' 0 4 ++ off.extractLsb' 10 1)
    (off.extractLsb' 14 5) (off.extractLsb' 11 3) rd op

/-- The shift-immediate variant with a 6-bit amount (R150). -/
def encSh (f6 : BitVec 6) (shamt : BitVec 6) (rs1 : BitVec 5) (f3 : BitVec 3) (rd : BitVec 5) (op : BitVec 7) : Code :=
  encR (f6 ++ shamt.extractLsb' 5 1) (shamt.extractLsb' 0 5) rs1 f3 rd op

/-- The atomic variant (R153). -/
def encA (f5 : BitVec 5) (aq rl : BitVec 1) (rs2 rs1 : BitVec 5) (f3 : BitVec 3) (rd : BitVec 5) : Code :=
  encR (f5 ++ aq ++ rl) rs2 rs1 f3 rd 0b0101111

/-- R4-type (R147). -/
def encR4 (rs3 : BitVec 5) (fmt : BitVec 2) (rs2 rs1 : BitVec 5) (rm : BitVec 3) (rd : BitVec 5) (op : BitVec 7) :
    Code :=
  encR (rs3 ++ fmt) rs2 rs1 rm rd op

/-- The vector arithmetic and vector memory formats (R155, R156): inst[31:26], vm, inst[24:20], inst[19:15], funct3 or
width, inst[11:7]. -/
def encV (f6 : BitVec 6) (vm : BitVec 1) (x2 x1 : BitVec 5) (f3 : BitVec 3) (vd : BitVec 5) (op : BitVec 7) : Code :=
  encR (f6 ++ vm) x2 x1 f3 vd op

/-- The 16-bit shapes: c[15:13], c[12], c[11:7], c[6:2], the quadrant (R159). -/
def encC (f3 : BitVec 3) (b12 : BitVec 1) (r1 r2 : BitVec 5) (op : BitVec 2) : Code :=
  .half (Fields16.join ⟨f3, b12, r1, r2, op⟩)

/-- CI with its immediate in order (R160, R161). -/
def encCI (f3 : BitVec 3) (imm : BitVec 6) (rd : BitVec 5) (op : BitVec 2) : Code :=
  encC f3 (imm.extractLsb' 5 1) rd (imm.extractLsb' 0 5) op

/-- CL and CS, word forms; bit k of `u` is uimm[k+2] (R164). -/
def encCLW (f3 : BitVec 3) (u : BitVec 5) (rs1p r2p : BitVec 3) : Code :=
  encC f3 (u.extractLsb' 3 1) (u.extractLsb' 1 2 ++ rs1p) (u.extractLsb' 0 1 ++ u.extractLsb' 4 1 ++ r2p) 0b00

/-- CL and CS, doubleword forms; bit k of `u` is uimm[k+3] (R164). -/
def encCLD (f3 : BitVec 3) (u : BitVec 5) (rs1p r2p : BitVec 3) : Code :=
  encC f3 (u.extractLsb' 2 1) (u.extractLsb' 0 2 ++ rs1p) (u.extractLsb' 3 2 ++ r2p) 0b00

/-- c.lwsp and c.flwsp; bit k of `u` is uimm[k+2] (R165). -/
def encLwsp (f3 : BitVec 3) (u : BitVec 6) (rd : BitVec 5) : Code :=
  encC f3 (u.extractLsb' 3 1) rd (u.extractLsb' 0 3 ++ u.extractLsb' 4 2) 0b10

/-- c.ldsp and c.fldsp; bit k of `u` is uimm[k+3] (R165). -/
def encLdsp (f3 : BitVec 3) (u : BitVec 6) (rd : BitVec 5) : Code :=
  encC f3 (u.extractLsb' 2 1) rd (u.extractLsb' 0 2 ++ u.extractLsb' 3 3) 0b10

/-- c.swsp and c.fswsp; bit k of `u` is uimm[k+2] (R165). -/
def encSwsp (f3 : BitVec 3) (u : BitVec 6) (rs2 : BitVec 5) : Code :=
  encC f3 (u.extractLsb' 3 1) (u.extractLsb' 0 3 ++ u.extractLsb' 4 2) rs2 0b10

/-- c.sdsp and c.fsdsp; bit k of `u` is uimm[k+3] (R165). -/
def encSdsp (f3 : BitVec 3) (u : BitVec 6) (rs2 : BitVec 5) : Code :=
  encC f3 (u.extractLsb' 2 1) (u.extractLsb' 0 2 ++ u.extractLsb' 3 3) rs2 0b10

/-- CA: funct6 is f3, c[12] and 11 (R159, R174). -/
def encCA (b12 : BitVec 1) (f2 : BitVec 2) (rdp rs2p : BitVec 3) : Code :=
  encC 0b100 b12 (0b11#2 ++ rdp) (f2 ++ rs2p) 0b01

/-- c.srli, c.srai and c.andi (R160, R174). -/
def encCB (f2 : BitVec 2) (imm : BitVec 6) (rdp : BitVec 3) : Code :=
  encC 0b100 (imm.extractLsb' 5 1) (f2 ++ rdp) (imm.extractLsb' 0 5) 0b01

/-- c.beqz and c.bnez; bit k of `off` is offset[k+1] (R166). -/
def encCBr (f3 : BitVec 3) (off : BitVec 8) (rs1p : BitVec 3) : Code :=
  encC f3 (off.extractLsb' 7 1) (off.extractLsb' 2 2 ++ rs1p)
    (off.extractLsb' 5 2 ++ off.extractLsb' 0 2 ++ off.extractLsb' 4 1) 0b01

/-- c.j and c.jal; bit k of `off` is offset[k+1] (R166). -/
def encCJ (f3 : BitVec 3) (off : BitVec 11) : Code :=
  encC f3 (off.extractLsb' 10 1)
    (off.extractLsb' 3 1 ++ off.extractLsb' 7 2 ++ off.extractLsb' 9 1 ++ off.extractLsb' 5 1)
    (off.extractLsb' 6 1 ++ off.extractLsb' 0 3 ++ off.extractLsb' 4 1) 0b01

/-! The encoding of each instruction, from the figure of its own rule. -/

def Enc.lb (rd rs1 : BitVec 5) (offset : BitVec 12) : Code := encI offset rs1 0b000 rd 0b0000011
def Enc.lbu (rd rs1 : BitVec 5) (offset : BitVec 12) : Code := encI offset rs1 0b100 rd 0b0000011
def Enc.lh (rd rs1 : BitVec 5) (offset : BitVec 12) : Code := encI offset rs1 0b001 rd 0b0000011
def Enc.lhu (rd rs1 : BitVec 5) (offset : BitVec 12) : Code := encI offset rs1 0b101 rd 0b0000011
def Enc.lw (rd rs1 : BitVec 5) (offset : BitVec 12) : Code := encI offset rs1 0b010 rd 0b0000011
def Enc.sb (rs2 rs1 : BitVec 5) (offset : BitVec 12) : Code := encS offset rs2 rs1 0b000 0b0100011
def Enc.sh (rs2 rs1 : BitVec 5) (offset : BitVec 12) : Code := encS offset rs2 rs1 0b001 0b0100011
def Enc.sw (rs2 rs1 : BitVec 5) (offset : BitVec 12) : Code := encS offset rs2 rs1 0b010 0b0100011
def Enc.sll (rd rs1 rs2 : BitVec 5) : Code := encR 0b0000000 rs2 rs1 0b001 rd 0b0110011
def Enc.slli (rd rs1 : BitVec 5) (shamt : BitVec 6) : Code := encSh 0b000000 shamt rs1 0b001 rd 0b0010011
def Enc.srl (rd rs1 rs2 : BitVec 5) : Code := encR 0b0000000 rs2 rs1 0b101 rd 0b0110011
def Enc.srli (rd rs1 : BitVec 5) (shamt : BitVec 6) : Code := encSh 0b000000 shamt rs1 0b101 rd 0b0010011
def Enc.sra (rd rs1 rs2 : BitVec 5) : Code := encR 0b0100000 rs2 rs1 0b101 rd 0b0110011
def Enc.srai (rd rs1 : BitVec 5) (shamt : BitVec 6) : Code := encSh 0b010000 shamt rs1 0b101 rd 0b0010011
def Enc.add (rd rs1 rs2 : BitVec 5) : Code := encR 0b0000000 rs2 rs1 0b000 rd 0b0110011
def Enc.addi (rd rs1 : BitVec 5) (imm : BitVec 12) : Code := encI imm rs1 0b000 rd 0b0010011
def Enc.sub (rd rs1 rs2 : BitVec 5) : Code := encR 0b0100000 rs2 rs1 0b000 rd 0b0110011
def Enc.lui (rd : BitVec 5) (imm : BitVec 20) : Code := encU imm rd 0b0110111
def Enc.auipc (rd : BitVec 5) (imm : BitVec 20) : Code := encU imm rd 0b0010111
def Enc.and (rd rs1 rs2 : BitVec 5) : Code := encR 0b0000000 rs2 rs1 0b111 rd 0b0110011
def Enc.andi (rd rs1 : BitVec 5) (imm : BitVec 12) : Code := encI imm rs1 0b111 rd 0b0010011
def Enc.or (rd rs1 rs2 : BitVec 5) : Code := encR 0b0000000 rs2 rs1 0b110 rd 0b0110011
def Enc.ori (rd rs1 : BitVec 5) (imm : BitVec 12) : Code := encI imm rs1 0b110 rd 0b0010011
def Enc.xor (rd rs1 rs2 : BitVec 5) : Code := encR 0b0000000 rs2 rs1 0b100 rd 0b0110011
def Enc.xori (rd rs1 : BitVec 5) (imm : BitVec 12) : Code := encI imm rs1 0b100 rd 0b0010011
def Enc.slt (rd rs1 rs2 : BitVec 5) : Code := encR 0b0000000 rs2 rs1 0b010 rd 0b0110011
def Enc.sltu (rd rs1 rs2 : BitVec 5) : Code := encR 0b0000000 rs2 rs1 0b011 rd 0b0110011
def Enc.slti (rd rs1 : BitVec 5) (imm : BitVec 12) : Code := encI imm rs1 0b010 rd 0b0010011
def Enc.sltiu (rd rs1 : BitVec 5) (imm : BitVec 12) : Code := encI imm rs1 0b011 rd 0b0010011
def Enc.beq (rs1 rs2 : BitVec 5) (offset : BitVec 12) : Code := encB offset rs2 rs1 0b000 0b1100011
def Enc.bne (rs1 rs2 : BitVec 5) (offset : BitVec 12) : Code := encB offset rs2 rs1 0b001 0b1100011
def Enc.blt (rs1 rs2 : BitVec 5) (offset : BitVec 12) : Code := encB offset rs2 rs1 0b100 0b1100011
def Enc.bge (rs1 rs2 : BitVec 5) (offset : BitVec 12) : Code := encB offset rs2 rs1 0b101 0b1100011
def Enc.bltu (rs1 rs2 : BitVec 5) (offset : BitVec 12) : Code := encB offset rs2 rs1 0b110 0b1100011
def Enc.bgeu (rs1 rs2 : BitVec 5) (offset : BitVec 12) : Code := encB offset rs2 rs1 0b111 0b1100011
def Enc.jal (rd : BitVec 5) (offset : BitVec 20) : Code := encJ offset rd 0b1101111
def Enc.jalr (rd rs1 : BitVec 5) (offset : BitVec 12) : Code := encI offset rs1 0b000 rd 0b1100111
def Enc.fence (pred succ : BitVec 4) : Code :=
  encR (0b0000#4 ++ pred.extractLsb' 1 3) (pred.extractLsb' 0 1 ++ succ) 0 0b000 0 0b0001111
def Enc.fenceI : Code := encR 0b0000000 0b00000 0b00000 0b001 0b00000 0b0001111
def Enc.sfenceVma (rs1 rs2 : BitVec 5) : Code := encR 0b0001001 rs2 rs1 0b000 0b00000 0b1110011
def Enc.csrrw (rd : BitVec 5) (csr : BitVec 12) (rs1 : BitVec 5) : Code := encI csr rs1 0b001 rd 0b1110011
def Enc.csrrs (rd : BitVec 5) (csr : BitVec 12) (rs1 : BitVec 5) : Code := encI csr rs1 0b010 rd 0b1110011
def Enc.csrrc (rd : BitVec 5) (csr : BitVec 12) (rs1 : BitVec 5) : Code := encI csr rs1 0b011 rd 0b1110011
def Enc.csrrwi (rd : BitVec 5) (csr : BitVec 12) (zimm : BitVec 5) : Code := encI csr zimm 0b101 rd 0b1110011
def Enc.csrrsi (rd : BitVec 5) (csr : BitVec 12) (zimm : BitVec 5) : Code := encI csr zimm 0b110 rd 0b1110011
def Enc.csrrci (rd : BitVec 5) (csr : BitVec 12) (zimm : BitVec 5) : Code := encI csr zimm 0b111 rd 0b1110011
def Enc.ecall : Code := encR 0b0000000 0b00000 0b00000 0b000 0b00000 0b1110011
def Enc.ebreak : Code := encR 0b0000000 0b00001 0b00000 0b000 0b00000 0b1110011
def Enc.mret : Code := encR 0b0011000 0b00010 0b00000 0b000 0b00000 0b1110011
def Enc.sret : Code := encR 0b0001000 0b00010 0b00000 0b000 0b00000 0b1110011
def Enc.wfi : Code := encR 0b0001000 0b00101 0b00000 0b000 0b00000 0b1110011
def Enc.mul (rd rs1 rs2 : BitVec 5) : Code := encR 0b0000001 rs2 rs1 0b000 rd 0b0110011
def Enc.mulh (rd rs1 rs2 : BitVec 5) : Code := encR 0b0000001 rs2 rs1 0b001 rd 0b0110011
def Enc.mulhsu (rd rs1 rs2 : BitVec 5) : Code := encR 0b0000001 rs2 rs1 0b010 rd 0b0110011
def Enc.mulhu (rd rs1 rs2 : BitVec 5) : Code := encR 0b0000001 rs2 rs1 0b011 rd 0b0110011
def Enc.div (rd rs1 rs2 : BitVec 5) : Code := encR 0b0000001 rs2 rs1 0b100 rd 0b0110011
def Enc.divu (rd rs1 rs2 : BitVec 5) : Code := encR 0b0000001 rs2 rs1 0b101 rd 0b0110011
def Enc.rem (rd rs1 rs2 : BitVec 5) : Code := encR 0b0000001 rs2 rs1 0b110 rd 0b0110011
def Enc.remu (rd rs1 rs2 : BitVec 5) : Code := encR 0b0000001 rs2 rs1 0b111 rd 0b0110011
def Enc.cLw (rdp rs1p : BitVec 3) (uimm : BitVec 5) : Code := encCLW 0b010 uimm rs1p rdp
def Enc.cSw (rs2p rs1p : BitVec 3) (uimm : BitVec 5) : Code := encCLW 0b110 uimm rs1p rs2p
def Enc.cLwsp (rd : BitVec 5) (uimm : BitVec 6) : Code := encLwsp 0b010 uimm rd
def Enc.cSwsp (rs2 : BitVec 5) (uimm : BitVec 6) : Code := encSwsp 0b110 uimm rs2
def Enc.cBeqz (rs1p : BitVec 3) (offset : BitVec 8) : Code := encCBr 0b110 offset rs1p
def Enc.cBnez (rs1p : BitVec 3) (offset : BitVec 8) : Code := encCBr 0b111 offset rs1p
def Enc.cJ (offset : BitVec 11) : Code := encCJ 0b101 offset
def Enc.cJr (rs1 : BitVec 5) : Code := encC 0b100 0b0 rs1 0 0b10
def Enc.cJal (offset : BitVec 11) : Code := encCJ 0b001 offset
def Enc.cJalr (rs1 : BitVec 5) : Code := encC 0b100 0b1 rs1 0 0b10
def Enc.cEbreak : Code := encC 0b100 0b1 0 0 0b10
def Enc.cAdd (rd rs2 : BitVec 5) : Code := encC 0b100 0b1 rd rs2 0b10
def Enc.cAddi (rd : BitVec 5) (imm : BitVec 6) : Code := encCI 0b000 imm rd 0b01
def Enc.cSub (rdp rs2p : BitVec 3) : Code := encCA 0b0 0b00 rdp rs2p
def Enc.cAddi16sp (imm : BitVec 6) : Code :=
  encC 0b011 (imm.extractLsb' 5 1) 0b00010 (imm.extractLsb' 0 1 ++ imm.extractLsb' 2 1 ++ imm.extractLsb' 3 2 ++ imm.extractLsb' 1 1) 0b01
def Enc.cAddi4spn (rdp : BitVec 3) (uimm : BitVec 8) : Code :=
  encC 0b000 (uimm.extractLsb' 3 1) (uimm.extractLsb' 2 1 ++ uimm.extractLsb' 4 4) (uimm.extractLsb' 0 1 ++ uimm.extractLsb' 1 1 ++ rdp) 0b00
def Enc.cAnd (rdp rs2p : BitVec 3) : Code := encCA 0b0 0b11 rdp rs2p
def Enc.cAndi (rdp : BitVec 3) (imm : BitVec 6) : Code := encCB 0b10 imm rdp
def Enc.cOr (rdp rs2p : BitVec 3) : Code := encCA 0b0 0b10 rdp rs2p
def Enc.cXor (rdp rs2p : BitVec 3) : Code := encCA 0b0 0b01 rdp rs2p
def Enc.cSlli (rd : BitVec 5) (uimm : BitVec 6) : Code := encCI 0b000 uimm rd 0b10
def Enc.cSrli (rdp : BitVec 3) (uimm : BitVec 6) : Code := encCB 0b00 uimm rdp
def Enc.cSrai (rdp : BitVec 3) (uimm : BitVec 6) : Code := encCB 0b01 uimm rdp
def Enc.cMv (rd rs2 : BitVec 5) : Code := encC 0b100 0b0 rd rs2 0b10
def Enc.cLi (rd : BitVec 5) (imm : BitVec 6) : Code := encCI 0b010 imm rd 0b01
def Enc.cLui (rd : BitVec 5) (imm : BitVec 6) : Code := encCI 0b011 imm rd 0b01
def Enc.cFlw (rdp rs1p : BitVec 3) (uimm : BitVec 5) : Code := encCLW 0b011 uimm rs1p rdp
def Enc.cFlwsp (rd : BitVec 5) (uimm : BitVec 6) : Code := encLwsp 0b011 uimm rd
def Enc.cFsw (rs2p rs1p : BitVec 3) (uimm : BitVec 5) : Code := encCLW 0b111 uimm rs1p rs2p
def Enc.cFswsp (rs2 : BitVec 5) (uimm : BitVec 6) : Code := encSwsp 0b111 uimm rs2
def Enc.flw (rd rs1 : BitVec 5) (offset : BitVec 12) : Code := encI offset rs1 0b010 rd 0b0000111
def Enc.fsw (rs2 rs1 : BitVec 5) (offset : BitVec 12) : Code := encS offset rs2 rs1 0b010 0b0100111
def Enc.fmaddS (rd rs1 rs2 rs3 : BitVec 5) (rm : BitVec 3) : Code := encR4 rs3 0b00 rs2 rs1 rm rd 0b1000011
def Enc.fmsubS (rd rs1 rs2 rs3 : BitVec 5) (rm : BitVec 3) : Code := encR4 rs3 0b00 rs2 rs1 rm rd 0b1000111
def Enc.fnmaddS (rd rs1 rs2 rs3 : BitVec 5) (rm : BitVec 3) : Code := encR4 rs3 0b00 rs2 rs1 rm rd 0b1001111
def Enc.fnmsubS (rd rs1 rs2 rs3 : BitVec 5) (rm : BitVec 3) : Code := encR4 rs3 0b00 rs2 rs1 rm rd 0b1001011
def Enc.faddS (rd rs1 rs2 : BitVec 5) (rm : BitVec 3) : Code := encR 0b0000000 rs2 rs1 rm rd 0b1010011
def Enc.fsubS (rd rs1 rs2 : BitVec 5) (rm : BitVec 3) : Code := encR 0b0000100 rs2 rs1 rm rd 0b1010011
def Enc.fmulS (rd rs1 rs2 : BitVec 5) (rm : BitVec 3) : Code := encR 0b0001000 rs2 rs1 rm rd 0b1010011
def Enc.fdivS (rd rs1 rs2 : BitVec 5) (rm : BitVec 3) : Code := encR 0b0001100 rs2 rs1 rm rd 0b1010011
def Enc.fsqrtS (rd rs1 : BitVec 5) (rm : BitVec 3) : Code := encR 0b0101100 0b00000 rs1 rm rd 0b1010011
def Enc.fminS (rd rs1 rs2 : BitVec 5) : Code := encR 0b0010100 rs2 rs1 0b000 rd 0b1010011
def Enc.fmaxS (rd rs1 rs2 : BitVec 5) : Code := encR 0b0010100 rs2 rs1 0b001 rd 0b1010011
def Enc.fcvtWS (rd rs1 : BitVec 5) (rm : BitVec 3) : Code := encR 0b1100000 0b00000 rs1 rm rd 0b1010011
def Enc.fcvtWuS (rd rs1 : BitVec 5) (rm : BitVec 3) : Code := encR 0b1100000 0b00001 rs1 rm rd 0b1010011
def Enc.fcvtSW (rd rs1 : BitVec 5) (rm : BitVec 3) : Code := encR 0b1101000 0b00000 rs1 rm rd 0b1010011
def Enc.fcvtSWu (rd rs1 : BitVec 5) (rm : BitVec 3) : Code := encR 0b1101000 0b00001 rs1 rm rd 0b1010011
def Enc.fsgnjS (rd rs1 rs2 : BitVec 5) : Code := encR 0b0010000 rs2 rs1 0b000 rd 0b1010011
def Enc.fsgnjnS (rd rs1 rs2 : BitVec 5) : Code := encR 0b0010000 rs2 rs1 0b001 rd 0b1010011
def Enc.fsgnjxS (rd rs1 rs2 : BitVec 5) : Code := encR 0b0010000 rs2 rs1 0b010 rd 0b1010011
def Enc.fmvXW (rd rs1 : BitVec 5) : Code := encR 0b1110000 0b00000 rs1 0b000 rd 0b1010011
def Enc.fmvWX (rd rs1 : BitVec 5) : Code := encR 0b1111000 0b00000 rs1 0b000 rd 0b1010011
def Enc.feqS (rd rs1 rs2 : BitVec 5) : Code := encR 0b1010000 rs2 rs1 0b010 rd 0b1010011
def Enc.fltS (rd rs1 rs2 : BitVec 5) : Code := encR 0b1010000 rs2 rs1 0b001 rd 0b1010011
def Enc.fleS (rd rs1 rs2 : BitVec 5) : Code := encR 0b1010000 rs2 rs1 0b000 rd 0b1010011
def Enc.fclassS (rd rs1 : BitVec 5) : Code := encR 0b1110000 0b00000 rs1 0b001 rd 0b1010011
def Enc.lwu (rd rs1 : BitVec 5) (offset : BitVec 12) : Code := encI offset rs1 0b110 rd 0b0000011
def Enc.ld (rd rs1 : BitVec 5) (offset : BitVec 12) : Code := encI offset rs1 0b011 rd 0b0000011
def Enc.sd (rs2 rs1 : BitVec 5) (offset : BitVec 12) : Code := encS offset rs2 rs1 0b011 0b0100011
def Enc.addw (rd rs1 rs2 : BitVec 5) : Code := encR 0b0000000 rs2 rs1 0b000 rd 0b0111011
def Enc.addiw (rd rs1 : BitVec 5) (imm : BitVec 12) : Code := encI imm rs1 0b000 rd 0b0011011
def Enc.subw (rd rs1 rs2 : BitVec 5) : Code := encR 0b0100000 rs2 rs1 0b000 rd 0b0111011
def Enc.sllw (rd rs1 rs2 : BitVec 5) : Code := encR 0b0000000 rs2 rs1 0b001 rd 0b0111011
def Enc.slliw (rd rs1 shamt : BitVec 5) : Code := encR 0b0000000 shamt rs1 0b001 rd 0b0011011
def Enc.sraw (rd rs1 rs2 : BitVec 5) : Code := encR 0b0100000 rs2 rs1 0b101 rd 0b0111011
def Enc.sraiw (rd rs1 shamt : BitVec 5) : Code := encR 0b0100000 shamt rs1 0b101 rd 0b0011011
def Enc.srliw (rd rs1 shamt : BitVec 5) : Code := encR 0b0000000 shamt rs1 0b101 rd 0b0011011
def Enc.srlw (rd rs1 rs2 : BitVec 5) : Code := encR 0b0000000 rs2 rs1 0b101 rd 0b0111011
def Enc.mulw (rd rs1 rs2 : BitVec 5) : Code := encR 0b0000001 rs2 rs1 0b000 rd 0b0111011
def Enc.divw (rd rs1 rs2 : BitVec 5) : Code := encR 0b0000001 rs2 rs1 0b100 rd 0b0111011
def Enc.divuw (rd rs1 rs2 : BitVec 5) : Code := encR 0b0000001 rs2 rs1 0b101 rd 0b0111011
def Enc.remw (rd rs1 rs2 : BitVec 5) : Code := encR 0b0000001 rs2 rs1 0b110 rd 0b0111011
def Enc.remuw (rd rs1 rs2 : BitVec 5) : Code := encR 0b0000001 rs2 rs1 0b111 rd 0b0111011
def Enc.lrD (rd rs1 : BitVec 5) (aq rl : BitVec 1) : Code := encA 0b00010 aq rl 0b00000 rs1 0b011 rd
def Enc.scD (rd rs2 rs1 : BitVec 5) (aq rl : BitVec 1) : Code := encA 0b00011 aq rl rs2 rs1 0b011 rd
def Enc.amoaddD (rd rs2 rs1 : BitVec 5) (aq rl : BitVec 1) : Code := encA 0b00000 aq rl rs2 rs1 0b011 rd
def Enc.amoandD (rd rs2 rs1 : BitVec 5) (aq rl : BitVec 1) : Code := encA 0b01100 aq rl rs2 rs1 0b011 rd
def Enc.amomaxD (rd rs2 rs1 : BitVec 5) (aq rl : BitVec 1) : Code := encA 0b10100 aq rl rs2 rs1 0b011 rd
def Enc.amomaxuD (rd rs2 rs1 : BitVec 5) (aq rl : BitVec 1) : Code := encA 0b11100 aq rl rs2 rs1 0b011 rd
def Enc.amominD (rd rs2 rs1 : BitVec 5) (aq rl : BitVec 1) : Code := encA 0b10000 aq rl rs2 rs1 0b011 rd
def Enc.amominuD (rd rs2 rs1 : BitVec 5) (aq rl : BitVec 1) : Code := encA 0b11000 aq rl rs2 rs1 0b011 rd
def Enc.amominuW (rd rs2 rs1 : BitVec 5) (aq rl : BitVec 1) : Code := encA 0b11000 aq rl rs2 rs1 0b010 rd
def Enc.amoorD (rd rs2 rs1 : BitVec 5) (aq rl : BitVec 1) : Code := encA 0b01000 aq rl rs2 rs1 0b011 rd
def Enc.amoswapD (rd rs2 rs1 : BitVec 5) (aq rl : BitVec 1) : Code := encA 0b00001 aq rl rs2 rs1 0b011 rd
def Enc.amoxorD (rd rs2 rs1 : BitVec 5) (aq rl : BitVec 1) : Code := encA 0b00100 aq rl rs2 rs1 0b011 rd
def Enc.fld (rd rs1 : BitVec 5) (offset : BitVec 12) : Code := encI offset rs1 0b011 rd 0b0000111
def Enc.fsd (rs2 rs1 : BitVec 5) (offset : BitVec 12) : Code := encS offset rs2 rs1 0b011 0b0100111
def Enc.fmaddD (rd rs1 rs2 rs3 : BitVec 5) (rm : BitVec 3) : Code := encR4 rs3 0b01 rs2 rs1 rm rd 0b1000011
def Enc.fmsubD (rd rs1 rs2 rs3 : BitVec 5) (rm : BitVec 3) : Code := encR4 rs3 0b01 rs2 rs1 rm rd 0b1000111
def Enc.fnmsubD (rd rs1 rs2 rs3 : BitVec 5) (rm : BitVec 3) : Code := encR4 rs3 0b01 rs2 rs1 rm rd 0b1001011
def Enc.fnmaddD (rd rs1 rs2 rs3 : BitVec 5) (rm : BitVec 3) : Code := encR4 rs3 0b01 rs2 rs1 rm rd 0b1001111
def Enc.faddD (rd rs1 rs2 : BitVec 5) (rm : BitVec 3) : Code := encR 0b0000001 rs2 rs1 rm rd 0b1010011
def Enc.fsubD (rd rs1 rs2 : BitVec 5) (rm : BitVec 3) : Code := encR 0b0000101 rs2 rs1 rm rd 0b1010011
def Enc.fmulD (rd rs1 rs2 : BitVec 5) (rm : BitVec 3) : Code := encR 0b0001001 rs2 rs1 rm rd 0b1010011
def Enc.fdivD (rd rs1 rs2 : BitVec 5) (rm : BitVec 3) : Code := encR 0b0001101 rs2 rs1 rm rd 0b1010011
def Enc.fsqrtD (rd rs1 : BitVec 5) (rm : BitVec 3) : Code := encR 0b0101101 0b00000 rs1 rm rd 0b1010011
def Enc.fsgnjD (rd rs1 rs2 : BitVec 5) : Code := encR 0b0010001 rs2 rs1 0b000 rd 0b1010011
def Enc.fsgnjnD (rd rs1 rs2 : BitVec 5) : Code := encR 0b0010001 rs2 rs1 0b001 rd 0b1010011
def Enc.fsgnjxD (rd rs1 rs2 : BitVec 5) : Code := encR 0b0010001 rs2 rs1 0b010 rd 0b1010011
def Enc.fminD (rd rs1 rs2 : BitVec 5) : Code := encR 0b0010101 rs2 rs1 0b000 rd 0b1010011
def Enc.fmaxD (rd rs1 rs2 : BitVec 5) : Code := encR 0b0010101 rs2 rs1 0b001 rd 0b1010011
def Enc.fcvtSD (rd rs1 : BitVec 5) (rm : BitVec 3) : Code := encR 0b0100000 0b00001 rs1 rm rd 0b1010011
def Enc.fcvtDS (rd rs1 : BitVec 5) (rm : BitVec 3) : Code := encR 0b0100001 0b00000 rs1 rm rd 0b1010011
def Enc.fcvtWD (rd rs1 : BitVec 5) (rm : BitVec 3) : Code := encR 0b1100001 0b00000 rs1 rm rd 0b1010011
def Enc.fcvtWuD (rd rs1 : BitVec 5) (rm : BitVec 3) : Code := encR 0b1100001 0b00001 rs1 rm rd 0b1010011
def Enc.fcvtDW (rd rs1 : BitVec 5) (rm : BitVec 3) : Code := encR 0b1101001 0b00000 rs1 rm rd 0b1010011
def Enc.fcvtDWu (rd rs1 : BitVec 5) (rm : BitVec 3) : Code := encR 0b1101001 0b00001 rs1 rm rd 0b1010011
def Enc.feqD (rd rs1 rs2 : BitVec 5) : Code := encR 0b1010001 rs2 rs1 0b010 rd 0b1010011
def Enc.fltD (rd rs1 rs2 : BitVec 5) : Code := encR 0b1010001 rs2 rs1 0b001 rd 0b1010011
def Enc.fleD (rd rs1 rs2 : BitVec 5) : Code := encR 0b1010001 rs2 rs1 0b000 rd 0b1010011
def Enc.fmvDX (rd rs1 : BitVec 5) : Code := encR 0b1111001 0b00000 rs1 0b000 rd 0b1010011
def Enc.fmvXD (rd rs1 : BitVec 5) : Code := encR 0b1110001 0b00000 rs1 0b000 rd 0b1010011
def Enc.fcvtDL (rd rs1 : BitVec 5) (rm : BitVec 3) : Code := encR 0b1101001 0b00010 rs1 rm rd 0b1010011
def Enc.fcvtDLu (rd rs1 : BitVec 5) (rm : BitVec 3) : Code := encR 0b1101001 0b00011 rs1 rm rd 0b1010011
def Enc.fcvtLD (rd rs1 : BitVec 5) (rm : BitVec 3) : Code := encR 0b1100001 0b00010 rs1 rm rd 0b1010011
def Enc.fcvtLS (rd rs1 : BitVec 5) (rm : BitVec 3) : Code := encR 0b1100000 0b00010 rs1 rm rd 0b1010011
def Enc.fcvtLuD (rd rs1 : BitVec 5) (rm : BitVec 3) : Code := encR 0b1100001 0b00011 rs1 rm rd 0b1010011
def Enc.fcvtLuS (rd rs1 : BitVec 5) (rm : BitVec 3) : Code := encR 0b1100000 0b00011 rs1 rm rd 0b1010011
def Enc.fcvtSL (rd rs1 : BitVec 5) (rm : BitVec 3) : Code := encR 0b1101000 0b00010 rs1 rm rd 0b1010011
def Enc.fcvtSLu (rd rs1 : BitVec 5) (rm : BitVec 3) : Code := encR 0b1101000 0b00011 rs1 rm rd 0b1010011
def Enc.fclassD (rd rs1 : BitVec 5) : Code := encR 0b1110001 0b00000 rs1 0b001 rd 0b1010011
def Enc.cLd (rdp rs1p : BitVec 3) (uimm : BitVec 5) : Code := encCLD 0b011 uimm rs1p rdp
def Enc.cLdsp (rd : BitVec 5) (uimm : BitVec 6) : Code := encLdsp 0b011 uimm rd
def Enc.cSd (rs2p rs1p : BitVec 3) (uimm : BitVec 5) : Code := encCLD 0b111 uimm rs1p rs2p
def Enc.cSdsp (rs2 : BitVec 5) (uimm : BitVec 6) : Code := encSdsp 0b111 uimm rs2
def Enc.cAddw (rdp rs2p : BitVec 3) : Code := encCA 0b1 0b01 rdp rs2p
def Enc.cAddiw (rd : BitVec 5) (imm : BitVec 6) : Code := encCI 0b001 imm rd 0b01
def Enc.cSubw (rdp rs2p : BitVec 3) : Code := encCA 0b1 0b00 rdp rs2p
def Enc.cFld (rdp rs1p : BitVec 3) (uimm : BitVec 5) : Code := encCLD 0b001 uimm rs1p rdp
def Enc.cFldsp (rd : BitVec 5) (uimm : BitVec 6) : Code := encLdsp 0b001 uimm rd
def Enc.cFsd (rs2p rs1p : BitVec 3) (uimm : BitVec 5) : Code := encCLD 0b101 uimm rs1p rs2p
def Enc.cFsdsp (rs2 : BitVec 5) (uimm : BitVec 6) : Code := encSdsp 0b101 uimm rs2
def Enc.vsetvli (rd rs1 : BitVec 5) (zimm : BitVec 11) : Code :=
  encR (0b0#1 ++ zimm.extractLsb' 5 6) (zimm.extractLsb' 0 5) rs1 0b111 rd 0b1010111
def Enc.vsetvl (rd rs1 rs2 : BitVec 5) : Code := encR 0b1000000 rs2 rs1 0b111 rd 0b1010111
def Enc.vlbV (vd rs1 : BitVec 5) (vm : BitVec 1) : Code := encV 0b000100 vm 0b00000 rs1 0b000 vd 0b0000111
def Enc.vlhV (vd rs1 : BitVec 5) (vm : BitVec 1) : Code := encV 0b000100 vm 0b00000 rs1 0b101 vd 0b0000111
def Enc.vlwV (vd rs1 : BitVec 5) (vm : BitVec 1) : Code := encV 0b000100 vm 0b00000 rs1 0b110 vd 0b0000111
def Enc.vlbuV (vd rs1 : BitVec 5) (vm : BitVec 1) : Code := encV 0b000000 vm 0b00000 rs1 0b000 vd 0b0000111
def Enc.vlhuV (vd rs1 : BitVec 5) (vm : BitVec 1) : Code := encV 0b000000 vm 0b00000 rs1 0b101 vd 0b0000111
def Enc.vlwuV (vd rs1 : BitVec 5) (vm : BitVec 1) : Code := encV 0b000000 vm 0b00000 rs1 0b110 vd 0b0000111
def Enc.vleV (vd rs1 : BitVec 5) (vm : BitVec 1) : Code := encV 0b000000 vm 0b00000 rs1 0b111 vd 0b0000111
def Enc.vsbV (vs3 rs1 : BitVec 5) (vm : BitVec 1) : Code := encV 0b000000 vm 0b00000 rs1 0b000 vs3 0b0100111
def Enc.vshV (vs3 rs1 : BitVec 5) (vm : BitVec 1) : Code := encV 0b000000 vm 0b00000 rs1 0b101 vs3 0b0100111
def Enc.vswV (vs3 rs1 : BitVec 5) (vm : BitVec 1) : Code := encV 0b000000 vm 0b00000 rs1 0b110 vs3 0b0100111
def Enc.vseV (vs3 rs1 : BitVec 5) (vm : BitVec 1) : Code := encV 0b000000 vm 0b00000 rs1 0b111 vs3 0b0100111
def Enc.vlsbV (vd rs1 rs2 : BitVec 5) (vm : BitVec 1) : Code := encV 0b000110 vm rs2 rs1 0b000 vd 0b0000111
def Enc.vlshV (vd rs1 rs2 : BitVec 5) (vm : BitVec 1) : Code := encV 0b000110 vm rs2 rs1 0b101 vd 0b0000111
def Enc.vlswV (vd rs1 rs2 : BitVec 5) (vm : BitVec 1) : Code := encV 0b000110 vm rs2 rs1 0b110 vd 0b0000111
def Enc.vlsbuV (vd rs1 rs2 : BitVec 5) (vm : BitVec 1) : Code := encV 0b000010 vm rs2 rs1 0b000 vd 0b0000111
def Enc.vlshuV (vd rs1 rs2 : BitVec 5) (vm : BitVec 1) : Code := encV 0b000010 vm rs2 rs1 0b101 vd 0b0000111
def Enc.vlswuV (vd rs1 rs2 : BitVec 5) (vm : BitVec 1) : Code := encV 0b000010 vm rs2 rs1 0b110 vd 0b0000111
def Enc.vlseV (vd rs1 rs2 : BitVec 5) (vm : BitVec 1) : Code := encV 0b000010 vm rs2 rs1 0b111 vd 0b0000111
def Enc.vssbV (vs3 rs1 rs2 : BitVec 5) (vm : BitVec 1) : Code := encV 0b000010 vm rs2 rs1 0b000 vs3 0b0100111
def Enc.vsshV (vs3 rs1 rs2 : BitVec 5) (vm : BitVec 1) : Code := encV 0b000010 vm rs2 rs1 0b101 vs3 0b0100111
def Enc.vsswV (vs3 rs1 rs2 : BitVec 5) (vm : BitVec 1) : Code := encV 0b000010 vm rs2 rs1 0b110 vs3 0b0100111
def Enc.vsseV (vs3 rs1 rs2 : BitVec 5) (vm : BitVec 1) : Code := encV 0b000010 vm rs2 rs1 0b111 vs3 0b0100111
def Enc.vlxbV (vd rs1 vs2 : BitVec 5) (vm : BitVec 1) : Code := encV 0b000111 vm vs2 rs1 0b000 vd 0b0000111
def Enc.vlxhV (vd rs1 vs2 : BitVec 5) (vm : BitVec 1) : Code := encV 0b000111 vm vs2 rs1 0b101 vd 0b0000111
def Enc.vlxwV (vd rs1 vs2 : BitVec 5) (vm : BitVec 1) : Code := encV 0b000111 vm vs2 rs1 0b110 vd 0b0000111
def Enc.vlxbuV (vd rs1 vs2 : BitVec 5) (vm : BitVec 1) : Code := encV 0b000011 vm vs2 rs1 0b000 vd 0b0000111
def Enc.vlxhuV (vd rs1 vs2 : BitVec 5) (vm : BitVec 1) : Code := encV 0b000011 vm vs2 rs1 0b101 vd 0b0000111
def Enc.vlxwuV (vd rs1 vs2 : BitVec 5) (vm : BitVec 1) : Code := encV 0b000011 vm vs2 rs1 0b110 vd 0b0000111
def Enc.vlxeV (vd rs1 vs2 : BitVec 5) (vm : BitVec 1) : Code := encV 0b000011 vm vs2 rs1 0b111 vd 0b0000111
def Enc.vsxbV (vs3 rs1 vs2 : BitVec 5) (vm : BitVec 1) : Code := encV 0b000011 vm vs2 rs1 0b000 vs3 0b0100111
def Enc.vsxhV (vs3 rs1 vs2 : BitVec 5) (vm : BitVec 1) : Code := encV 0b000011 vm vs2 rs1 0b101 vs3 0b0100111
def Enc.vsxwV (vs3 rs1 vs2 : BitVec 5) (vm : BitVec 1) : Code := encV 0b000011 vm vs2 rs1 0b110 vs3 0b0100111
def Enc.vsxeV (vs3 rs1 vs2 : BitVec 5) (vm : BitVec 1) : Code := encV 0b000011 vm vs2 rs1 0b111 vs3 0b0100111
def Enc.vaddVv (vd vs2 vs1 : BitVec 5) (vm : BitVec 1) : Code := encV 0b000000 vm vs2 vs1 0b000 vd 0b1010111
def Enc.vaddVx (vd vs2 rs1 : BitVec 5) (vm : BitVec 1) : Code := encV 0b000000 vm vs2 rs1 0b100 vd 0b1010111
def Enc.vaddVi (vd vs2 simm5 : BitVec 5) (vm : BitVec 1) : Code := encV 0b000000 vm vs2 simm5 0b011 vd 0b1010111
def Enc.vsubVv (vd vs2 vs1 : BitVec 5) (vm : BitVec 1) : Code := encV 0b000010 vm vs2 vs1 0b000 vd 0b1010111
def Enc.vsubVx (vd vs2 rs1 : BitVec 5) (vm : BitVec 1) : Code := encV 0b000010 vm vs2 rs1 0b100 vd 0b1010111
def Enc.vrsubVx (vd vs2 rs1 : BitVec 5) (vm : BitVec 1) : Code := encV 0b000011 vm vs2 rs1 0b100 vd 0b1010111
def Enc.vrsubVi (vd vs2 simm5 : BitVec 5) (vm : BitVec 1) : Code := encV 0b000011 vm vs2 simm5 0b011 vd 0b1010111
def Enc.vandVv (vd vs2 vs1 : BitVec 5) (vm : BitVec 1) : Code := encV 0b001001 vm vs2 vs1 0b000 vd 0b1010111
def Enc.vandVx (vd vs2 rs1 : BitVec 5) (vm : BitVec 1) : Code := encV 0b001001 vm vs2 rs1 0b100 vd 0b1010111
def Enc.vandVi (vd vs2 simm5 : BitVec 5) (vm : BitVec 1) : Code := encV 0b001001 vm vs2 simm5 0b011 vd 0b1010111
def Enc.vorVv (vd vs2 vs1 : BitVec 5) (vm : BitVec 1) : Code := encV 0b001010 vm vs2 vs1 0b000 vd 0b1010111
def Enc.vorVx (vd vs2 rs1 : BitVec 5) (vm : BitVec 1) : Code := encV 0b001010 vm vs2 rs1 0b100 vd 0b1010111
def Enc.vorVi (vd vs2 simm5 : BitVec 5) (vm : BitVec 1) : Code := encV 0b001010 vm vs2 simm5 0b011 vd 0b1010111
def Enc.vxorVv (vd vs2 vs1 : BitVec 5) (vm : BitVec 1) : Code := encV 0b001011 vm vs2 vs1 0b000 vd 0b1010111
def Enc.vxorVx (vd vs2 rs1 : BitVec 5) (vm : BitVec 1) : Code := encV 0b001011 vm vs2 rs1 0b100 vd 0b1010111
def Enc.vxorVi (vd vs2 simm5 : BitVec 5) (vm : BitVec 1) : Code := encV 0b001011 vm vs2 simm5 0b011 vd 0b1010111
def Enc.vsllVv (vd vs2 vs1 : BitVec 5) (vm : BitVec 1) : Code := encV 0b100101 vm vs2 vs1 0b000 vd 0b1010111
def Enc.vsllVx (vd vs2 rs1 : BitVec 5) (vm : BitVec 1) : Code := encV 0b100101 vm vs2 rs1 0b100 vd 0b1010111
def Enc.vsllVi (vd vs2 simm5 : BitVec 5) (vm : BitVec 1) : Code := encV 0b100101 vm vs2 simm5 0b011 vd 0b1010111
def Enc.vsrlVv (vd vs2 vs1 : BitVec 5) (vm : BitVec 1) : Code := encV 0b101000 vm vs2 vs1 0b000 vd 0b1010111
def Enc.vsrlVx (vd vs2 rs1 : BitVec 5) (vm : BitVec 1) : Code := encV 0b101000 vm vs2 rs1 0b100 vd 0b1010111
def Enc.vsrlVi (vd vs2 simm5 : BitVec 5) (vm : BitVec 1) : Code := encV 0b101000 vm vs2 simm5 0b011 vd 0b1010111
def Enc.vsraVv (vd vs2 vs1 : BitVec 5) (vm : BitVec 1) : Code := encV 0b101001 vm vs2 vs1 0b000 vd 0b1010111
def Enc.vsraVx (vd vs2 rs1 : BitVec 5) (vm : BitVec 1) : Code := encV 0b101001 vm vs2 rs1 0b100 vd 0b1010111
def Enc.vsraVi (vd vs2 simm5 : BitVec 5) (vm : BitVec 1) : Code := encV 0b101001 vm vs2 simm5 0b011 vd 0b1010111
def Enc.vmseqVv (vd vs2 vs1 : BitVec 5) (vm : BitVec 1) : Code := encV 0b011000 vm vs2 vs1 0b000 vd 0b1010111
def Enc.vmseqVx (vd vs2 rs1 : BitVec 5) (vm : BitVec 1) : Code := encV 0b011000 vm vs2 rs1 0b100 vd 0b1010111
def Enc.vmseqVi (vd vs2 simm5 : BitVec 5) (vm : BitVec 1) : Code := encV 0b011000 vm vs2 simm5 0b011 vd 0b1010111
def Enc.vmsneVv (vd vs2 vs1 : BitVec 5) (vm : BitVec 1) : Code := encV 0b011001 vm vs2 vs1 0b000 vd 0b1010111
def Enc.vmsneVx (vd vs2 rs1 : BitVec 5) (vm : BitVec 1) : Code := encV 0b011001 vm vs2 rs1 0b100 vd 0b1010111
def Enc.vmsneVi (vd vs2 simm5 : BitVec 5) (vm : BitVec 1) : Code := encV 0b011001 vm vs2 simm5 0b011 vd 0b1010111
def Enc.vmsltuVv (vd vs2 vs1 : BitVec 5) (vm : BitVec 1) : Code := encV 0b011010 vm vs2 vs1 0b000 vd 0b1010111
def Enc.vmsltuVx (vd vs2 rs1 : BitVec 5) (vm : BitVec 1) : Code := encV 0b011010 vm vs2 rs1 0b100 vd 0b1010111
def Enc.vmsltVv (vd vs2 vs1 : BitVec 5) (vm : BitVec 1) : Code := encV 0b011011 vm vs2 vs1 0b000 vd 0b1010111
def Enc.vmsltVx (vd vs2 rs1 : BitVec 5) (vm : BitVec 1) : Code := encV 0b011011 vm vs2 rs1 0b100 vd 0b1010111
def Enc.vmsleuVv (vd vs2 vs1 : BitVec 5) (vm : BitVec 1) : Code := encV 0b011100 vm vs2 vs1 0b000 vd 0b1010111
def Enc.vmsleuVx (vd vs2 rs1 : BitVec 5) (vm : BitVec 1) : Code := encV 0b011100 vm vs2 rs1 0b100 vd 0b1010111
def Enc.vmsleuVi (vd vs2 simm5 : BitVec 5) (vm : BitVec 1) : Code := encV 0b011100 vm vs2 simm5 0b011 vd 0b1010111
def Enc.vmsleVv (vd vs2 vs1 : BitVec 5) (vm : BitVec 1) : Code := encV 0b011101 vm vs2 vs1 0b000 vd 0b1010111
def Enc.vmsleVx (vd vs2 rs1 : BitVec 5) (vm : BitVec 1) : Code := encV 0b011101 vm vs2 rs1 0b100 vd 0b1010111
def Enc.vmsleVi (vd vs2 simm5 : BitVec 5) (vm : BitVec 1) : Code := encV 0b011101 vm vs2 simm5 0b011 vd 0b1010111
def Enc.vmsgtuVx (vd vs2 rs1 : BitVec 5) (vm : BitVec 1) : Code := encV 0b011110 vm vs2 rs1 0b100 vd 0b1010111
def Enc.vmsgtuVi (vd vs2 simm5 : BitVec 5) (vm : BitVec 1) : Code := encV 0b011110 vm vs2 simm5 0b011 vd 0b1010111
def Enc.vmsgtVx (vd vs2 rs1 : BitVec 5) (vm : BitVec 1) : Code := encV 0b011111 vm vs2 rs1 0b100 vd 0b1010111
def Enc.vmsgtVi (vd vs2 simm5 : BitVec 5) (vm : BitVec 1) : Code := encV 0b011111 vm vs2 simm5 0b011 vd 0b1010111
def Enc.vminuVv (vd vs2 vs1 : BitVec 5) (vm : BitVec 1) : Code := encV 0b000100 vm vs2 vs1 0b000 vd 0b1010111
def Enc.vminuVx (vd vs2 rs1 : BitVec 5) (vm : BitVec 1) : Code := encV 0b000100 vm vs2 rs1 0b100 vd 0b1010111
def Enc.vminVv (vd vs2 vs1 : BitVec 5) (vm : BitVec 1) : Code := encV 0b000101 vm vs2 vs1 0b000 vd 0b1010111
def Enc.vminVx (vd vs2 rs1 : BitVec 5) (vm : BitVec 1) : Code := encV 0b000101 vm vs2 rs1 0b100 vd 0b1010111
def Enc.vmaxuVv (vd vs2 vs1 : BitVec 5) (vm : BitVec 1) : Code := encV 0b000110 vm vs2 vs1 0b000 vd 0b1010111
def Enc.vmaxuVx (vd vs2 rs1 : BitVec 5) (vm : BitVec 1) : Code := encV 0b000110 vm vs2 rs1 0b100 vd 0b1010111
def Enc.vmaxVv (vd vs2 vs1 : BitVec 5) (vm : BitVec 1) : Code := encV 0b000111 vm vs2 vs1 0b000 vd 0b1010111
def Enc.vmaxVx (vd vs2 rs1 : BitVec 5) (vm : BitVec 1) : Code := encV 0b000111 vm vs2 rs1 0b100 vd 0b1010111
def Enc.vmulVv (vd vs2 vs1 : BitVec 5) (vm : BitVec 1) : Code := encV 0b100101 vm vs2 vs1 0b010 vd 0b1010111
def Enc.vmulVx (vd vs2 rs1 : BitVec 5) (vm : BitVec 1) : Code := encV 0b100101 vm vs2 rs1 0b110 vd 0b1010111
def Enc.vmulhVv (vd vs2 vs1 : BitVec 5) (vm : BitVec 1) : Code := encV 0b100111 vm vs2 vs1 0b010 vd 0b1010111
def Enc.vmulhVx (vd vs2 rs1 : BitVec 5) (vm : BitVec 1) : Code := encV 0b100111 vm vs2 rs1 0b110 vd 0b1010111
def Enc.vmulhuVv (vd vs2 vs1 : BitVec 5) (vm : BitVec 1) : Code := encV 0b100100 vm vs2 vs1 0b010 vd 0b1010111
def Enc.vmulhuVx (vd vs2 rs1 : BitVec 5) (vm : BitVec 1) : Code := encV 0b100100 vm vs2 rs1 0b110 vd 0b1010111
def Enc.vmulhsuVv (vd vs2 vs1 : BitVec 5) (vm : BitVec 1) : Code := encV 0b100110 vm vs2 vs1 0b010 vd 0b1010111
def Enc.vmulhsuVx (vd vs2 rs1 : BitVec 5) (vm : BitVec 1) : Code := encV 0b100110 vm vs2 rs1 0b110 vd 0b1010111
def Enc.vmaccVv (vd vs2 vs1 : BitVec 5) (vm : BitVec 1) : Code := encV 0b101101 vm vs2 vs1 0b010 vd 0b1010111
def Enc.vmaccVx (vd vs2 rs1 : BitVec 5) (vm : BitVec 1) : Code := encV 0b101101 vm vs2 rs1 0b110 vd 0b1010111
def Enc.vnmsacVv (vd vs2 vs1 : BitVec 5) (vm : BitVec 1) : Code := encV 0b101111 vm vs2 vs1 0b010 vd 0b1010111
def Enc.vnmsacVx (vd vs2 rs1 : BitVec 5) (vm : BitVec 1) : Code := encV 0b101111 vm vs2 rs1 0b110 vd 0b1010111
def Enc.vmaddVv (vd vs2 vs1 : BitVec 5) (vm : BitVec 1) : Code := encV 0b101001 vm vs2 vs1 0b010 vd 0b1010111
def Enc.vmaddVx (vd vs2 rs1 : BitVec 5) (vm : BitVec 1) : Code := encV 0b101001 vm vs2 rs1 0b110 vd 0b1010111
def Enc.vnmsubVv (vd vs2 vs1 : BitVec 5) (vm : BitVec 1) : Code := encV 0b101011 vm vs2 vs1 0b010 vd 0b1010111
def Enc.vnmsubVx (vd vs2 rs1 : BitVec 5) (vm : BitVec 1) : Code := encV 0b101011 vm vs2 rs1 0b110 vd 0b1010111

/-- The bits of an instruction (R142 to R166). -/
def encode : Instr → Code
  | .lb rd rs1 offset => Enc.lb rd rs1 offset
  | .lbu rd rs1 offset => Enc.lbu rd rs1 offset
  | .lh rd rs1 offset => Enc.lh rd rs1 offset
  | .lhu rd rs1 offset => Enc.lhu rd rs1 offset
  | .lw rd rs1 offset => Enc.lw rd rs1 offset
  | .sb rs2 rs1 offset => Enc.sb rs2 rs1 offset
  | .sh rs2 rs1 offset => Enc.sh rs2 rs1 offset
  | .sw rs2 rs1 offset => Enc.sw rs2 rs1 offset
  | .sll rd rs1 rs2 => Enc.sll rd rs1 rs2
  | .slli rd rs1 shamt => Enc.slli rd rs1 shamt
  | .srl rd rs1 rs2 => Enc.srl rd rs1 rs2
  | .srli rd rs1 shamt => Enc.srli rd rs1 shamt
  | .sra rd rs1 rs2 => Enc.sra rd rs1 rs2
  | .srai rd rs1 shamt => Enc.srai rd rs1 shamt
  | .add rd rs1 rs2 => Enc.add rd rs1 rs2
  | .addi rd rs1 imm => Enc.addi rd rs1 imm
  | .sub rd rs1 rs2 => Enc.sub rd rs1 rs2
  | .lui rd imm => Enc.lui rd imm
  | .auipc rd imm => Enc.auipc rd imm
  | .and rd rs1 rs2 => Enc.and rd rs1 rs2
  | .andi rd rs1 imm => Enc.andi rd rs1 imm
  | .or rd rs1 rs2 => Enc.or rd rs1 rs2
  | .ori rd rs1 imm => Enc.ori rd rs1 imm
  | .xor rd rs1 rs2 => Enc.xor rd rs1 rs2
  | .xori rd rs1 imm => Enc.xori rd rs1 imm
  | .slt rd rs1 rs2 => Enc.slt rd rs1 rs2
  | .sltu rd rs1 rs2 => Enc.sltu rd rs1 rs2
  | .slti rd rs1 imm => Enc.slti rd rs1 imm
  | .sltiu rd rs1 imm => Enc.sltiu rd rs1 imm
  | .beq rs1 rs2 offset => Enc.beq rs1 rs2 offset
  | .bne rs1 rs2 offset => Enc.bne rs1 rs2 offset
  | .blt rs1 rs2 offset => Enc.blt rs1 rs2 offset
  | .bge rs1 rs2 offset => Enc.bge rs1 rs2 offset
  | .bltu rs1 rs2 offset => Enc.bltu rs1 rs2 offset
  | .bgeu rs1 rs2 offset => Enc.bgeu rs1 rs2 offset
  | .jal rd offset => Enc.jal rd offset
  | .jalr rd rs1 offset => Enc.jalr rd rs1 offset
  | .fence pred succ => Enc.fence pred succ
  | .fenceI => Enc.fenceI
  | .sfenceVma rs1 rs2 => Enc.sfenceVma rs1 rs2
  | .csrrw rd csr rs1 => Enc.csrrw rd csr rs1
  | .csrrs rd csr rs1 => Enc.csrrs rd csr rs1
  | .csrrc rd csr rs1 => Enc.csrrc rd csr rs1
  | .csrrwi rd csr zimm => Enc.csrrwi rd csr zimm
  | .csrrsi rd csr zimm => Enc.csrrsi rd csr zimm
  | .csrrci rd csr zimm => Enc.csrrci rd csr zimm
  | .ecall => Enc.ecall
  | .ebreak => Enc.ebreak
  | .mret => Enc.mret
  | .sret => Enc.sret
  | .wfi => Enc.wfi
  | .mul rd rs1 rs2 => Enc.mul rd rs1 rs2
  | .mulh rd rs1 rs2 => Enc.mulh rd rs1 rs2
  | .mulhsu rd rs1 rs2 => Enc.mulhsu rd rs1 rs2
  | .mulhu rd rs1 rs2 => Enc.mulhu rd rs1 rs2
  | .div rd rs1 rs2 => Enc.div rd rs1 rs2
  | .divu rd rs1 rs2 => Enc.divu rd rs1 rs2
  | .rem rd rs1 rs2 => Enc.rem rd rs1 rs2
  | .remu rd rs1 rs2 => Enc.remu rd rs1 rs2
  | .cLw rdp rs1p uimm => Enc.cLw rdp rs1p uimm
  | .cSw rs2p rs1p uimm => Enc.cSw rs2p rs1p uimm
  | .cLwsp rd uimm => Enc.cLwsp rd uimm
  | .cSwsp rs2 uimm => Enc.cSwsp rs2 uimm
  | .cBeqz rs1p offset => Enc.cBeqz rs1p offset
  | .cBnez rs1p offset => Enc.cBnez rs1p offset
  | .cJ offset => Enc.cJ offset
  | .cJr rs1 => Enc.cJr rs1
  | .cJal offset => Enc.cJal offset
  | .cJalr rs1 => Enc.cJalr rs1
  | .cEbreak => Enc.cEbreak
  | .cAdd rd rs2 => Enc.cAdd rd rs2
  | .cAddi rd imm => Enc.cAddi rd imm
  | .cSub rdp rs2p => Enc.cSub rdp rs2p
  | .cAddi16sp imm => Enc.cAddi16sp imm
  | .cAddi4spn rdp uimm => Enc.cAddi4spn rdp uimm
  | .cAnd rdp rs2p => Enc.cAnd rdp rs2p
  | .cAndi rdp imm => Enc.cAndi rdp imm
  | .cOr rdp rs2p => Enc.cOr rdp rs2p
  | .cXor rdp rs2p => Enc.cXor rdp rs2p
  | .cSlli rd uimm => Enc.cSlli rd uimm
  | .cSrli rdp uimm => Enc.cSrli rdp uimm
  | .cSrai rdp uimm => Enc.cSrai rdp uimm
  | .cMv rd rs2 => Enc.cMv rd rs2
  | .cLi rd imm => Enc.cLi rd imm
  | .cLui rd imm => Enc.cLui rd imm
  | .cFlw rdp rs1p uimm => Enc.cFlw rdp rs1p uimm
  | .cFlwsp rd uimm => Enc.cFlwsp rd uimm
  | .cFsw rs2p rs1p uimm => Enc.cFsw rs2p rs1p uimm
  | .cFswsp rs2 uimm => Enc.cFswsp rs2 uimm
  | .flw rd rs1 offset => Enc.flw rd rs1 offset
  | .fsw rs2 rs1 offset => Enc.fsw rs2 rs1 offset
  | .fmaddS rd rs1 rs2 rs3 rm => Enc.fmaddS rd rs1 rs2 rs3 rm
  | .fmsubS rd rs1 rs2 rs3 rm => Enc.fmsubS rd rs1 rs2 rs3 rm
  | .fnmaddS rd rs1 rs2 rs3 rm => Enc.fnmaddS rd rs1 rs2 rs3 rm
  | .fnmsubS rd rs1 rs2 rs3 rm => Enc.fnmsubS rd rs1 rs2 rs3 rm
  | .faddS rd rs1 rs2 rm => Enc.faddS rd rs1 rs2 rm
  | .fsubS rd rs1 rs2 rm => Enc.fsubS rd rs1 rs2 rm
  | .fmulS rd rs1 rs2 rm => Enc.fmulS rd rs1 rs2 rm
  | .fdivS rd rs1 rs2 rm => Enc.fdivS rd rs1 rs2 rm
  | .fsqrtS rd rs1 rm => Enc.fsqrtS rd rs1 rm
  | .fminS rd rs1 rs2 => Enc.fminS rd rs1 rs2
  | .fmaxS rd rs1 rs2 => Enc.fmaxS rd rs1 rs2
  | .fcvtWS rd rs1 rm => Enc.fcvtWS rd rs1 rm
  | .fcvtWuS rd rs1 rm => Enc.fcvtWuS rd rs1 rm
  | .fcvtSW rd rs1 rm => Enc.fcvtSW rd rs1 rm
  | .fcvtSWu rd rs1 rm => Enc.fcvtSWu rd rs1 rm
  | .fsgnjS rd rs1 rs2 => Enc.fsgnjS rd rs1 rs2
  | .fsgnjnS rd rs1 rs2 => Enc.fsgnjnS rd rs1 rs2
  | .fsgnjxS rd rs1 rs2 => Enc.fsgnjxS rd rs1 rs2
  | .fmvXW rd rs1 => Enc.fmvXW rd rs1
  | .fmvWX rd rs1 => Enc.fmvWX rd rs1
  | .feqS rd rs1 rs2 => Enc.feqS rd rs1 rs2
  | .fltS rd rs1 rs2 => Enc.fltS rd rs1 rs2
  | .fleS rd rs1 rs2 => Enc.fleS rd rs1 rs2
  | .fclassS rd rs1 => Enc.fclassS rd rs1
  | .lwu rd rs1 offset => Enc.lwu rd rs1 offset
  | .ld rd rs1 offset => Enc.ld rd rs1 offset
  | .sd rs2 rs1 offset => Enc.sd rs2 rs1 offset
  | .addw rd rs1 rs2 => Enc.addw rd rs1 rs2
  | .addiw rd rs1 imm => Enc.addiw rd rs1 imm
  | .subw rd rs1 rs2 => Enc.subw rd rs1 rs2
  | .sllw rd rs1 rs2 => Enc.sllw rd rs1 rs2
  | .slliw rd rs1 shamt => Enc.slliw rd rs1 shamt
  | .sraw rd rs1 rs2 => Enc.sraw rd rs1 rs2
  | .sraiw rd rs1 shamt => Enc.sraiw rd rs1 shamt
  | .srliw rd rs1 shamt => Enc.srliw rd rs1 shamt
  | .srlw rd rs1 rs2 => Enc.srlw rd rs1 rs2
  | .mulw rd rs1 rs2 => Enc.mulw rd rs1 rs2
  | .divw rd rs1 rs2 => Enc.divw rd rs1 rs2
  | .divuw rd rs1 rs2 => Enc.divuw rd rs1 rs2
  | .remw rd rs1 rs2 => Enc.remw rd rs1 rs2
  | .remuw rd rs1 rs2 => Enc.remuw rd rs1 rs2
  | .lrD rd rs1 aq rl => Enc.lrD rd rs1 aq rl
  | .scD rd rs2 rs1 aq rl => Enc.scD rd rs2 rs1 aq rl
  | .amoaddD rd rs2 rs1 aq rl => Enc.amoaddD rd rs2 rs1 aq rl
  | .amoandD rd rs2 rs1 aq rl => Enc.amoandD rd rs2 rs1 aq rl
  | .amomaxD rd rs2 rs1 aq rl => Enc.amomaxD rd rs2 rs1 aq rl
  | .amomaxuD rd rs2 rs1 aq rl => Enc.amomaxuD rd rs2 rs1 aq rl
  | .amominD rd rs2 rs1 aq rl => Enc.amominD rd rs2 rs1 aq rl
  | .amominuD rd rs2 rs1 aq rl => Enc.amominuD rd rs2 rs1 aq rl
  | .amominuW rd rs2 rs1 aq rl => Enc.amominuW rd rs2 rs1 aq rl
  | .amoorD rd rs2 rs1 aq rl => Enc.amoorD rd rs2 rs1 aq rl
  | .amoswapD rd rs2 rs1 aq rl => Enc.amoswapD rd rs2 rs1 aq rl
  | .amoxorD rd rs2 rs1 aq rl => Enc.amoxorD rd rs2 rs1 aq rl
  | .fld rd rs1 offset => Enc.fld rd rs1 offset
  | .fsd rs2 rs1 offset => Enc.fsd rs2 rs1 offset
  | .fmaddD rd rs1 rs2 rs3 rm => Enc.fmaddD rd rs1 rs2 rs3 rm
  | .fmsubD rd rs1 rs2 rs3 rm => Enc.fmsubD rd rs1 rs2 rs3 rm
  | .fnmsubD rd rs1 rs2 rs3 rm => Enc.fnmsubD rd rs1 rs2 rs3 rm
  | .fnmaddD rd rs1 rs2 rs3 rm => Enc.fnmaddD rd rs1 rs2 rs3 rm
  | .faddD rd rs1 rs2 rm => Enc.faddD rd rs1 rs2 rm
  | .fsubD rd rs1 rs2 rm => Enc.fsubD rd rs1 rs2 rm
  | .fmulD rd rs1 rs2 rm => Enc.fmulD rd rs1 rs2 rm
  | .fdivD rd rs1 rs2 rm => Enc.fdivD rd rs1 rs2 rm
  | .fsqrtD rd rs1 rm => Enc.fsqrtD rd rs1 rm
  | .fsgnjD rd rs1 rs2 => Enc.fsgnjD rd rs1 rs2
  | .fsgnjnD rd rs1 rs2 => Enc.fsgnjnD rd rs1 rs2
  | .fsgnjxD rd rs1 rs2 => Enc.fsgnjxD rd rs1 rs2
  | .fminD rd rs1 rs2 => Enc.fminD rd rs1 rs2
  | .fmaxD rd rs1 rs2 => Enc.fmaxD rd rs1 rs2
  | .fcvtSD rd rs1 rm => Enc.fcvtSD rd rs1 rm
  | .fcvtDS rd rs1 rm => Enc.fcvtDS rd rs1 rm
  | .fcvtWD rd rs1 rm => Enc.fcvtWD rd rs1 rm
  | .fcvtWuD rd rs1 rm => Enc.fcvtWuD rd rs1 rm
  | .fcvtDW rd rs1 rm => Enc.fcvtDW rd rs1 rm
  | .fcvtDWu rd rs1 rm => Enc.fcvtDWu rd rs1 rm
  | .feqD rd rs1 rs2 => Enc.feqD rd rs1 rs2
  | .fltD rd rs1 rs2 => Enc.fltD rd rs1 rs2
  | .fleD rd rs1 rs2 => Enc.fleD rd rs1 rs2
  | .fmvDX rd rs1 => Enc.fmvDX rd rs1
  | .fmvXD rd rs1 => Enc.fmvXD rd rs1
  | .fcvtDL rd rs1 rm => Enc.fcvtDL rd rs1 rm
  | .fcvtDLu rd rs1 rm => Enc.fcvtDLu rd rs1 rm
  | .fcvtLD rd rs1 rm => Enc.fcvtLD rd rs1 rm
  | .fcvtLS rd rs1 rm => Enc.fcvtLS rd rs1 rm
  | .fcvtLuD rd rs1 rm => Enc.fcvtLuD rd rs1 rm
  | .fcvtLuS rd rs1 rm => Enc.fcvtLuS rd rs1 rm
  | .fcvtSL rd rs1 rm => Enc.fcvtSL rd rs1 rm
  | .fcvtSLu rd rs1 rm => Enc.fcvtSLu rd rs1 rm
  | .fclassD rd rs1 => Enc.fclassD rd rs1
  | .cLd rdp rs1p uimm => Enc.cLd rdp rs1p uimm
  | .cLdsp rd uimm => Enc.cLdsp rd uimm
  | .cSd rs2p rs1p uimm => Enc.cSd rs2p rs1p uimm
  | .cSdsp rs2 uimm => Enc.cSdsp rs2 uimm
  | .cAddw rdp rs2p => Enc.cAddw rdp rs2p
  | .cAddiw rd imm => Enc.cAddiw rd imm
  | .cSubw rdp rs2p => Enc.cSubw rdp rs2p
  | .cFld rdp rs1p uimm => Enc.cFld rdp rs1p uimm
  | .cFldsp rd uimm => Enc.cFldsp rd uimm
  | .cFsd rs2p rs1p uimm => Enc.cFsd rs2p rs1p uimm
  | .cFsdsp rs2 uimm => Enc.cFsdsp rs2 uimm
  | .vsetvli rd rs1 zimm => Enc.vsetvli rd rs1 zimm
  | .vsetvl rd rs1 rs2 => Enc.vsetvl rd rs1 rs2
  | .vlbV vd rs1 vm => Enc.vlbV vd rs1 vm
  | .vlhV vd rs1 vm => Enc.vlhV vd rs1 vm
  | .vlwV vd rs1 vm => Enc.vlwV vd rs1 vm
  | .vlbuV vd rs1 vm => Enc.vlbuV vd rs1 vm
  | .vlhuV vd rs1 vm => Enc.vlhuV vd rs1 vm
  | .vlwuV vd rs1 vm => Enc.vlwuV vd rs1 vm
  | .vleV vd rs1 vm => Enc.vleV vd rs1 vm
  | .vsbV vs3 rs1 vm => Enc.vsbV vs3 rs1 vm
  | .vshV vs3 rs1 vm => Enc.vshV vs3 rs1 vm
  | .vswV vs3 rs1 vm => Enc.vswV vs3 rs1 vm
  | .vseV vs3 rs1 vm => Enc.vseV vs3 rs1 vm
  | .vlsbV vd rs1 rs2 vm => Enc.vlsbV vd rs1 rs2 vm
  | .vlshV vd rs1 rs2 vm => Enc.vlshV vd rs1 rs2 vm
  | .vlswV vd rs1 rs2 vm => Enc.vlswV vd rs1 rs2 vm
  | .vlsbuV vd rs1 rs2 vm => Enc.vlsbuV vd rs1 rs2 vm
  | .vlshuV vd rs1 rs2 vm => Enc.vlshuV vd rs1 rs2 vm
  | .vlswuV vd rs1 rs2 vm => Enc.vlswuV vd rs1 rs2 vm
  | .vlseV vd rs1 rs2 vm => Enc.vlseV vd rs1 rs2 vm
  | .vssbV vs3 rs1 rs2 vm => Enc.vssbV vs3 rs1 rs2 vm
  | .vsshV vs3 rs1 rs2 vm => Enc.vsshV vs3 rs1 rs2 vm
  | .vsswV vs3 rs1 rs2 vm => Enc.vsswV vs3 rs1 rs2 vm
  | .vsseV vs3 rs1 rs2 vm => Enc.vsseV vs3 rs1 rs2 vm
  | .vlxbV vd rs1 vs2 vm => Enc.vlxbV vd rs1 vs2 vm
  | .vlxhV vd rs1 vs2 vm => Enc.vlxhV vd rs1 vs2 vm
  | .vlxwV vd rs1 vs2 vm => Enc.vlxwV vd rs1 vs2 vm
  | .vlxbuV vd rs1 vs2 vm => Enc.vlxbuV vd rs1 vs2 vm
  | .vlxhuV vd rs1 vs2 vm => Enc.vlxhuV vd rs1 vs2 vm
  | .vlxwuV vd rs1 vs2 vm => Enc.vlxwuV vd rs1 vs2 vm
  | .vlxeV vd rs1 vs2 vm => Enc.vlxeV vd rs1 vs2 vm
  | .vsxbV vs3 rs1 vs2 vm => Enc.vsxbV vs3 rs1 vs2 vm
  | .vsxhV vs3 rs1 vs2 vm => Enc.vsxhV vs3 rs1 vs2 vm
  | .vsxwV vs3 rs1 vs2 vm => Enc.vsxwV vs3 rs1 vs2 vm
  | .vsxeV vs3 rs1 vs2 vm => Enc.vsxeV vs3 rs1 vs2 vm
  | .vaddVv vd vs2 vs1 vm => Enc.vaddVv vd vs2 vs1 vm
  | .vaddVx vd vs2 rs1 vm => Enc.vaddVx vd vs2 rs1 vm
  | .vaddVi vd vs2 simm5 vm => Enc.vaddVi vd vs2 simm5 vm
  | .vsubVv vd vs2 vs1 vm => Enc.vsubVv vd vs2 vs1 vm
  | .vsubVx vd vs2 rs1 vm => Enc.vsubVx vd vs2 rs1 vm
  | .vrsubVx vd vs2 rs1 vm => Enc.vrsubVx vd vs2 rs1 vm
  | .vrsubVi vd vs2 simm5 vm => Enc.vrsubVi vd vs2 simm5 vm
  | .vandVv vd vs2 vs1 vm => Enc.vandVv vd vs2 vs1 vm
  | .vandVx vd vs2 rs1 vm => Enc.vandVx vd vs2 rs1 vm
  | .vandVi vd vs2 simm5 vm => Enc.vandVi vd vs2 simm5 vm
  | .vorVv vd vs2 vs1 vm => Enc.vorVv vd vs2 vs1 vm
  | .vorVx vd vs2 rs1 vm => Enc.vorVx vd vs2 rs1 vm
  | .vorVi vd vs2 simm5 vm => Enc.vorVi vd vs2 simm5 vm
  | .vxorVv vd vs2 vs1 vm => Enc.vxorVv vd vs2 vs1 vm
  | .vxorVx vd vs2 rs1 vm => Enc.vxorVx vd vs2 rs1 vm
  | .vxorVi vd vs2 simm5 vm => Enc.vxorVi vd vs2 simm5 vm
  | .vsllVv vd vs2 vs1 vm => Enc.vsllVv vd vs2 vs1 vm
  | .vsllVx vd vs2 rs1 vm => Enc.vsllVx vd vs2 rs1 vm
  | .vsllVi vd vs2 simm5 vm => Enc.vsllVi vd vs2 simm5 vm
  | .vsrlVv vd vs2 vs1 vm => Enc.vsrlVv vd vs2 vs1 vm
  | .vsrlVx vd vs2 rs1 vm => Enc.vsrlVx vd vs2 rs1 vm
  | .vsrlVi vd vs2 simm5 vm => Enc.vsrlVi vd vs2 simm5 vm
  | .vsraVv vd vs2 vs1 vm => Enc.vsraVv vd vs2 vs1 vm
  | .vsraVx vd vs2 rs1 vm => Enc.vsraVx vd vs2 rs1 vm
  | .vsraVi vd vs2 simm5 vm => Enc.vsraVi vd vs2 simm5 vm
  | .vmseqVv vd vs2 vs1 vm => Enc.vmseqVv vd vs2 vs1 vm
  | .vmseqVx vd vs2 rs1 vm => Enc.vmseqVx vd vs2 rs1 vm
  | .vmseqVi vd vs2 simm5 vm => Enc.vmseqVi vd vs2 simm5 vm
  | .vmsneVv vd vs2 vs1 vm => Enc.vmsneVv vd vs2 vs1 vm
  | .vmsneVx vd vs2 rs1 vm => Enc.vmsneVx vd vs2 rs1 vm
  | .vmsneVi vd vs2 simm5 vm => Enc.vmsneVi vd vs2 simm5 vm
  | .vmsltuVv vd vs2 vs1 vm => Enc.vmsltuVv vd vs2 vs1 vm
  | .vmsltuVx vd vs2 rs1 vm => Enc.vmsltuVx vd vs2 rs1 vm
  | .vmsltVv vd vs2 vs1 vm => Enc.vmsltVv vd vs2 vs1 vm
  | .vmsltVx vd vs2 rs1 vm => Enc.vmsltVx vd vs2 rs1 vm
  | .vmsleuVv vd vs2 vs1 vm => Enc.vmsleuVv vd vs2 vs1 vm
  | .vmsleuVx vd vs2 rs1 vm => Enc.vmsleuVx vd vs2 rs1 vm
  | .vmsleuVi vd vs2 simm5 vm => Enc.vmsleuVi vd vs2 simm5 vm
  | .vmsleVv vd vs2 vs1 vm => Enc.vmsleVv vd vs2 vs1 vm
  | .vmsleVx vd vs2 rs1 vm => Enc.vmsleVx vd vs2 rs1 vm
  | .vmsleVi vd vs2 simm5 vm => Enc.vmsleVi vd vs2 simm5 vm
  | .vmsgtuVx vd vs2 rs1 vm => Enc.vmsgtuVx vd vs2 rs1 vm
  | .vmsgtuVi vd vs2 simm5 vm => Enc.vmsgtuVi vd vs2 simm5 vm
  | .vmsgtVx vd vs2 rs1 vm => Enc.vmsgtVx vd vs2 rs1 vm
  | .vmsgtVi vd vs2 simm5 vm => Enc.vmsgtVi vd vs2 simm5 vm
  | .vminuVv vd vs2 vs1 vm => Enc.vminuVv vd vs2 vs1 vm
  | .vminuVx vd vs2 rs1 vm => Enc.vminuVx vd vs2 rs1 vm
  | .vminVv vd vs2 vs1 vm => Enc.vminVv vd vs2 vs1 vm
  | .vminVx vd vs2 rs1 vm => Enc.vminVx vd vs2 rs1 vm
  | .vmaxuVv vd vs2 vs1 vm => Enc.vmaxuVv vd vs2 vs1 vm
  | .vmaxuVx vd vs2 rs1 vm => Enc.vmaxuVx vd vs2 rs1 vm
  | .vmaxVv vd vs2 vs1 vm => Enc.vmaxVv vd vs2 vs1 vm
  | .vmaxVx vd vs2 rs1 vm => Enc.vmaxVx vd vs2 rs1 vm
  | .vmulVv vd vs2 vs1 vm => Enc.vmulVv vd vs2 vs1 vm
  | .vmulVx vd vs2 rs1 vm => Enc.vmulVx vd vs2 rs1 vm
  | .vmulhVv vd vs2 vs1 vm => Enc.vmulhVv vd vs2 vs1 vm
  | .vmulhVx vd vs2 rs1 vm => Enc.vmulhVx vd vs2 rs1 vm
  | .vmulhuVv vd vs2 vs1 vm => Enc.vmulhuVv vd vs2 vs1 vm
  | .vmulhuVx vd vs2 rs1 vm => Enc.vmulhuVx vd vs2 rs1 vm
  | .vmulhsuVv vd vs2 vs1 vm => Enc.vmulhsuVv vd vs2 vs1 vm
  | .vmulhsuVx vd vs2 rs1 vm => Enc.vmulhsuVx vd vs2 rs1 vm
  | .vmaccVv vd vs2 vs1 vm => Enc.vmaccVv vd vs2 vs1 vm
  | .vmaccVx vd vs2 rs1 vm => Enc.vmaccVx vd vs2 rs1 vm
  | .vnmsacVv vd vs2 vs1 vm => Enc.vnmsacVv vd vs2 vs1 vm
  | .vnmsacVx vd vs2 rs1 vm => Enc.vnmsacVx vd vs2 rs1 vm
  | .vmaddVv vd vs2 vs1 vm => Enc.vmaddVv vd vs2 vs1 vm
  | .vmaddVx vd vs2 rs1 vm => Enc.vmaddVx vd vs2 rs1 vm
  | .vnmsubVv vd vs2 vs1 vm => Enc.vnmsubVv vd vs2 vs1 vm
  | .vnmsubVx vd vs2 rs1 vm => Enc.vnmsubVx vd vs2 rs1 vm

/-- How many bytes the instruction takes (R41). -/
def Instr.ilen (i : Instr) : Nat := (encode i).bytes

/-! ## The host's question: one row of the opcode table -/

/-- The code in memory whose bytes are those of w, first byte lowest (R102, R141): a halfword unless its low two bits
are 11. -/
def codeOfNat (w : Nat) : Code :=
  if w % 4 = 3 then .word (BitVec.ofNat 32 w) else .half (BitVec.ofNat 16 w)

/-- The instruction the decoder reads from the bits w: that of the default RV64 configuration, or, where it has none,
that of the default RV32 one, since five rows of the table exist only when XLEN = 32 (R184; log 14). Every row
gives all its bits, so nbits changes nothing. -/
noncomputable def decodeTableWord (_nbits w : Nat) : Option Instr :=
  (decode Config.rv64Default (codeOfNat w)).or (decode Config.rv32Default (codeOfNat w))

end Sys2Proof
end

