-- ==== Sys2Proof/Machine/State.lean ====
section
/-! DEFINITION. The state of the machine as plain data: every piece of architectural state of 10_state.md and
60_exceptions.md, the inputs the platform supplies (R722, R741, R777), and a few fields of the model's own, each said
to be so. The state after reset is R762's; where R762 says "unspecified" the value is a DESIGN CHOICE (log 3 and 4). -/

namespace Sys2Proof.Machine

/-- The privilege modes (R735). -/
inductive Priv where
  | u
  | s
  | m
deriving DecidableEq, Repr

/-- The fields of mstatus that have storage (R53); the others are hardwired or computed when it is read. -/
structure Status where
  sie  : Bool
  mie  : Bool
  spie : Bool
  mpie : Bool
  /-- privilege before the last trap into S: true for S, false for U -/
  spp  : Bool
  mpp  : Priv
  fs   : BitVec 2
  mprv : Bool
  sum  : Bool
  mxr  : Bool
  tvm  : Bool
  tw   : Bool
  tsr  : Bool
deriving DecidableEq, Repr

/-- The levels of the interrupt lines, EXT_IRQ (R722). -/
structure Lines where
  meip : Bool
  mtip : Bool
  msip : Bool
  seip : Bool
deriving DecidableEq, Repr

/-- What the platform supplies at one step (R722, R741, R777): the line levels, how far TIME_SOURCE has advanced, and
the failure input of sc.d (R463). -/
structure Sample where
  lines    : Lines
  timeStep : BitVec 64
  scFail   : Bool
deriving DecidableEq, Repr

/-- An access handed to a device of an `io` region (R111): its byte address, its width in bytes, and for a write the
value. -/
inductive IoEvent where
  | read (addr bytes : Nat)
  | write (addr bytes : Nat) (value : BitVec 64)
deriving DecidableEq, Repr

/-- The hart, of the widths its configuration fixes. -/
structure Hart (c : Config) where
  /-- x0 to x31 (R30); slot 0 is never written and reads go through `getX`, which answers 0 for it (R31) -/
  x : Vector (BitVec c.xlen) 32
  /-- f0 to f31 (R35) -/
  f : Vector (BitVec c.flen) 32
  /-- v0 to v31 (R82) -/
  v : Vector (BitVec c.vlen) 32
  /-- the address of the instruction being executed (R39) -/
  pc : BitVec c.xlen
  /-- the current mode (R97 a, R735) -/
  priv : Priv
  /-- mstatus, and sstatus, its view (R53, R54) -/
  mstatus : Status
  /-- NV DZ OF UF NX, bit 4 to bit 0 (R50) -/
  fflags : BitVec 5
  /-- the dynamic rounding mode (R51) -/
  frm : BitVec 3
  mtvec : BitVec c.xlen
  stvec : BitVec c.xlen
  mscratch : BitVec c.xlen
  sscratch : BitVec c.xlen
  mepc : BitVec c.xlen
  sepc : BitVec c.xlen
  mcause : BitVec c.xlen
  scause : BitVec c.xlen
  mtval : BitVec c.xlen
  stval : BitVec c.xlen
  medeleg : BitVec c.xlen
  mideleg : BitVec c.xlen
  /-- interrupt enables; sie is a view of it (R57) -/
  mie : BitVec c.xlen
  /-- mip.SSIP (R57) -/
  ssip : Bool
  /-- mip.STIP (R57) -/
  stip : Bool
  /-- the software-written bit of mip.SEIP (R57) -/
  seip : Bool
  mcounteren : BitVec 32
  scounteren : BitVec 32
  mcycle : BitVec 64
  minstret : BitVec 64
  vstart : BitVec c.xlen
  vl : BitVec c.xlen
  vtype : BitVec c.xlen
  vxsat : BitVec 1
  vxrm : BitVec 2
  /-- the address the last lr.d registered (R96) -/
  reservation : Option (BitVec c.xlen)
  /-- stalled in wfi (R97 c, R745) -/
  waiting : Bool
  /-- stale_code: the byte addresses stored to since the last fence.i, strictly rising (R97 d, R131) -/
  stale : List Nat
  /-- memory: the bytes that differ from what an unlisted address reads as, by strictly rising address (R95, R100) -/
  mem : List Host.Cell
  /-- EXT_IRQ as last sampled (R722): an input -/
  lines : Lines
  /-- TIME_SOURCE as last sampled (R741): an input -/
  time : BitVec 64
  /-- the failure input of sc.d as last sampled (R463): an input -/
  scFail : Bool
  /-- the samples still to come, one for each step; when none is left the inputs keep their value (log 6) -/
  samples : List Sample
  /-- the model's own: the accesses handed to devices so far, oldest first (R111; log 10) -/
  ioOut : List IoEvent
  /-- the model's own: the counter that the free values are applied to (log 20) -/
  draws : Nat
  /-- the model's own: mtvec has been written since reset (R764; log 11) -/
  mtvecSet : Bool
  /-- the model's own: stvec has been written since reset (R764; log 11) -/
  stvecSet : Bool
  /-- the model's own: mepc has been written since reset, by software or by a trap (R764; log 11) -/
  mepcSet : Bool
  /-- the model's own: sepc has been written since reset, by software or by a trap (R764; log 11) -/
  sepcSet : Bool
  /-- the model's own: pc came through an mtvec, stvec, mepc or sepc that nothing had written (R764; log 11) -/
  pcUnspecified : Bool
deriving DecidableEq, Repr

/-- The machine: its configuration and its hart. -/
structure State where
  cfg  : Config
  hart : Hart cfg
deriving DecidableEq, Repr

/-- There is no fault: the spec names no condition in which this hardware stops. Every exception is taken (R710), and
waiting for ever (R745) and an endless sequence of traps (R712) are ordinary states. -/
inductive Fault where
deriving DecidableEq, Repr

/-- Why a step is refused. -/
inductive Refusal where
  /-- Raised by an arm of `exec` whose instruction has no meaning yet; no arm is left so. Safe. -/
  | notModelled (mnemonic : String)
  /-- Raised by `step` before anything else, when pc came through an mtvec, stvec, mepc or sepc that nothing has
  written since reset: the spec refuses it (R764, U1). Safe: nothing is claimed of what would execute. -/
  | jumpThroughUnwrittenRegister
  /-- Raised by `step` when the instruction fetch reads a byte stored to since the last fence.i: the spec refuses it
  (R131, U12). Safe: neither the old nor the new byte is assumed. -/
  | staleFetch
deriving DecidableEq, Repr

/-- mstatus after reset (R53, R762): MPP = M, every other field 0. -/
def Status.reset : Status where
  sie := false
  mie := false
  spie := false
  mpie := false
  spp := false
  mpp := .m
  fs := 0
  mprv := false
  sum := false
  mxr := false
  tvm := false
  tw := false
  tsr := false

/-- No interrupt line is raised: the default of EXT_IRQ (R722). -/
def Lines.low : Lines where
  meip := false
  mtip := false
  msip := false
  seip := false

/-- The hart after reset, in any configuration (R762). What R762 leaves unspecified is 0: x1 to x31, f0 to f31 and v0
to v31 (DESIGN CHOICE, log 3, unsafe), mtvec, stvec, mscratch, sscratch, mepc, sepc, scause, mtval, stval, mcycle and
minstret (DESIGN CHOICE, log 4, unsafe). The inputs are low and 0 (log 6) and no memory byte is listed (log 5). -/
def Hart.reset (c : Config) : Hart c where
  x := Vector.replicate 32 0
  f := Vector.replicate 32 0
  v := Vector.replicate 32 0
  pc := c.resetPc.setWidth c.xlen
  priv := .m
  mstatus := Status.reset
  fflags := 0
  frm := 0
  mtvec := 0
  stvec := 0
  mscratch := 0
  sscratch := 0
  mepc := 0
  sepc := 0
  mcause := 0
  scause := 0
  mtval := 0
  stval := 0
  medeleg := 0
  mideleg := 0
  mie := 0
  ssip := false
  stip := false
  seip := false
  mcounteren := 0
  scounteren := 0
  mcycle := 0
  minstret := 0
  vstart := 0
  vl := 0
  vtype := BitVec.twoPow c.xlen (c.xlen - 1)
  vxsat := 0
  vxrm := 0
  reservation := none
  waiting := false
  stale := []
  mem := []
  lines := Lines.low
  time := 0
  scFail := false
  samples := []
  ioOut := []
  draws := 0
  mtvecSet := false
  stvecSet := false
  mepcSet := false
  sepcSet := false
  pcUnspecified := false

/-- The machine of a given configuration right after reset (R762). -/
def State.resetOf (c : Config) : State := ⟨c, Hart.reset c⟩

/-- The machine right after reset (R762), of the profile RV64 at the spec's defaults (DESIGN CHOICE, log 1). -/
def State.reset : State := State.resetOf Config.rv64Default

end Sys2Proof.Machine
end

