-- ==== Sys2Proof/Machine/Ops.lean ====
section
/-! DEFINITION. The named operations over registers, memory and traps, and how an instruction ends (`Res`, `State.run`).
Every meaning is written over these. -/

namespace Sys2Proof.Machine

open Sys2Proof

variable {c : Config}

/-! ## Registers -/

/-- `x[r]`: x0 reads as zero (R31). -/
def Hart.getX (h : Hart c) (r : BitVec 5) : BitVec c.xlen :=
  if r = 0 then 0 else h.x[r.toNat]'(r.isLt)

/-- `x[r] <- v`: a write to x0 is discarded (R31). -/
def Hart.setX (h : Hart c) (r : BitVec 5) (v : BitVec c.xlen) : Hart c :=
  if r = 0 then h else { h with x := h.x.set r.toNat v (r.isLt) }

/-- `f[r]`, all FLEN bits (R36). -/
def Hart.getF (h : Hart c) (r : BitVec 5) : BitVec c.flen := h.f[r.toNat]'(r.isLt)

/-- `f[r] <- v`: a write of an f register sets mstatus.FS to Dirty (R36, R53). -/
def Hart.setF (h : Hart c) (r : BitVec 5) (v : BitVec c.flen) : Hart c :=
  { h with f := h.f.set r.toNat v (r.isLt), mstatus := { h.mstatus with fs := 3 } }

/-- `v[n]`, all VLEN bits (R82). -/
def Hart.getV (h : Hart c) (n : Nat) : BitVec c.vlen := (h.v[n]?).getD 0

/-- `v[n] <- e` (R82). -/
def Hart.setV (h : Hart c) (n : Nat) (e : BitVec c.vlen) : Hart c :=
  { h with v := h.v.setIfInBounds n e }

/-! ## Privilege -/

/-- The encoding of a mode: U 0, S 1, M 3 (R735). -/
def Priv.level : Priv → Nat
  | .u => 0
  | .s => 1
  | .m => 3

/-- The modes that exist (R735). -/
def Priv.present (c : Config) : Priv → Bool
  | .u => c.hasU
  | .s => c.hasS
  | .m => true

/-! ## Exceptions and interrupts -/

/-- The exceptions this hardware raises (R701); InstructionAddressMisaligned never occurs (R705), nor do page faults
(R122). -/
inductive Exc where
  | instructionAccessFault
  | illegalInstruction
  | breakpoint
  | loadAddressMisaligned
  | loadAccessFault
  | storeAddressMisaligned
  | storeAccessFault
  | ecallFromU
  | ecallFromS
  | ecallFromM
deriving DecidableEq, Repr

/-- The cause code (R701). -/
def Exc.code : Exc → Nat
  | .instructionAccessFault => 1
  | .illegalInstruction => 2
  | .breakpoint => 3
  | .loadAddressMisaligned => 4
  | .loadAccessFault => 5
  | .storeAddressMisaligned => 6
  | .storeAccessFault => 7
  | .ecallFromU => 8
  | .ecallFromS => 9
  | .ecallFromM => 11

/-- A word of n bits with bit i set when b holds, every other bit 0. -/
def bitIf (n : Nat) (b : Bool) (i : Nat) : BitVec n := if b then BitVec.twoPow n i else 0

/-- What mcause or scause receives: the Interrupt bit in bit XLEN-1 and the code in the low bits (R60, R710). -/
def causeWord (c : Config) (intr : Bool) (code : Nat) : BitVec c.xlen :=
  bitIf c.xlen intr (c.xlen - 1) ||| BitVec.ofNat c.xlen code

/-- `vector(tvec, intr, c)` (R711). -/
def vector {n : Nat} (tvec : BitVec n) (intr : Bool) (code : Nat) : BitVec n :=
  let base := (tvec >>> 2) <<< 2
  if intr && tvec &&& 3 == 1 then base + BitVec.ofNat n (4 * code) else base

/-- Whether the trap goes to S-mode: HAS_S, not from M, and its delegation bit set (R710 step 1). DEDUCED: medeleg bit 1
delegates InstructionAccessFault as every other bit does its cause; R56 calls that bit storage (log 24). -/
def Hart.delegated (h : Hart c) (intr : Bool) (code : Nat) : Bool :=
  c.hasS && h.priv != .m && (if intr then h.mideleg else h.medeleg).getLsbD code

/-- Trap entry into M-mode (R710 steps 2 and 3). The last two fields are the model's own record for R764 (log 11). -/
def Hart.trapToM (h : Hart c) (intr : Bool) (code : Nat) (tval : BitVec c.xlen) : Hart c :=
  { h with
    mepc := h.pc
    mcause := causeWord c intr code
    mtval := tval
    mstatus := { h.mstatus with mpie := h.mstatus.mie, mie := false, mpp := h.priv }
    priv := .m
    pc := vector h.mtvec intr code
    reservation := none
    waiting := false
    mepcSet := true
    pcUnspecified := !h.mtvecSet }

/-- Trap entry into S-mode (R710 steps 2 and 3). The last two fields are the model's own record for R764 (log 11). -/
def Hart.trapToS (h : Hart c) (intr : Bool) (code : Nat) (tval : BitVec c.xlen) : Hart c :=
  { h with
    sepc := h.pc
    scause := causeWord c intr code
    stval := tval
    mstatus := { h.mstatus with spie := h.mstatus.sie, sie := false, spp := h.priv == .s }
    priv := .s
    pc := vector h.stvec intr code
    reservation := none
    waiting := false
    sepcSet := true
    pcUnspecified := !h.stvecSet }

/-- Taking a trap: the one operation every exception and every interrupt goes through (R710). -/
def Hart.trap (h : Hart c) (intr : Bool) (code : Nat) (tval : BitVec c.xlen) : Hart c :=
  if h.delegated intr code then h.trapToS intr code tval else h.trapToM intr code tval

/-- Return from an M-mode trap (R332, R713), but for pc, which goes to mepc. -/
def Hart.mretState (h : Hart c) : Hart c :=
  { h with
    priv := h.mstatus.mpp
    mstatus := { h.mstatus with
      mie := h.mstatus.mpie
      mpie := true
      mpp := if c.hasU then .u else .m
      mprv := if h.mstatus.mpp = .m then h.mstatus.mprv else false }
    reservation := none
    pcUnspecified := !h.mepcSet }

/-- Return from an S-mode trap (R333, R713), but for pc, which goes to sepc. -/
def Hart.sretState (h : Hart c) : Hart c :=
  { h with
    priv := if h.mstatus.spp then .s else .u
    mstatus := { h.mstatus with
      sie := h.mstatus.spie
      spie := true
      spp := false
      mprv := false }
    reservation := none
    pcUnspecified := !h.sepcSet }

/-- The value mip reads: MSIP, MTIP and MEIP follow the input lines, SEIP is the OR of its software bit and its line
(R57, R721). Without S-mode only 3, 7 and 11 exist (R720). -/
def Hart.mip (h : Hart c) : BitVec c.xlen :=
  bitIf c.xlen (c.hasS && h.ssip) 1 ||| bitIf c.xlen h.lines.msip 3 ||| bitIf c.xlen (c.hasS && h.stip) 5 |||
  bitIf c.xlen h.lines.mtip 7 ||| bitIf c.xlen (c.hasS && (h.seip || h.lines.seip)) 9 ||| bitIf c.xlen h.lines.meip 11

/-- The interrupts that are pending and enabled in mie (R723). -/
def Hart.pend (h : Hart c) : BitVec c.xlen := h.mip &&& h.mie

/-- The interrupt codes, highest priority first (R724). -/
def interruptOrder : List Nat := [11, 3, 7, 9, 1, 5]

/-- M-mode interrupts are globally enabled below M, and in M when mstatus.MIE is set (R723). -/
def Hart.mEnabled (h : Hart c) : Bool := h.priv != .m || h.mstatus.mie

/-- S-mode interrupts are globally enabled in U, and in S when mstatus.SIE is set (R723). -/
def Hart.sEnabled (h : Hart c) : Bool := h.priv == .u || (h.priv == .s && h.mstatus.sie)

/-- The interrupt R723 and R724 select now, if any. -/
def Hart.interrupt (h : Hart c) : Option Nat :=
  let forM := if h.mEnabled then interruptOrder.find? (h.pend &&& ~~~h.mideleg).getLsbD else none
  match forM with
  | some code => some code
  | none =>
    if c.hasS && h.sEnabled then interruptOrder.find? (h.pend &&& h.mideleg).getLsbD else none

/-! ## Memory -/

/-- What a byte that nothing has written reads as. DESIGN CHOICE (log 5), unsafe: R120 leaves it arbitrary. -/
def Memory.absent : Byte := 0

/-- The byte at an address. -/
def Memory.read : List Host.Cell → Nat → Byte
  | [], _ => Memory.absent
  | (k, b) :: rest, a => if k = a then b else Memory.read rest a

/-- A cell in front of a memory, unless it holds what an unlisted address reads as. -/
def Memory.cons (a : Nat) (b : Byte) (rest : List Host.Cell) : List Host.Cell :=
  if b = Memory.absent then rest else (a, b) :: rest

/-- The memory with one byte written, in canonical form again. -/
def Memory.write : List Host.Cell → Nat → Byte → List Host.Cell
  | [], a, b => Memory.cons a b []
  | (k, v) :: rest, a, b =>
    if a < k then Memory.cons a b ((k, v) :: rest)
    else if a = k then Memory.cons a b rest
    else (k, v) :: Memory.write rest a b

/-- The canonical form: addresses strictly rising, and no cell that holds what an unlisted address reads as. -/
def Memory.wf (m : List Host.Cell) : Bool :=
  decide (m.Pairwise fun p q => p.1 < q.1) && m.all fun p => p.2 != Memory.absent

/-- One more address in a strictly rising list of addresses. -/
def addrInsert : List Nat → Nat → List Nat
  | [], a => [a]
  | k :: rest, a => if a < k then a :: k :: rest else if a = k then k :: rest else k :: addrInsert rest a

/-- The address of byte i of an access at a, modulo 2^XLEN (R100). -/
def byteAddr {n : Nat} (a : BitVec n) (i : Nat) : Nat := (a + BitVec.ofNat n i).toNat

/-- The little-endian value of n bytes, n at most 8 (R101). -/
def leValue (get : Nat → Byte) : Nat → BitVec 64
  | 0 => 0
  | n + 1 => leValue get n ||| (get n).setWidth 64 <<< (8 * n)

/-- Byte i of a value (R101). -/
def leByte (v : BitVec 64) (i : Nat) : Byte := v.extractLsb' (8 * i) 8

/-- The memory with the n bytes of v stored at a (R101). -/
def Memory.store {x : Nat} (m : List Host.Cell) (a : BitVec x) (v : BitVec 64) : Nat → List Host.Cell
  | 0 => m
  | n + 1 => Memory.write (Memory.store m a v n) (byteAddr a n) (leByte v n)

/-- The addresses with the n bytes at a added (R131). -/
def staleStore {x : Nat} (l : List Nat) (a : BitVec x) : Nat → List Nat
  | 0 => l
  | n + 1 => addrInsert (staleStore l a n) (byteAddr a n)

/-- The kinds of access the checks of R104, R110 and R119 tell apart. -/
inductive Access where
  | fetch
  | load
  | store
  | amo
  | lr
  | sc
deriving DecidableEq, Repr

/-- The permissions of a region allow the access (R106, R110, R119). -/
def Region.allows (r : Region) : Access → Bool
  | .fetch => r.exec
  | .load => r.read
  | .store => r.write
  | .amo => r.read && r.write && r.atomic
  | .lr => r.read && r.atomic
  | .sc => r.write && r.atomic

/-- The region of PMA that holds an address; none where the address is vacant (R118). -/
def regionAt (c : Config) (a : Nat) : Option Region := c.pma.find? (·.holds a)

/-- The byte lies in a region that allows the access (R118, R119). -/
def byteAllowed (c : Config) (k : Access) (a : Nat) : Bool :=
  match regionAt c a with
  | none => false
  | some r => Region.allows r k

/-- The byte lies in a region of kind io (R111). -/
def byteIsIo (c : Config) (a : Nat) : Bool :=
  match regionAt c a with
  | none => false
  | some r => r.kind == .io

/-- Every one of the n bytes at a allows the access (R106 step 2). -/
def allAllowed (c : Config) (k : Access) (a : BitVec c.xlen) (n : Nat) : Bool :=
  (List.range n).all fun i => byteAllowed c k (byteAddr a i)

/-- The access is handed to a device: some byte of it lies in an io region (R111, log 10). -/
def touchesIo (c : Config) (a : BitVec c.xlen) (n : Nat) : Bool :=
  (List.range n).any fun i => byteIsIo c (byteAddr a i)

/-- The misalignment exception of an access (R104). -/
def Access.misaligned : Access → Exc
  | .load | .lr | .fetch => .loadAddressMisaligned
  | .store | .amo | .sc => .storeAddressMisaligned

/-- The access fault of an access (R106, R110, R119). -/
def Access.accessFault : Access → Exc
  | .fetch => .instructionAccessFault
  | .load | .lr => .loadAccessFault
  | .store | .amo | .sc => .storeAccessFault

/-- The checks of a data access of n bytes at a, in order: alignment, then PMA (R104, R106, R704). -/
def accessCheck (c : Config) (k : Access) (a : BitVec c.xlen) (n : Nat) : Option Exc :=
  if a.toNat % n ≠ 0 then some k.misaligned
  else if allAllowed c k a n then none
  else some k.accessFault

/-- The value a read of n bytes at a answers: memory, or free bytes from a device (R101, R111; log 10). -/
def Hart.readValue (h : Hart c) (a : BitVec c.xlen) (n : Nat) : BitVec 64 :=
  if touchesIo c a n then leValue (fun i => Config.ioByte h.draws (byteAddr a i)) n
  else leValue (fun i => Memory.read h.mem (byteAddr a i)) n

/-- The hart after a read of n bytes at a: only a device read leaves a trace (R111; log 10). -/
def Hart.afterRead (h : Hart c) (a : BitVec c.xlen) (n : Nat) : Hart c :=
  if touchesIo c a n then { h with ioOut := h.ioOut ++ [.read a.toNat n], draws := h.draws + 1 } else h

/-- `MemWrite(a, n, v)` after its checks: the bytes go to memory or to the device (R101, R111), and their addresses to
stale_code (R106, R131). -/
def Hart.writeMem (h : Hart c) (a : BitVec c.xlen) (n : Nat) (v : BitVec 64) : Hart c :=
  if touchesIo c a n then
    { h with ioOut := h.ioOut ++ [.write a.toNat n (v &&& (BitVec.allOnes 64 >>> (64 - 8 * n)))],
             stale := staleStore h.stale a n }
  else { h with mem := Memory.store h.mem a v n, stale := staleStore h.stale a n }

/-! ## How an instruction ends -/

/-- What an instruction does (R41, R64, R704, R706). -/
inductive Res (c : Config) where
  /-- it completes; pc moves past it -/
  | next (h : Hart c)
  /-- it completes and assigns pc -/
  | jump (h : Hart c) (target : BitVec c.xlen)
  /-- it completes and has written mcycle or minstret, whose own advance it suppresses where the flag is true (R64) -/
  | wrote (h : Hart c) (cycle instret : Bool)
  /-- it raises an exception with this trap value; the hart is the one it started with, but for the elements a vector
  access has transferred and vstart (R706) -/
  | trap (h : Hart c) (e : Exc) (tval : BitVec c.xlen)
  /-- it raises IllegalInstruction, whose trap value is the instruction bits (R703) -/
  | illegal

/-- mcycle after an advance by n. It never decreases (R740, U10), so an advance stops at its greatest value (log 7). -/
def cyclesAfter (old : BitVec 64) (n : Nat) : BitVec 64 := BitVec.ofNat 64 (min (old.toNat + n) (2 ^ 64 - 1))

/-- mcycle advances by at least k, and by how much more is free (R64, R740; log 7). -/
def Hart.tick (h : Hart c) (k : Nat) : Hart c :=
  { h with mcycle := cyclesAfter h.mcycle (k + Config.cycles h.draws), draws := h.draws + 1 }

/-- The instruction retires: minstret counts it and mcycle advances (R64). -/
def Hart.retire (h : Hart c) : Hart c := ({ h with minstret := h.minstret + 1 }).tick 1

/-- Taking an exception; the instruction does not retire (R64, R706, R710). -/
def Hart.raise (h : Hart c) (e : Exc) (tval : BitVec c.xlen) : Hart c := (h.trap false e.code tval).tick 0

/-- The hart after an instruction with these bits that ended so. -/
def Hart.finish (h : Hart c) (code : Code) : Res c → Hart c
  | .next h' => ({ h' with pc := h'.pc + BitVec.ofNat c.xlen code.bytes }).retire
  | .jump h' target => ({ h' with pc := target }).retire
  | .wrote h' cycle instret =>
    ({ h' with pc := h'.pc + BitVec.ofNat c.xlen code.bytes,
               minstret := if instret then h'.minstret else h'.minstret + 1 }).tick (if cycle then 0 else 1)
  | .trap h' e tval => h'.raise e tval
  | .illegal => h.raise .illegalInstruction (BitVec.ofNat c.xlen code.toNat)

/-- The machine with another hart of the same configuration. -/
def State.withHart (s : State) (h : Hart s.cfg) : State := { cfg := s.cfg, hart := h }

/-- The machine after an instruction with these bits that ended so. Every meaning is one call of this. -/
def State.run (s : State) (code : Code) (r : Res s.cfg) : Host.Outcome State Fault Refusal :=
  .next (s.withHart (s.hart.finish code r))

/-! ## Accesses as instructions make them -/

/-- A read of n bytes at a with its checks, and what the instruction does with the value (R106). -/
def Hart.withLoad (h : Hart c) (k : Access) (a : BitVec c.xlen) (n : Nat) (use : Hart c → BitVec 64 → Res c) : Res c :=
  match accessCheck c k a n with
  | some e => .trap h e a
  | none => use (h.afterRead a n) (h.readValue a n)

/-- A write of n bytes at a with its checks, and what the instruction does after it (R106). -/
def Hart.withStore (h : Hart c) (k : Access) (a : BitVec c.xlen) (n : Nat) (v : BitVec 64) (use : Hart c → Res c) :
    Res c :=
  match accessCheck c k a n with
  | some e => .trap h e a
  | none => use (h.writeMem a n v)

/-- The event that a later reset is (R762): the hart is as after reset, and what is the platform's survives, memory and
the inputs. No step takes it (log 15). -/
def State.resetEvent (s : State) : State :=
  { cfg := s.cfg
    hart := { Hart.reset s.cfg with
      mem := s.hart.mem
      lines := s.hart.lines
      time := s.hart.time
      scFail := s.hart.scFail
      samples := s.hart.samples
      ioOut := s.hart.ioOut
      draws := s.hart.draws } }

/-- The step's first act: sample the inputs, EXT_IRQ, TIME_SOURCE and the sc.d failure input (R722, R725, R741, R463).
When no sample is left they keep their value (log 6). -/
def Hart.sample (h : Hart c) : Hart c :=
  match h.samples with
  | [] => h
  | p :: rest => { h with lines := p.lines, time := h.time + p.timeStep, scFail := p.scFail, samples := rest }

end Sys2Proof.Machine
end

