-- ==== Sys2Proof/Machine/Operands.lean ====
section
/-! DEFINITION. The operand forms: how register fields, immediates, shift amounts, addresses, boxed singles and vector
elements are read and written (R32, R86 to R91, R107, R144 to R166, R183, R403, R404, R601, R602, R621). -/

namespace Sys2Proof.Machine

open Sys2Proof

variable {c : Config}

/-! ## Scalar operands -/

/-- The register a 3-bit compressed field names: x8 to x15 or f8 to f15 (R158, R183). -/
def creg (r : BitVec 3) : BitVec 5 := 0b01#2 ++ r

/-- A register value as 64 bits, zero-extended: what a store or an atomic moves (R106). -/
def to64 {n : Nat} (v : BitVec n) : BitVec 64 := v.setWidth 64

/-- `sext(imm[11:0])` to XLEN (R144, R145). -/
def immX (c : Config) (imm : BitVec 12) : BitVec c.xlen := imm.signExtend c.xlen

/-- `sext(imm[31:12] << 12)` to XLEN (R146). -/
def upperX (c : Config) (imm : BitVec 20) : BitVec c.xlen := (imm ++ 0#12).signExtend c.xlen

/-- A jump or branch offset whose bit 0 is not encoded, sign-extended to XLEN (R148, R149, R166). -/
def offsetX (c : Config) {n : Nat} (off : BitVec n) : BitVec c.xlen := (off ++ 0#1).signExtend c.xlen

/-- A scaled unsigned offset whose low k bits are not encoded, zero-extended to XLEN (R163 to R165). -/
def scaledX (c : Config) {n : Nat} (u : BitVec n) (k : Nat) : BitVec c.xlen := u.setWidth c.xlen <<< k

/-- The effective address x[rs1] + sext(offset), modulo 2^XLEN (R107). -/
def Hart.addr (h : Hart c) (rs1 : BitVec 5) (offset : BitVec 12) : BitVec c.xlen := h.getX rs1 + immX c offset

/-- A register shift amount: the low 5 bits of x[rs2] in RV32, the low 6 in RV64 (R272). -/
def Hart.shiftAmount (h : Hart c) (rs2 : BitVec 5) : Nat := (h.getX rs2).toNat % c.xlen

/-- The low 32 bits of a register value (R475). -/
def low32 {n : Nat} (v : BitVec n) : BitVec 32 := v.setWidth 32

/-- `sext32(w)`: a 32-bit value extended from its bit 31 to XLEN (R475). -/
def sext32 (c : Config) (w : BitVec 32) : BitVec c.xlen := w.signExtend c.xlen

/-- 1 or 0 in an x register. -/
def boolX (c : Config) (b : Bool) : BitVec c.xlen := if b then 1 else 0

/-! ## Single-precision operands in f registers (R403, R404) -/

/-- The canonical NaN of binary32 (R400). -/
def cNaN32 : BitVec 32 := 0x7FC00000

/-- `unbox32(f[r])` (R403). -/
def Hart.getS (h : Hart c) (r : BitVec 5) : BitVec 32 :=
  let v := h.getF r
  if c.hasD && v.setWidth 64 >>> 32 != 0xFFFFFFFF then cNaN32 else v.setWidth 32

/-- `box32(w)` (R404). -/
def box32 (c : Config) (w : BitVec 32) : BitVec c.flen := (BitVec.allOnes 32 ++ w).setWidth c.flen

/-- `f[r] <- box32(w)` (R404). -/
def Hart.setS (h : Hart c) (r : BitVec 5) (w : BitVec 32) : Hart c := h.setF r (box32 c w)

/-- `f[r]` as a binary64 (R480). -/
def Hart.getD (h : Hart c) (r : BitVec 5) : BitVec 64 := (h.getF r).setWidth 64

/-- `f[r] <- w`, a binary64 (R480). -/
def Hart.setD (h : Hart c) (r : BitVec 5) (w : BitVec 64) : Hart c := h.setF r (w.setWidth c.flen)

/-! ## The vector type (R76 to R81, R88) -/

/-- vtype.vill, bit XLEN-1 (R81). -/
def Hart.vill (h : Hart c) : Bool := h.vtype.getLsbD (c.xlen - 1)

/-- SEW = 8 * 2^vsew, vsew in bits 4:2 of a vtype value (R77). -/
def sewOf {n : Nat} (vtype : BitVec n) : Nat := 8 * 2 ^ (vtype.extractLsb' 2 3).toNat

/-- LMUL = 2^vlmul, vlmul in bits 1:0 of a vtype value (R78). -/
def lmulOf {n : Nat} (vtype : BitVec n) : Nat := 2 ^ (vtype.extractLsb' 0 2).toNat

/-- VLMAX = LMUL * VLEN / SEW (R79). -/
def vlmaxOf (c : Config) {n : Nat} (vtype : BitVec n) : Nat := lmulOf vtype * c.vlen / sewOf vtype

/-- The current SEW (R77). -/
def Hart.sew (h : Hart c) : Nat := sewOf h.vtype

/-- The current LMUL (R78). -/
def Hart.lmul (h : Hart c) : Nat := lmulOf h.vtype

/-- MLEN = SEW / LMUL (R88). -/
def Hart.mlen (h : Hart c) : Nat := h.sew / h.lmul

/-! ## Vector elements and masks (R85 to R91) -/

/-- A field of w bits at bit position p replaced by e. -/
def setField {n w : Nat} (v : BitVec n) (p : Nat) (e : BitVec w) : BitVec n :=
  (v &&& ~~~((BitVec.allOnes w).setWidth n <<< p)) ||| (e.setWidth n <<< p)

/-- The register that holds element j of the group based at n (R85, R86): E = SLEN / SEW elements to a stripe, chunk
j / E, register n + chunk mod LMUL. -/
def elemReg (c : Config) (sew lmul n j : Nat) : Nat := n + j / (c.slen / sew) % lmul

/-- The bit position of element j in its register (R85, R86): stripe (j / E) / LMUL, place j mod E. -/
def elemBit (c : Config) (sew lmul j : Nat) : Nat :=
  j / (c.slen / sew) / lmul * c.slen + j % (c.slen / sew) * sew

/-- `velem(n, j)` (R87). -/
def Hart.velem (h : Hart c) (n j : Nat) : BitVec h.sew :=
  (h.getV (elemReg c h.sew h.lmul n j)).extractLsb' (elemBit c h.sew h.lmul j) h.sew

/-- `velem(n, j) <- e` (R87): exactly those bits of that register are replaced. -/
def Hart.setVelem (h : Hart c) (n j : Nat) {w : Nat} (e : BitVec w) : Hart c :=
  h.setV (elemReg c h.sew h.lmul n j)
    (setField (h.getV (elemReg c h.sew h.lmul n j)) (elemBit c h.sew h.lmul j) (e.setWidth h.sew))

/-- `vmaskbit(j)`: bit MLEN*j of v0 (R90). -/
def Hart.vmaskbit (h : Hart c) (j : Nat) : Bool := (h.getV 0).getLsbD (h.mlen * j)

/-- `vmaskset(d, j, b)`: the low bit of mask element j becomes b, its upper bits 0 (R89, R90). -/
def Hart.vmaskset (h : Hart c) (d j : Nat) (b : Bool) : Hart c :=
  h.setV d (setField (h.getV d) (h.mlen * j) (bitIf h.mlen b 0))

/-- Element j is active: vm = 1, or its mask bit is set (R91). -/
def Hart.active (h : Hart c) (vm : BitVec 1) (j : Nat) : Bool := vm == 1 || h.vmaskbit j

/-- `xs`: the scalar operand of a .vx form, cut to SEW bits or sign-extended to them (R601). -/
def Hart.scalar (h : Hart c) (rs1 : BitVec 5) : BitVec h.sew := (h.getX rs1).signExtend h.sew

/-- `imm = sext_SEW(inst[19:15])` (R602). -/
def Hart.simm (h : Hart c) (imm : BitVec 5) : BitVec h.sew := imm.signExtend h.sew

/-- The immediate of vmsleu.vi and vmsgtu.vi: zero-extended or sign-extended as VMS_UIMM_ZEXT says (R650). -/
def Hart.uimmCmp (h : Hart c) (imm : BitVec 5) : BitVec h.sew :=
  if c.vmsUimmZext then imm.setWidth h.sew else imm.signExtend h.sew

/-- The effective address x[rs1] + j * b of a unit-stride element (R552). -/
def Hart.unitAddr (h : Hart c) (rs1 : BitVec 5) (b j : Nat) : BitVec c.xlen := h.getX rs1 + BitVec.ofNat c.xlen (j * b)

/-- The effective address x[rs1] + j * x[rs2] of a strided element (R553). -/
def Hart.stridedAddr (h : Hart c) (rs1 rs2 : BitVec 5) (j : Nat) : BitVec c.xlen :=
  h.getX rs1 + BitVec.ofNat c.xlen j * h.getX rs2

/-- The effective address x[rs1] + velem(vs2, j) of an indexed element, the offset zero-extended or cut to XLEN
(R554). -/
def Hart.indexedAddr (h : Hart c) (rs1 vs2 : BitVec 5) (j : Nat) : BitVec c.xlen :=
  h.getX rs1 + (h.velem vs2.toNat j).setWidth c.xlen

end Sys2Proof.Machine
end

