-- ==== Sys2Proof/Machine/Flags.lean ====
section
/-! DEFINITION. The only status flags of this hardware, the accrued floating-point exception flags (R50, R94, R402), the
rounding modes (R401) and the gates every floating-point instruction passes (R409). Integer instructions set no flag
(R94), and nothing in scope sets vxsat (R72). -/

namespace Sys2Proof.Machine

open Sys2Proof

variable {c : Config}

/-- The five rounding modes (R401). -/
inductive Rounding where
  /-- to nearest, ties to even -/
  | rne
  /-- towards zero -/
  | rtz
  /-- towards minus infinity -/
  | rdn
  /-- towards plus infinity -/
  | rup
  /-- to nearest, ties to the larger magnitude -/
  | rmm
deriving DecidableEq, Repr

/-- The mode a static rm or frm names; 5, 6 and 7 name none (R401). -/
def roundingOf (m : BitVec 3) : Option Rounding :=
  match m with
  | 0 => some .rne
  | 1 => some .rtz
  | 2 => some .rdn
  | 3 => some .rup
  | 4 => some .rmm
  | _ => none

/-- `eff_rm`: rm, or frm when rm is 111; none where the instruction is illegal (R401). -/
def effRm (frm rm : BitVec 3) : Option Rounding := if rm = 7 then roundingOf frm else roundingOf rm

/-- Invalid operation, bit 4 (R50). -/
def flagNV : BitVec 5 := 0b10000
/-- Divide by zero, bit 3 (R50). -/
def flagDZ : BitVec 5 := 0b01000
/-- Overflow, bit 2 (R50). -/
def flagOF : BitVec 5 := 0b00100
/-- Underflow, bit 1 (R50). -/
def flagUF : BitVec 5 := 0b00010
/-- Inexact, bit 0 (R50). -/
def flagNX : BitVec 5 := 0b00001

/-- The flag when the condition holds, no flag otherwise. -/
def flagIf (b : Bool) (fl : BitVec 5) : BitVec 5 := if b then fl else 0

/-- `setflags(S)`: when S is not empty, accrue it and set mstatus.FS to Dirty (R402). -/
def Hart.setFlags (h : Hart c) (fl : BitVec 5) : Hart c :=
  if fl = 0 then h else { h with fflags := h.fflags ||| fl, mstatus := { h.mstatus with fs := 3 } }

/-- The first step of every floating-point instruction: illegal while mstatus.FS is Off (R409 step 1, R53). -/
def Hart.withFp (h : Hart c) (r : Res c) : Res c := if h.mstatus.fs = 0 then .illegal else r

/-- The first two steps of a floating-point instruction with an rm field (R409 steps 1 and 2, R401). -/
def Hart.withRm (h : Hart c) (rm : BitVec 3) (k : Rounding → Res c) : Res c :=
  h.withFp (match effRm h.frm rm with
    | none => .illegal
    | some m => k m)

end Sys2Proof.Machine
end

