-- ==== Sys2Proof/Machine/Float.lean ====
section
/-! DEFINITION. The numeric primitives of the floating-point instructions (R400 to R408), on exact integers: a pattern is
unpacked to the value it stands for, the operation is computed exactly, and the exact result is rounded once. -/

namespace Sys2Proof.Machine

open Sys2Proof

/-! ## Formats and values (R400) -/

/-- A binary interchange format: the bits of its exponent and of its fraction. -/
structure Fmt where
  eb : Nat
  mb : Nat
deriving DecidableEq, Repr

/-- binary32 (R400). -/
def Fmt.s : Fmt := ⟨8, 23⟩

/-- binary64 (R400). -/
def Fmt.d : Fmt := ⟨11, 52⟩

/-- The exponent bias (R400: 127, 1023). -/
def Fmt.bias (f : Fmt) : Nat := 2 ^ (f.eb - 1) - 1

/-- The bits of a significand, the implicit one included. -/
def Fmt.prec (f : Fmt) : Nat := f.mb + 1

/-- The exponent of the unit of a subnormal (R400: -149, -1074). -/
def Fmt.emin (f : Fmt) : Int := 1 - (f.bias : Int) - (f.mb : Int)

/-- The bit pattern of +infinity. -/
def Fmt.infBits (f : Fmt) : Nat := (2 ^ f.eb - 1) * 2 ^ f.mb

/-- The sign bit, as a number. -/
def Fmt.signBit (f : Fmt) : Nat := 2 ^ (f.eb + f.mb)

/-- The canonical NaN (R400). -/
def Fmt.cNaN (f : Fmt) : Nat := f.infBits + 2 ^ (f.mb - 1)

/-- What a pattern stands for, or what an operation gives before it is rounded. -/
inductive FVal where
  /-- a NaN; the flag says signaling, for an operand, and invalid operation, for a result (R405 a, b) -/
  | nan (signal : Bool)
  | inf (neg : Bool)
  /-- (-1)^neg * m * 2^e; m = 0 is a zero of that sign -/
  | fin (neg : Bool) (m : Nat) (e : Int)
deriving DecidableEq, Repr

/-- The sign bit of a pattern (R400). -/
def signOf (f : Fmt) {n : Nat} (w : BitVec n) : Bool := w.getLsbD (f.eb + f.mb)

/-- The exponent field of a pattern (R400). -/
def expOf (f : Fmt) {n : Nat} (w : BitVec n) : Nat := w.toNat / 2 ^ f.mb % 2 ^ f.eb

/-- The fraction field of a pattern (R400). -/
def fracOf (f : Fmt) {n : Nat} (w : BitVec n) : Nat := w.toNat % 2 ^ f.mb

/-- A pattern without its sign bit. -/
def magOf (f : Fmt) {n : Nat} (w : BitVec n) : Nat := w.toNat % 2 ^ (f.eb + f.mb)

/-- The value a pattern stands for (R400). -/
def unpack (f : Fmt) {n : Nat} (w : BitVec n) : FVal :=
  let neg := signOf f w
  let e := expOf f w
  let m := fracOf f w
  if e = 2 ^ f.eb - 1 then
    if m = 0 then .inf neg else .nan (m < 2 ^ (f.mb - 1))
  else if e = 0 then .fin neg m f.emin
  else .fin neg (2 ^ f.mb + m) (f.emin + (e : Int) - 1)

/-! ## Rounding (R401, R405) -/

/-- Whether the magnitude r + rem / 2^d is rounded up, where rem < 2^d (R401). -/
def roundsUp (rm : Rounding) (neg : Bool) (r rem d : Nat) : Bool :=
  match rm with
  | .rne => 2 * rem > 2 ^ d || (2 * rem == 2 ^ d && r % 2 == 1)
  | .rtz => false
  | .rdn => neg && rem != 0
  | .rup => !neg && rem != 0
  | .rmm => 2 * rem ≥ 2 ^ d && rem != 0

/-- m / 2^d rounded to an integer; for d below 0 it is exact. -/
def roundShift (rm : Rounding) (neg : Bool) (m : Nat) (d : Int) : Nat :=
  if d ≤ 0 then m <<< (-d).toNat
  else
    let k := d.toNat
    let r := m >>> k
    if roundsUp rm neg r (m % 2 ^ k) k then r + 1 else r

/-- m / 2^d is no integer. -/
def inexactShift (m : Nat) (d : Int) : Bool := 0 < d && m % 2 ^ d.toNat != 0

/-- A result pattern and the flags raised with it. -/
abbrev Rounded := Nat × BitVec 5

/-- The result of an overflow: infinity or the largest finite number, with OF and NX (R405 d). -/
def overflowed (f : Fmt) (rm : Rounding) (neg : Bool) : Rounded :=
  let toInf := match rm with
    | .rne | .rmm => true
    | .rtz => false
    | .rdn => neg
    | .rup => !neg
  ((if neg then f.signBit else 0) + (if toInf then f.infBits else f.infBits - 1), flagOF ||| flagNX)

/-- `round_fmt` of (-1)^neg * m * 2^e (R405 c to g). The quotient of the last place is 2^q; tininess is detected after
rounding, that is on the result rounded as if the exponent had no lower bound (R405 e). -/
def roundFin (f : Fmt) (rm : Rounding) (neg : Bool) (m : Nat) (e : Int) : Rounded :=
  let sign := if neg then f.signBit else 0
  if m = 0 then (sign, 0)
  else
    let q0 := e + (m.log2 : Int) + 1 - (f.prec : Int)
    let q := max q0 f.emin
    let bits := (q - f.emin).toNat * 2 ^ f.mb + roundShift rm neg m (q - e)
    let inexact := inexactShift m (q - e)
    let tiny := q0 < f.emin && !(q0 == f.emin - 1 && roundShift rm neg m (q0 - e) == 2 ^ f.prec)
    if f.infBits ≤ bits then overflowed f rm neg
    else (sign + bits, flagIf (tiny && inexact) flagUF ||| flagIf inexact flagNX)

/-- The pattern of an exact result (R405): a NaN is the canonical one, with NV when the operation signals. -/
def roundVal (f : Fmt) (rm : Rounding) : FVal → Rounded
  | .nan signal => (f.cNaN, flagIf signal flagNV)
  | .inf neg => ((if neg then f.signBit else 0) + f.infBits, 0)
  | .fin neg m e => roundFin f rm neg m e

/-! ## Exact operations (R405) -/

/-- (-1)^neg * m as an integer. -/
def signedNat (neg : Bool) (m : Nat) : Int := if neg then -(m : Int) else (m : Int)

/-- -v. -/
def FVal.neg : FVal → FVal
  | .nan s => .nan s
  | .inf n => .inf (!n)
  | .fin n m e => .fin (!n) m e

/-- a + b; inf - inf is invalid, and an exact zero sum has the sign of R405 h. -/
def FVal.add (rm : Rounding) : FVal → FVal → FVal
  | .nan s, .nan t => .nan (s || t)
  | .nan s, _ => .nan s
  | _, .nan t => .nan t
  | .inf n, .inf k => if n = k then .inf n else .nan true
  | .inf n, .fin .. => .inf n
  | .fin .., .inf k => .inf k
  | .fin n m e, .fin k l g =>
    let u := min e g
    let sum := signedNat n (m <<< (e - u).toNat) + signedNat k (l <<< (g - u).toNat)
    if sum = 0 then .fin (if n = k then n else decide (rm = .rdn)) 0 u
    else .fin (decide (sum < 0)) sum.natAbs u

/-- a * b; 0 * inf is invalid. -/
def FVal.mul : FVal → FVal → FVal
  | .nan s, .nan t => .nan (s || t)
  | .nan s, _ => .nan s
  | _, .nan t => .nan t
  | .inf n, .inf k => .inf (n ^^ k)
  | .inf n, .fin k l _ => if l = 0 then .nan true else .inf (n ^^ k)
  | .fin n m _, .inf k => if m = 0 then .nan true else .inf (n ^^ k)
  | .fin n m e, .fin k l g => .fin (n ^^ k) (m * l) (e + g)

/-- Twice r, plus one where something of the exact value is left below r: what rounds as the exact value does, when r
has two bits more than the format keeps. -/
def withSticky (r : Nat) (rest : Bool) : Nat := 2 * r + (if rest then 1 else 0)

/-- a / b, as a value that rounds to the format as the exact quotient does, and the DZ flag; 0 / 0 and inf / inf are
invalid (R405 b, c). -/
def FVal.div (f : Fmt) : FVal → FVal → FVal × BitVec 5
  | .nan s, .nan t => (.nan (s || t), 0)
  | .nan s, _ => (.nan s, 0)
  | _, .nan t => (.nan t, 0)
  | .inf _, .inf _ => (.nan true, 0)
  | .inf n, .fin k _ _ => (.inf (n ^^ k), 0)
  | .fin n _ e, .inf k => (.fin (n ^^ k) 0 e, 0)
  | .fin n m e, .fin k l g =>
    if l = 0 then
      if m = 0 then (.nan true, 0) else (.inf (n ^^ k), flagDZ)
    else
      let sh := f.prec + 3 + l.log2
      let num := m <<< sh
      (.fin (n ^^ k) (withSticky (num / l) (num % l != 0)) (e - g - (sh : Int) - 1), 0)

/-- The integer square root by binary digits: r plus the largest part below 2^n that keeps the square within x. -/
def isqrtFrom (x : Nat) : Nat → Nat → Nat
  | 0, r => r
  | n + 1, r => if (r + 2 ^ n) * (r + 2 ^ n) ≤ x then isqrtFrom x n (r + 2 ^ n) else isqrtFrom x n r

/-- The integer square root. -/
def isqrt (x : Nat) : Nat := isqrtFrom x (x.log2 / 2 + 1) 0

/-- sqrt(a), as a value that rounds to the format as the exact root does; the root of a value below 0 is invalid
(R405 b). -/
def FVal.sqrt (f : Fmt) : FVal → FVal
  | .nan s => .nan s
  | .inf n => if n then .nan true else .inf false
  | .fin n m e =>
    if m = 0 then .fin n 0 e
    else if n then .nan true
    else
      let sh := 2 * (f.prec + 3) + (e % 2).toNat
      let x := m <<< sh
      let r := isqrt x
      .fin false (withSticky r (r * r != x)) ((e - (sh : Int)) / 2 - 1)

/-! ## The operations on patterns -/

/-- fadd (R405, R416, R487). -/
def fpAdd (f : Fmt) (rm : Rounding) {n : Nat} (a b : BitVec n) : Rounded :=
  roundVal f rm ((unpack f a).add rm (unpack f b))

/-- fsub (R405, R417, R488). -/
def fpSub (f : Fmt) (rm : Rounding) {n : Nat} (a b : BitVec n) : Rounded :=
  roundVal f rm ((unpack f a).add rm (unpack f b).neg)

/-- fmul (R405, R418, R489). -/
def fpMul (f : Fmt) (rm : Rounding) {n : Nat} (a b : BitVec n) : Rounded :=
  roundVal f rm ((unpack f a).mul (unpack f b))

/-- fdiv (R405, R419, R490). -/
def fpDiv (f : Fmt) (rm : Rounding) {n : Nat} (a b : BitVec n) : Rounded :=
  let q := (unpack f a).div f (unpack f b)
  let r := roundVal f rm q.1
  (r.1, r.2 ||| q.2)

/-- fsqrt (R405, R420, R491). -/
def fpSqrt (f : Fmt) (rm : Rounding) {n : Nat} (a : BitVec n) : Rounded := roundVal f rm ((unpack f a).sqrt f)

/-- The fused forms: (-1)^negProd * a * b + (-1)^negAdd * d, rounded once (R405 i, R412 to R415, R483 to R486). -/
def fpFma (f : Fmt) (rm : Rounding) (negProd negAdd : Bool) {n : Nat} (a b d : BitVec n) : Rounded :=
  let p := (unpack f a).mul (unpack f b)
  let z := unpack f d
  roundVal f rm ((if negProd then p.neg else p).add rm (if negAdd then z.neg else z))

/-- Float to float (R405, R497, R498). -/
def fpToFp (src dst : Fmt) (rm : Rounding) {n : Nat} (a : BitVec n) : Rounded := roundVal dst rm (unpack src a)

/-- Integer to float (R405, R425, R426, R501, R502, R508, R509, R514, R515). -/
def intToFp (f : Fmt) (rm : Rounding) (i : Int) : Rounded := roundFin f rm (decide (i < 0)) i.natAbs 0

/-- The least integer of an n-bit target (R406). -/
def intMin (signed : Bool) (n : Nat) : Int := if signed then -((2 ^ (n - 1) : Nat) : Int) else 0

/-- The greatest integer of an n-bit target (R406). -/
def intMax (signed : Bool) (n : Nat) : Int := if signed then ((2 ^ (n - 1) : Nat) : Int) - 1 else ((2 ^ n : Nat) : Int) - 1

/-- `cvt_int(v, signed, n)` (R406): the integer and the flags. -/
def fpToInt (f : Fmt) (rm : Rounding) (signed : Bool) (n : Nat) {k : Nat} (a : BitVec k) : Int × BitVec 5 :=
  match unpack f a with
  | .nan _ => (intMax signed n, flagNV)
  | .inf neg => (if neg then intMin signed n else intMax signed n, flagNV)
  | .fin neg m e =>
    let r := signedNat neg (roundShift rm neg m (-e))
    if r < intMin signed n then (intMin signed n, flagNV)
    else if intMax signed n < r then (intMax signed n, flagNV)
    else (r, flagIf (inexactShift m (-e)) flagNX)

/-- The pattern stands for a NaN (R400). -/
def isNaN (f : Fmt) {n : Nat} (w : BitVec n) : Bool := f.infBits < magOf f w

/-- The pattern stands for a signaling NaN (R400). -/
def isSNaN (f : Fmt) {n : Nat} (w : BitVec n) : Bool := isNaN f w && fracOf f w < 2 ^ (f.mb - 1)

/-- A number that orders the patterns that are no NaN as their values, with +0 and -0 equal (R408). -/
def orderKey (f : Fmt) {n : Nat} (w : BitVec n) : Int := signedNat (signOf f w) (magOf f w)

/-- The same, with -0 below +0 (R407). -/
def strictKey (f : Fmt) {n : Nat} (w : BitVec n) : Int :=
  if signOf f w then -(magOf f w : Int) - 1 else (magOf f w : Int)

/-- NV when an operand is a signaling NaN (R407, R408). -/
def sNaNFlag (f : Fmt) {n : Nat} (a b : BitVec n) : BitVec 5 := flagIf (isSNaN f a || isSNaN f b) flagNV

/-- fmin and fmax: the operand that is chosen, or the canonical NaN (R407). -/
def fpPick (f : Fmt) (wantMax : Bool) {n : Nat} (a b : BitVec n) : Rounded :=
  let fl := sNaNFlag f a b
  if isNaN f a then (if isNaN f b then f.cNaN else b.toNat, fl)
  else if isNaN f b then (a.toNat, fl)
  else if wantMax then (if strictKey f a < strictKey f b then b.toNat else a.toNat, fl)
  else (if strictKey f b < strictKey f a then b.toNat else a.toNat, fl)

/-- feq, and its flags: a quiet comparison (R408). -/
def fpEq (f : Fmt) {n : Nat} (a b : BitVec n) : Bool × BitVec 5 :=
  (!isNaN f a && !isNaN f b && orderKey f a == orderKey f b, sNaNFlag f a b)

/-- flt, and its flags: a signaling comparison (R408). -/
def fpLt (f : Fmt) {n : Nat} (a b : BitVec n) : Bool × BitVec 5 :=
  (!isNaN f a && !isNaN f b && decide (orderKey f a < orderKey f b), flagIf (isNaN f a || isNaN f b) flagNV)

/-- fle, and its flags: a signaling comparison (R408). -/
def fpLe (f : Fmt) {n : Nat} (a b : BitVec n) : Bool × BitVec 5 :=
  (!isNaN f a && !isNaN f b && decide (orderKey f a ≤ orderKey f b), flagIf (isNaN f a || isNaN f b) flagNV)

/-- The class of a pattern, 0 to 9 (R435). -/
def fpClass (f : Fmt) {n : Nat} (w : BitVec n) : Nat :=
  let neg := signOf f w
  let e := expOf f w
  let m := fracOf f w
  if e = 2 ^ f.eb - 1 then
    if m = 0 then (if neg then 0 else 7)
    else if m < 2 ^ (f.mb - 1) then 8 else 9
  else if e = 0 then
    if m = 0 then (if neg then 3 else 4)
    else (if neg then 2 else 5)
  else (if neg then 1 else 6)

/-- A pattern with its sign replaced (R427 to R429, R492 to R494). -/
def withSign {n : Nat} (a : BitVec n) (sign : Bool) : BitVec n :=
  (a &&& (BitVec.allOnes n >>> 1)) ||| bitIf n sign (n - 1)

end Sys2Proof.Machine
end

