-- ==== Sys2Proof/Machine/Shapes.lean ====
section
/-! DEFINITION. The shapes the scalar instructions share, each written once: a result into an x register, a load, a
store, a branch, an atomic operation, a multiply or divide, a floating-point result. A meaning is one of these applied to
its operands. -/

namespace Sys2Proof.Machine

open Sys2Proof

variable {c : Config}

/-! ## Integer results -/

/-- `x[rd] <- v`, and on to the next instruction. -/
def Hart.result (h : Hart c) (rd : BitVec 5) (v : BitVec c.xlen) : Res c := .next (h.setX rd v)

/-- A full-width value seen signed or unsigned in twice its width. -/
def widen {n : Nat} (signed : Bool) (a : BitVec n) : BitVec (2 * n) :=
  if signed then a.signExtend (2 * n) else a.setWidth (2 * n)

/-- The upper half of the full product, each operand signed or unsigned as its flag says (R343 to R345, R679). -/
def highProduct {n : Nat} (sa sb : Bool) (a b : BitVec n) : BitVec n := (widen sa a * widen sb b).extractLsb' n n

/-- Signed quotient towards zero; division by 0 gives -1, and the overflow case gives the dividend (R346). -/
def divSigned {n : Nat} (a b : BitVec n) : BitVec n := if b = 0 then BitVec.allOnes n else a.sdiv b

/-- Unsigned quotient; division by 0 gives all ones (R347). -/
def divUnsigned {n : Nat} (a b : BitVec n) : BitVec n := if b = 0 then BitVec.allOnes n else a.udiv b

/-- Signed remainder, of the sign of the dividend; of a division by 0 it is the dividend, of the overflow case 0
(R348). -/
def remSigned {n : Nat} (a b : BitVec n) : BitVec n := if b = 0 then a else a.srem b

/-- Unsigned remainder; of a division by 0 it is the dividend (R349). -/
def remUnsigned {n : Nat} (a b : BitVec n) : BitVec n := if b = 0 then a else a.umod b

/-- The smaller unsigned value (R469, R470, R671). -/
def minUnsigned {n : Nat} (a b : BitVec n) : BitVec n := if a.ule b then a else b

/-- The smaller signed value (R468, R673). -/
def minSigned {n : Nat} (a b : BitVec n) : BitVec n := if a.sle b then a else b

/-- The larger unsigned value (R467, R675). -/
def maxUnsigned {n : Nat} (a b : BitVec n) : BitVec n := if b.ule a then a else b

/-- The larger signed value (R466, R677). -/
def maxSigned {n : Nat} (a b : BitVec n) : BitVec n := if b.sle a then a else b

/-! ## Loads, stores, branches, jumps -/

/-- The low k bits of a loaded value, sign-extended to XLEN. -/
def signedLoad (c : Config) (k : Nat) (v : BitVec 64) : BitVec c.xlen := (v.setWidth k).signExtend c.xlen

/-- The low k bits of a loaded value, zero-extended to XLEN. -/
def unsignedLoad (c : Config) (k : Nat) (v : BitVec 64) : BitVec c.xlen := (v.setWidth k).setWidth c.xlen

/-- `x[rd] <- ext(MemRead(a, n))` (R260). -/
def Hart.loadX (h : Hart c) (rd : BitVec 5) (a : BitVec c.xlen) (n : Nat) (ext : BitVec 64 → BitVec c.xlen) : Res c :=
  h.withLoad .load a n fun h' v => .next (h'.setX rd (ext v))

/-- `MemWrite(a, n, v)` (R261). -/
def Hart.storeMem (h : Hart c) (a : BitVec c.xlen) (n : Nat) (v : BitVec 64) : Res c :=
  h.withStore .store a n v .next

/-- A conditional branch (R300). -/
def Hart.branch (h : Hart c) (taken : Bool) {n : Nat} (offset : BitVec n) : Res c :=
  if taken then .jump h (h.pc + offsetX c offset) else .next h

/-- `x[rd] <- pc + len; pc <- target`, the target computed from the old registers (R307, R308, R365, R366). -/
def Hart.link (h : Hart c) (rd : BitVec 5) (len : Nat) (target : BitVec c.xlen) : Res c :=
  .jump (h.setX rd (h.pc + BitVec.ofNat c.xlen len)) target

/-- An address with bit 0 cleared (R308). -/
def evenAddr {n : Nat} (a : BitVec n) : BitVec n := a &&& ~~~1

/-! ## Atomic operations (R460) -/

/-- An AMO of n bytes at x[rs1]: `t = M[a]; M[a] <- f t; x[rd] <- ext t`, after its checks. -/
def Hart.amo (h : Hart c) (rd rs1 : BitVec 5) (n : Nat) (f : BitVec 64 → BitVec 64)
    (ext : BitVec 64 → BitVec c.xlen) : Res c :=
  let a := h.getX rs1
  h.withLoad .amo a n fun h' t => .next ((h'.writeMem a n (f t)).setX rd (ext t))

/-- The sc.d of R463, after its address checks: it stores when the reservation matches and no spurious failure is
supplied; either way the reservation ends. -/
def Hart.scStore (h : Hart c) (rd : BitVec 5) (a : BitVec c.xlen) (v : BitVec 64) : Hart c :=
  if h.reservation = some a && !(c.scMayFail && h.scFail) then
    { (h.writeMem a 8 v).setX rd 0 with reservation := none }
  else { h.setX rd 1 with reservation := none }

/-! ## Floating-point results (R409 step 5) -/

/-- `f[rd] <- box32(w)` and the flags. -/
def Hart.putS (h : Hart c) (rd : BitVec 5) (r : Rounded) : Res c :=
  .next ((h.setS rd (BitVec.ofNat 32 r.1)).setFlags r.2)

/-- `f[rd] <- w`, a binary64, and the flags. -/
def Hart.putD (h : Hart c) (rd : BitVec 5) (r : Rounded) : Res c :=
  .next ((h.setD rd (BitVec.ofNat 64 r.1)).setFlags r.2)

/-- `x[rd] <- sext(r)` of a 32-bit conversion result, and the flags (R406). -/
def Hart.putInt32 (h : Hart c) (rd : BitVec 5) (r : Int × BitVec 5) : Res c :=
  .next ((h.setX rd (sext32 c (BitVec.ofInt 32 r.1))).setFlags r.2)

/-- `x[rd] <- r` of a 64-bit conversion result, and the flags (R406). -/
def Hart.putInt64 (h : Hart c) (rd : BitVec 5) (r : Int × BitVec 5) : Res c :=
  .next ((h.setX rd (BitVec.ofInt c.xlen r.1)).setFlags r.2)

/-- `x[rd] <- b ? 1 : 0` of a comparison, and the flags (R408). -/
def Hart.putBool (h : Hart c) (rd : BitVec 5) (r : Bool × BitVec 5) : Res c :=
  .next ((h.setX rd (boolX c r.1)).setFlags r.2)

/-- `f[rd] <- box32(MemRead(a, 4))` (R410). -/
def Hart.loadS (h : Hart c) (rd : BitVec 5) (a : BitVec c.xlen) : Res c :=
  h.withFp (h.withLoad .load a 4 fun h' v => .next (h'.setS rd (low32 v)))

/-- `f[rd] <- MemRead(a, 8)` (R481). -/
def Hart.loadD (h : Hart c) (rd : BitVec 5) (a : BitVec c.xlen) : Res c :=
  h.withFp (h.withLoad .load a 8 fun h' v => .next (h'.setD rd v))

/-- `MemWrite(a, n, f[rs2])`: the low n bytes of the register, as they are (R411, R482). -/
def Hart.storeF (h : Hart c) (rs2 : BitVec 5) (a : BitVec c.xlen) (n : Nat) : Res c :=
  h.withFp (h.storeMem a n (to64 (h.getF rs2)))

end Sys2Proof.Machine
end

