-- ==== Sys2Proof/Machine/Atomic.lean ====
section
/-! DEFINITION. The meanings of load-reserved, store-conditional and the atomic memory operations (R460 to R475), one definition for each
instruction over the shared shapes. -/

namespace Sys2Proof.Machine

open Sys2Proof

/-- `lr.d rd, rs1, aq, rl` (R461). -/
def execLrD (rd rs1 : BitVec 5) (aq rl : BitVec 1) (s : State) : Host.Outcome State Fault Refusal :=
  s.run (Enc.lrD rd rs1 aq rl) <| s.hart.withLoad .lr (s.hart.getX rs1) 8 fun h' v =>
    .next { h'.setX rd (unsignedLoad s.cfg 64 v) with reservation := some (s.hart.getX rs1) }

/-- `sc.d rd, rs2, rs1, aq, rl` (R463). -/
def execScD (rd rs2 rs1 : BitVec 5) (aq rl : BitVec 1) (s : State) : Host.Outcome State Fault Refusal :=
  s.run (Enc.scD rd rs2 rs1 aq rl) <|
    match accessCheck s.cfg .sc (s.hart.getX rs1) 8 with
    | some e => .trap s.hart e (s.hart.getX rs1)
    | none => .next (s.hart.scStore rd (s.hart.getX rs1) (to64 (s.hart.getX rs2)))

/-- `amoadd.d rd, rs2, rs1, aq, rl` (R464). -/
def execAmoaddD (rd rs2 rs1 : BitVec 5) (aq rl : BitVec 1) (s : State) : Host.Outcome State Fault Refusal :=
  s.run (Enc.amoaddD rd rs2 rs1 aq rl) <|
    s.hart.amo rd rs1 8 (fun t => t + to64 (s.hart.getX rs2)) (unsignedLoad s.cfg 64)

/-- `amoand.d rd, rs2, rs1, aq, rl` (R465). -/
def execAmoandD (rd rs2 rs1 : BitVec 5) (aq rl : BitVec 1) (s : State) : Host.Outcome State Fault Refusal :=
  s.run (Enc.amoandD rd rs2 rs1 aq rl) <|
    s.hart.amo rd rs1 8 (fun t => t &&& to64 (s.hart.getX rs2)) (unsignedLoad s.cfg 64)

/-- `amomax.d rd, rs2, rs1, aq, rl` (R466). -/
def execAmomaxD (rd rs2 rs1 : BitVec 5) (aq rl : BitVec 1) (s : State) : Host.Outcome State Fault Refusal :=
  s.run (Enc.amomaxD rd rs2 rs1 aq rl) <|
    s.hart.amo rd rs1 8 (fun t => maxSigned t (to64 (s.hart.getX rs2))) (unsignedLoad s.cfg 64)

/-- `amomaxu.d rd, rs2, rs1, aq, rl` (R467). -/
def execAmomaxuD (rd rs2 rs1 : BitVec 5) (aq rl : BitVec 1) (s : State) : Host.Outcome State Fault Refusal :=
  s.run (Enc.amomaxuD rd rs2 rs1 aq rl) <|
    s.hart.amo rd rs1 8 (fun t => maxUnsigned t (to64 (s.hart.getX rs2))) (unsignedLoad s.cfg 64)

/-- `amomin.d rd, rs2, rs1, aq, rl` (R468). -/
def execAmominD (rd rs2 rs1 : BitVec 5) (aq rl : BitVec 1) (s : State) : Host.Outcome State Fault Refusal :=
  s.run (Enc.amominD rd rs2 rs1 aq rl) <|
    s.hart.amo rd rs1 8 (fun t => minSigned t (to64 (s.hart.getX rs2))) (unsignedLoad s.cfg 64)

/-- `amominu.d rd, rs2, rs1, aq, rl` (R469). -/
def execAmominuD (rd rs2 rs1 : BitVec 5) (aq rl : BitVec 1) (s : State) : Host.Outcome State Fault Refusal :=
  s.run (Enc.amominuD rd rs2 rs1 aq rl) <|
    s.hart.amo rd rs1 8 (fun t => minUnsigned t (to64 (s.hart.getX rs2))) (unsignedLoad s.cfg 64)

/-- `amominu.w rd, rs2, rs1, aq, rl` (R470). -/
def execAmominuW (rd rs2 rs1 : BitVec 5) (aq rl : BitVec 1) (s : State) : Host.Outcome State Fault Refusal :=
  s.run (Enc.amominuW rd rs2 rs1 aq rl) <|
    s.hart.amo rd rs1 4 (fun t => minUnsigned t (to64 (low32 (s.hart.getX rs2)))) (signedLoad s.cfg 32)

/-- `amoor.d rd, rs2, rs1, aq, rl` (R471). -/
def execAmoorD (rd rs2 rs1 : BitVec 5) (aq rl : BitVec 1) (s : State) : Host.Outcome State Fault Refusal :=
  s.run (Enc.amoorD rd rs2 rs1 aq rl) <|
    s.hart.amo rd rs1 8 (fun t => t ||| to64 (s.hart.getX rs2)) (unsignedLoad s.cfg 64)

/-- `amoswap.d rd, rs2, rs1, aq, rl` (R472). -/
def execAmoswapD (rd rs2 rs1 : BitVec 5) (aq rl : BitVec 1) (s : State) : Host.Outcome State Fault Refusal :=
  s.run (Enc.amoswapD rd rs2 rs1 aq rl) (s.hart.amo rd rs1 8 (fun _ => to64 (s.hart.getX rs2)) (unsignedLoad s.cfg 64))

/-- `amoxor.d rd, rs2, rs1, aq, rl` (R473). -/
def execAmoxorD (rd rs2 rs1 : BitVec 5) (aq rl : BitVec 1) (s : State) : Host.Outcome State Fault Refusal :=
  s.run (Enc.amoxorD rd rs2 rs1 aq rl) <|
    s.hart.amo rd rs1 8 (fun t => t ^^^ to64 (s.hart.getX rs2)) (unsignedLoad s.cfg 64)

end Sys2Proof.Machine
end

