-- ==== Sys2Proof/Machine/Compressed.lean ====
section
/-! DEFINITION. The meanings of the 16-bit instructions (R350 to R387, R525 to R536), one definition for each
instruction over the shared shapes. -/

namespace Sys2Proof.Machine

open Sys2Proof

/-- `c.lw rd', rs1', uimm` (R357). -/
def execCLw (rdp rs1p : BitVec 3) (uimm : BitVec 5) (s : State) : Host.Outcome State Fault Refusal :=
  s.run (Enc.cLw rdp rs1p uimm) <|
    s.hart.loadX (creg rdp) (s.hart.getX (creg rs1p) + scaledX s.cfg uimm 2) 4 (signedLoad s.cfg 32)

/-- `c.sw rs2', rs1', uimm` (R358). -/
def execCSw (rs2p rs1p : BitVec 3) (uimm : BitVec 5) (s : State) : Host.Outcome State Fault Refusal :=
  s.run (Enc.cSw rs2p rs1p uimm) <|
    s.hart.storeMem (s.hart.getX (creg rs1p) + scaledX s.cfg uimm 2) 4 (to64 (s.hart.getX (creg rs2p)))

/-- `c.lwsp rd, uimm` (R359). -/
def execCLwsp (rd : BitVec 5) (uimm : BitVec 6) (s : State) : Host.Outcome State Fault Refusal :=
  s.run (Enc.cLwsp rd uimm) (s.hart.loadX rd (s.hart.getX 2 + scaledX s.cfg uimm 2) 4 (signedLoad s.cfg 32))

/-- `c.swsp rs2, uimm` (R360). -/
def execCSwsp (rs2 : BitVec 5) (uimm : BitVec 6) (s : State) : Host.Outcome State Fault Refusal :=
  s.run (Enc.cSwsp rs2 uimm) (s.hart.storeMem (s.hart.getX 2 + scaledX s.cfg uimm 2) 4 (to64 (s.hart.getX rs2)))

/-- `c.beqz rs1', offset` (R361). -/
def execCBeqz (rs1p : BitVec 3) (offset : BitVec 8) (s : State) : Host.Outcome State Fault Refusal :=
  s.run (Enc.cBeqz rs1p offset) (s.hart.branch (s.hart.getX (creg rs1p) == 0) offset)

/-- `c.bnez rs1', offset` (R362). -/
def execCBnez (rs1p : BitVec 3) (offset : BitVec 8) (s : State) : Host.Outcome State Fault Refusal :=
  s.run (Enc.cBnez rs1p offset) (s.hart.branch (s.hart.getX (creg rs1p) != 0) offset)

/-- `c.j offset` (R363). -/
def execCJ (offset : BitVec 11) (s : State) : Host.Outcome State Fault Refusal :=
  s.run (Enc.cJ offset) (.jump s.hart (s.hart.pc + offsetX s.cfg offset))

/-- `c.jr rs1` (R364). -/
def execCJr (rs1 : BitVec 5) (s : State) : Host.Outcome State Fault Refusal :=
  s.run (Enc.cJr rs1) (.jump s.hart (evenAddr (s.hart.getX rs1)))

/-- `c.jal offset` (R365). -/
def execCJal (offset : BitVec 11) (s : State) : Host.Outcome State Fault Refusal :=
  s.run (Enc.cJal offset) (s.hart.link 1 2 (s.hart.pc + offsetX s.cfg offset))

/-- `c.jalr rs1` (R366). -/
def execCJalr (rs1 : BitVec 5) (s : State) : Host.Outcome State Fault Refusal :=
  s.run (Enc.cJalr rs1) (s.hart.link 1 2 (evenAddr (s.hart.getX rs1)))

/-- `c.ebreak` (R367). -/
def execCEbreak (s : State) : Host.Outcome State Fault Refusal :=
  s.run Enc.cEbreak (.trap s.hart .breakpoint s.hart.pc)

/-- `c.add rd, rs2` (R368). -/
def execCAdd (rd rs2 : BitVec 5) (s : State) : Host.Outcome State Fault Refusal :=
  s.run (Enc.cAdd rd rs2) (s.hart.result rd (s.hart.getX rd + s.hart.getX rs2))

/-- `c.addi rd, imm` (R369). -/
def execCAddi (rd : BitVec 5) (imm : BitVec 6) (s : State) : Host.Outcome State Fault Refusal :=
  s.run (Enc.cAddi rd imm) (s.hart.result rd (s.hart.getX rd + imm.signExtend s.cfg.xlen))

/-- `c.sub rd', rs2'` (R370). -/
def execCSub (rdp rs2p : BitVec 3) (s : State) : Host.Outcome State Fault Refusal :=
  s.run (Enc.cSub rdp rs2p) (s.hart.result (creg rdp) (s.hart.getX (creg rdp) - s.hart.getX (creg rs2p)))

/-- `c.addi16sp imm` (R371). -/
def execCAddi16sp (imm : BitVec 6) (s : State) : Host.Outcome State Fault Refusal :=
  s.run (Enc.cAddi16sp imm) (s.hart.result 2 (s.hart.getX 2 + (imm ++ 0#4).signExtend s.cfg.xlen))

/-- `c.addi4spn rd', uimm` (R372). -/
def execCAddi4spn (rdp : BitVec 3) (uimm : BitVec 8) (s : State) : Host.Outcome State Fault Refusal :=
  s.run (Enc.cAddi4spn rdp uimm) (s.hart.result (creg rdp) (s.hart.getX 2 + scaledX s.cfg uimm 2))

/-- `c.and rd', rs2'` (R373). -/
def execCAnd (rdp rs2p : BitVec 3) (s : State) : Host.Outcome State Fault Refusal :=
  s.run (Enc.cAnd rdp rs2p) (s.hart.result (creg rdp) (s.hart.getX (creg rdp) &&& s.hart.getX (creg rs2p)))

/-- `c.andi rd', imm` (R374). -/
def execCAndi (rdp : BitVec 3) (imm : BitVec 6) (s : State) : Host.Outcome State Fault Refusal :=
  s.run (Enc.cAndi rdp imm) (s.hart.result (creg rdp) (s.hart.getX (creg rdp) &&& imm.signExtend s.cfg.xlen))

/-- `c.or rd', rs2'` (R375). -/
def execCOr (rdp rs2p : BitVec 3) (s : State) : Host.Outcome State Fault Refusal :=
  s.run (Enc.cOr rdp rs2p) (s.hart.result (creg rdp) (s.hart.getX (creg rdp) ||| s.hart.getX (creg rs2p)))

/-- `c.xor rd', rs2'` (R376). -/
def execCXor (rdp rs2p : BitVec 3) (s : State) : Host.Outcome State Fault Refusal :=
  s.run (Enc.cXor rdp rs2p) (s.hart.result (creg rdp) (s.hart.getX (creg rdp) ^^^ s.hart.getX (creg rs2p)))

/-- `c.slli rd, uimm` (R377). -/
def execCSlli (rd : BitVec 5) (uimm : BitVec 6) (s : State) : Host.Outcome State Fault Refusal :=
  s.run (Enc.cSlli rd uimm) (s.hart.result rd (s.hart.getX rd <<< uimm.toNat))

/-- `c.srli rd', uimm` (R378). -/
def execCSrli (rdp : BitVec 3) (uimm : BitVec 6) (s : State) : Host.Outcome State Fault Refusal :=
  s.run (Enc.cSrli rdp uimm) (s.hart.result (creg rdp) (s.hart.getX (creg rdp) >>> uimm.toNat))

/-- `c.srai rd', uimm` (R379). -/
def execCSrai (rdp : BitVec 3) (uimm : BitVec 6) (s : State) : Host.Outcome State Fault Refusal :=
  s.run (Enc.cSrai rdp uimm) (s.hart.result (creg rdp) ((s.hart.getX (creg rdp)).sshiftRight uimm.toNat))

/-- `c.mv rd, rs2` (R380). -/
def execCMv (rd rs2 : BitVec 5) (s : State) : Host.Outcome State Fault Refusal :=
  s.run (Enc.cMv rd rs2) (s.hart.result rd (s.hart.getX rs2))

/-- `c.li rd, imm` (R381). -/
def execCLi (rd : BitVec 5) (imm : BitVec 6) (s : State) : Host.Outcome State Fault Refusal :=
  s.run (Enc.cLi rd imm) (s.hart.result rd (imm.signExtend s.cfg.xlen))

/-- `c.lui rd, imm` (R382). -/
def execCLui (rd : BitVec 5) (imm : BitVec 6) (s : State) : Host.Outcome State Fault Refusal :=
  s.run (Enc.cLui rd imm) (s.hart.result rd ((imm ++ 0#12).signExtend s.cfg.xlen))

/-- `c.flw rd', rs1', uimm` (R384). -/
def execCFlw (rdp rs1p : BitVec 3) (uimm : BitVec 5) (s : State) : Host.Outcome State Fault Refusal :=
  s.run (Enc.cFlw rdp rs1p uimm) (s.hart.loadS (creg rdp) (s.hart.getX (creg rs1p) + scaledX s.cfg uimm 2))

/-- `c.flwsp rd, uimm` (R385). -/
def execCFlwsp (rd : BitVec 5) (uimm : BitVec 6) (s : State) : Host.Outcome State Fault Refusal :=
  s.run (Enc.cFlwsp rd uimm) (s.hart.loadS rd (s.hart.getX 2 + scaledX s.cfg uimm 2))

/-- `c.fsw rs2', rs1', uimm` (R386). -/
def execCFsw (rs2p rs1p : BitVec 3) (uimm : BitVec 5) (s : State) : Host.Outcome State Fault Refusal :=
  s.run (Enc.cFsw rs2p rs1p uimm) (s.hart.storeF (creg rs2p) (s.hart.getX (creg rs1p) + scaledX s.cfg uimm 2) 4)

/-- `c.fswsp rs2, uimm` (R387). -/
def execCFswsp (rs2 : BitVec 5) (uimm : BitVec 6) (s : State) : Host.Outcome State Fault Refusal :=
  s.run (Enc.cFswsp rs2 uimm) (s.hart.storeF rs2 (s.hart.getX 2 + scaledX s.cfg uimm 2) 4)

/-- `c.ld rd', rs1', uimm` (R526). -/
def execCLd (rdp rs1p : BitVec 3) (uimm : BitVec 5) (s : State) : Host.Outcome State Fault Refusal :=
  s.run (Enc.cLd rdp rs1p uimm) <|
    s.hart.loadX (creg rdp) (s.hart.getX (creg rs1p) + scaledX s.cfg uimm 3) 8 (unsignedLoad s.cfg 64)

/-- `c.ldsp rd, uimm` (R527). -/
def execCLdsp (rd : BitVec 5) (uimm : BitVec 6) (s : State) : Host.Outcome State Fault Refusal :=
  s.run (Enc.cLdsp rd uimm) (s.hart.loadX rd (s.hart.getX 2 + scaledX s.cfg uimm 3) 8 (unsignedLoad s.cfg 64))

/-- `c.sd rs2', rs1', uimm` (R528). -/
def execCSd (rs2p rs1p : BitVec 3) (uimm : BitVec 5) (s : State) : Host.Outcome State Fault Refusal :=
  s.run (Enc.cSd rs2p rs1p uimm) <|
    s.hart.storeMem (s.hart.getX (creg rs1p) + scaledX s.cfg uimm 3) 8 (to64 (s.hart.getX (creg rs2p)))

/-- `c.sdsp rs2, uimm` (R529). -/
def execCSdsp (rs2 : BitVec 5) (uimm : BitVec 6) (s : State) : Host.Outcome State Fault Refusal :=
  s.run (Enc.cSdsp rs2 uimm) (s.hart.storeMem (s.hart.getX 2 + scaledX s.cfg uimm 3) 8 (to64 (s.hart.getX rs2)))

/-- `c.addw rd', rs2'` (R530). -/
def execCAddw (rdp rs2p : BitVec 3) (s : State) : Host.Outcome State Fault Refusal :=
  s.run (Enc.cAddw rdp rs2p) <|
    s.hart.result (creg rdp) (sext32 s.cfg (low32 (s.hart.getX (creg rdp)) + low32 (s.hart.getX (creg rs2p))))

/-- `c.addiw rd, imm` (R531). -/
def execCAddiw (rd : BitVec 5) (imm : BitVec 6) (s : State) : Host.Outcome State Fault Refusal :=
  s.run (Enc.cAddiw rd imm) (s.hart.result rd (sext32 s.cfg (low32 (s.hart.getX rd + imm.signExtend s.cfg.xlen))))

/-- `c.subw rd', rs2'` (R532). -/
def execCSubw (rdp rs2p : BitVec 3) (s : State) : Host.Outcome State Fault Refusal :=
  s.run (Enc.cSubw rdp rs2p) <|
    s.hart.result (creg rdp) (sext32 s.cfg (low32 (s.hart.getX (creg rdp)) - low32 (s.hart.getX (creg rs2p))))

/-- `c.fld rd', rs1', uimm` (R533). -/
def execCFld (rdp rs1p : BitVec 3) (uimm : BitVec 5) (s : State) : Host.Outcome State Fault Refusal :=
  s.run (Enc.cFld rdp rs1p uimm) (s.hart.loadD (creg rdp) (s.hart.getX (creg rs1p) + scaledX s.cfg uimm 3))

/-- `c.fldsp rd, uimm` (R534). -/
def execCFldsp (rd : BitVec 5) (uimm : BitVec 6) (s : State) : Host.Outcome State Fault Refusal :=
  s.run (Enc.cFldsp rd uimm) (s.hart.loadD rd (s.hart.getX 2 + scaledX s.cfg uimm 3))

/-- `c.fsd rs2', rs1', uimm` (R535). -/
def execCFsd (rs2p rs1p : BitVec 3) (uimm : BitVec 5) (s : State) : Host.Outcome State Fault Refusal :=
  s.run (Enc.cFsd rs2p rs1p uimm) (s.hart.storeF (creg rs2p) (s.hart.getX (creg rs1p) + scaledX s.cfg uimm 3) 8)

/-- `c.fsdsp rs2, uimm` (R536). -/
def execCFsdsp (rs2 : BitVec 5) (uimm : BitVec 6) (s : State) : Host.Outcome State Fault Refusal :=
  s.run (Enc.cFsdsp rs2 uimm) (s.hart.storeF rs2 (s.hart.getX 2 + scaledX s.cfg uimm 3) 8)

end Sys2Proof.Machine
end

