-- ==== Sys2Proof/Machine/Control.lean ====
section
/-! DEFINITION. The meanings of the branches and jumps (R300 to R308), one definition for each
instruction over the shared shapes. -/

namespace Sys2Proof.Machine

open Sys2Proof

/-- `beq rs1, rs2, offset` (R301). -/
def execBeq (rs1 rs2 : BitVec 5) (offset : BitVec 12) (s : State) : Host.Outcome State Fault Refusal :=
  s.run (Enc.beq rs1 rs2 offset) (s.hart.branch (s.hart.getX rs1 == s.hart.getX rs2) offset)

/-- `bne rs1, rs2, offset` (R302). -/
def execBne (rs1 rs2 : BitVec 5) (offset : BitVec 12) (s : State) : Host.Outcome State Fault Refusal :=
  s.run (Enc.bne rs1 rs2 offset) (s.hart.branch (s.hart.getX rs1 != s.hart.getX rs2) offset)

/-- `blt rs1, rs2, offset` (R303). -/
def execBlt (rs1 rs2 : BitVec 5) (offset : BitVec 12) (s : State) : Host.Outcome State Fault Refusal :=
  s.run (Enc.blt rs1 rs2 offset) (s.hart.branch ((s.hart.getX rs1).slt (s.hart.getX rs2)) offset)

/-- `bge rs1, rs2, offset` (R304). -/
def execBge (rs1 rs2 : BitVec 5) (offset : BitVec 12) (s : State) : Host.Outcome State Fault Refusal :=
  s.run (Enc.bge rs1 rs2 offset) (s.hart.branch ((s.hart.getX rs2).sle (s.hart.getX rs1)) offset)

/-- `bltu rs1, rs2, offset` (R305). -/
def execBltu (rs1 rs2 : BitVec 5) (offset : BitVec 12) (s : State) : Host.Outcome State Fault Refusal :=
  s.run (Enc.bltu rs1 rs2 offset) (s.hart.branch ((s.hart.getX rs1).ult (s.hart.getX rs2)) offset)

/-- `bgeu rs1, rs2, offset` (R306). -/
def execBgeu (rs1 rs2 : BitVec 5) (offset : BitVec 12) (s : State) : Host.Outcome State Fault Refusal :=
  s.run (Enc.bgeu rs1 rs2 offset) (s.hart.branch ((s.hart.getX rs2).ule (s.hart.getX rs1)) offset)

/-- `jal rd, offset` (R307). -/
def execJal (rd : BitVec 5) (offset : BitVec 20) (s : State) : Host.Outcome State Fault Refusal :=
  s.run (Enc.jal rd offset) (s.hart.link rd 4 (s.hart.pc + offsetX s.cfg offset))

/-- `jalr rd, rs1, offset` (R308). -/
def execJalr (rd rs1 : BitVec 5) (offset : BitVec 12) (s : State) : Host.Outcome State Fault Refusal :=
  s.run (Enc.jalr rd rs1 offset) (s.hart.link rd 4 (evenAddr (s.hart.addr rs1 offset)))

end Sys2Proof.Machine
end

