-- ==== Sys2Proof/Machine/Double.lean ====
section
/-! DEFINITION. The meanings of the double-precision instructions (R480 to R518), one definition for each
instruction over the shared shapes. -/

namespace Sys2Proof.Machine

open Sys2Proof

/-- `fld rd, rs1, offset` (R481). -/
def execFld (rd rs1 : BitVec 5) (offset : BitVec 12) (s : State) : Host.Outcome State Fault Refusal :=
  s.run (Enc.fld rd rs1 offset) (s.hart.loadD rd (s.hart.addr rs1 offset))

/-- `fsd rs2, rs1, offset` (R482). -/
def execFsd (rs2 rs1 : BitVec 5) (offset : BitVec 12) (s : State) : Host.Outcome State Fault Refusal :=
  s.run (Enc.fsd rs2 rs1 offset) (s.hart.storeF rs2 (s.hart.addr rs1 offset) 8)

/-- `fmadd.d rd, rs1, rs2, rs3, rm` (R483). -/
def execFmaddD (rd rs1 rs2 rs3 : BitVec 5) (rm : BitVec 3) (s : State) : Host.Outcome State Fault Refusal :=
  s.run (Enc.fmaddD rd rs1 rs2 rs3 rm) <|
    s.hart.withRm rm fun m => s.hart.putD rd (fpFma .d m false false (s.hart.getD rs1) (s.hart.getD rs2) (s.hart.getD rs3))

/-- `fmsub.d rd, rs1, rs2, rs3, rm` (R484). -/
def execFmsubD (rd rs1 rs2 rs3 : BitVec 5) (rm : BitVec 3) (s : State) : Host.Outcome State Fault Refusal :=
  s.run (Enc.fmsubD rd rs1 rs2 rs3 rm) <|
    s.hart.withRm rm fun m => s.hart.putD rd (fpFma .d m false true (s.hart.getD rs1) (s.hart.getD rs2) (s.hart.getD rs3))

/-- `fnmsub.d rd, rs1, rs2, rs3, rm` (R485). -/
def execFnmsubD (rd rs1 rs2 rs3 : BitVec 5) (rm : BitVec 3) (s : State) : Host.Outcome State Fault Refusal :=
  s.run (Enc.fnmsubD rd rs1 rs2 rs3 rm) <|
    s.hart.withRm rm fun m => s.hart.putD rd (fpFma .d m true false (s.hart.getD rs1) (s.hart.getD rs2) (s.hart.getD rs3))

/-- `fnmadd.d rd, rs1, rs2, rs3, rm` (R486). -/
def execFnmaddD (rd rs1 rs2 rs3 : BitVec 5) (rm : BitVec 3) (s : State) : Host.Outcome State Fault Refusal :=
  s.run (Enc.fnmaddD rd rs1 rs2 rs3 rm) <|
    s.hart.withRm rm fun m => s.hart.putD rd (fpFma .d m true true (s.hart.getD rs1) (s.hart.getD rs2) (s.hart.getD rs3))

/-- `fadd.d rd, rs1, rs2, rm` (R487). -/
def execFaddD (rd rs1 rs2 : BitVec 5) (rm : BitVec 3) (s : State) : Host.Outcome State Fault Refusal :=
  s.run (Enc.faddD rd rs1 rs2 rm) <|
    s.hart.withRm rm fun m => s.hart.putD rd (fpAdd .d m (s.hart.getD rs1) (s.hart.getD rs2))

/-- `fsub.d rd, rs1, rs2, rm` (R488). -/
def execFsubD (rd rs1 rs2 : BitVec 5) (rm : BitVec 3) (s : State) : Host.Outcome State Fault Refusal :=
  s.run (Enc.fsubD rd rs1 rs2 rm) <|
    s.hart.withRm rm fun m => s.hart.putD rd (fpSub .d m (s.hart.getD rs1) (s.hart.getD rs2))

/-- `fmul.d rd, rs1, rs2, rm` (R489). -/
def execFmulD (rd rs1 rs2 : BitVec 5) (rm : BitVec 3) (s : State) : Host.Outcome State Fault Refusal :=
  s.run (Enc.fmulD rd rs1 rs2 rm) <|
    s.hart.withRm rm fun m => s.hart.putD rd (fpMul .d m (s.hart.getD rs1) (s.hart.getD rs2))

/-- `fdiv.d rd, rs1, rs2, rm` (R490). -/
def execFdivD (rd rs1 rs2 : BitVec 5) (rm : BitVec 3) (s : State) : Host.Outcome State Fault Refusal :=
  s.run (Enc.fdivD rd rs1 rs2 rm) <|
    s.hart.withRm rm fun m => s.hart.putD rd (fpDiv .d m (s.hart.getD rs1) (s.hart.getD rs2))

/-- `fsqrt.d rd, rs1, rm` (R491). -/
def execFsqrtD (rd rs1 : BitVec 5) (rm : BitVec 3) (s : State) : Host.Outcome State Fault Refusal :=
  s.run (Enc.fsqrtD rd rs1 rm) (s.hart.withRm rm fun m => s.hart.putD rd (fpSqrt .d m (s.hart.getD rs1)))

/-- `fsgnj.d rd, rs1, rs2` (R492). -/
def execFsgnjD (rd rs1 rs2 : BitVec 5) (s : State) : Host.Outcome State Fault Refusal :=
  s.run (Enc.fsgnjD rd rs1 rs2) <|
    s.hart.withFp (.next (s.hart.setD rd (withSign (s.hart.getD rs1) (signOf .d (s.hart.getD rs2)))))

/-- `fsgnjn.d rd, rs1, rs2` (R493). -/
def execFsgnjnD (rd rs1 rs2 : BitVec 5) (s : State) : Host.Outcome State Fault Refusal :=
  s.run (Enc.fsgnjnD rd rs1 rs2) <|
    s.hart.withFp (.next (s.hart.setD rd (withSign (s.hart.getD rs1) (!signOf .d (s.hart.getD rs2)))))

/-- `fsgnjx.d rd, rs1, rs2` (R494). -/
def execFsgnjxD (rd rs1 rs2 : BitVec 5) (s : State) : Host.Outcome State Fault Refusal :=
  s.run (Enc.fsgnjxD rd rs1 rs2) <|
    s.hart.withFp (.next (s.hart.setD rd (withSign (s.hart.getD rs1) (signOf .d (s.hart.getD rs1) ^^ signOf .d (s.hart.getD rs2)))))

/-- `fmin.d rd, rs1, rs2` (R495). -/
def execFminD (rd rs1 rs2 : BitVec 5) (s : State) : Host.Outcome State Fault Refusal :=
  s.run (Enc.fminD rd rs1 rs2) (s.hart.withFp (s.hart.putD rd (fpPick .d false (s.hart.getD rs1) (s.hart.getD rs2))))

/-- `fmax.d rd, rs1, rs2` (R496). -/
def execFmaxD (rd rs1 rs2 : BitVec 5) (s : State) : Host.Outcome State Fault Refusal :=
  s.run (Enc.fmaxD rd rs1 rs2) (s.hart.withFp (s.hart.putD rd (fpPick .d true (s.hart.getD rs1) (s.hart.getD rs2))))

/-- `fcvt.s.d rd, rs1, rm` (R497). -/
def execFcvtSD (rd rs1 : BitVec 5) (rm : BitVec 3) (s : State) : Host.Outcome State Fault Refusal :=
  s.run (Enc.fcvtSD rd rs1 rm) (s.hart.withRm rm fun m => s.hart.putS rd (fpToFp .d .s m (s.hart.getD rs1)))

/-- `fcvt.d.s rd, rs1, rm` (R498). -/
def execFcvtDS (rd rs1 : BitVec 5) (rm : BitVec 3) (s : State) : Host.Outcome State Fault Refusal :=
  s.run (Enc.fcvtDS rd rs1 rm) (s.hart.withRm rm fun m => s.hart.putD rd (fpToFp .s .d m (s.hart.getS rs1)))

/-- `fcvt.w.d rd, rs1, rm` (R499). -/
def execFcvtWD (rd rs1 : BitVec 5) (rm : BitVec 3) (s : State) : Host.Outcome State Fault Refusal :=
  s.run (Enc.fcvtWD rd rs1 rm) (s.hart.withRm rm fun m => s.hart.putInt32 rd (fpToInt .d m true 32 (s.hart.getD rs1)))

/-- `fcvt.wu.d rd, rs1, rm` (R500). -/
def execFcvtWuD (rd rs1 : BitVec 5) (rm : BitVec 3) (s : State) : Host.Outcome State Fault Refusal :=
  s.run (Enc.fcvtWuD rd rs1 rm) (s.hart.withRm rm fun m => s.hart.putInt32 rd (fpToInt .d m false 32 (s.hart.getD rs1)))

/-- `fcvt.d.w rd, rs1, rm` (R501). -/
def execFcvtDW (rd rs1 : BitVec 5) (rm : BitVec 3) (s : State) : Host.Outcome State Fault Refusal :=
  s.run (Enc.fcvtDW rd rs1 rm) (s.hart.withRm rm fun m => s.hart.putD rd (intToFp .d m (low32 (s.hart.getX rs1)).toInt))

/-- `fcvt.d.wu rd, rs1, rm` (R502). -/
def execFcvtDWu (rd rs1 : BitVec 5) (rm : BitVec 3) (s : State) : Host.Outcome State Fault Refusal :=
  s.run (Enc.fcvtDWu rd rs1 rm) <|
    s.hart.withRm rm fun m => s.hart.putD rd (intToFp .d m (low32 (s.hart.getX rs1)).toNat)

/-- `feq.d rd, rs1, rs2` (R503). -/
def execFeqD (rd rs1 rs2 : BitVec 5) (s : State) : Host.Outcome State Fault Refusal :=
  s.run (Enc.feqD rd rs1 rs2) (s.hart.withFp (s.hart.putBool rd (fpEq .d (s.hart.getD rs1) (s.hart.getD rs2))))

/-- `flt.d rd, rs1, rs2` (R504). -/
def execFltD (rd rs1 rs2 : BitVec 5) (s : State) : Host.Outcome State Fault Refusal :=
  s.run (Enc.fltD rd rs1 rs2) (s.hart.withFp (s.hart.putBool rd (fpLt .d (s.hart.getD rs1) (s.hart.getD rs2))))

/-- `fle.d rd, rs1, rs2` (R505). -/
def execFleD (rd rs1 rs2 : BitVec 5) (s : State) : Host.Outcome State Fault Refusal :=
  s.run (Enc.fleD rd rs1 rs2) (s.hart.withFp (s.hart.putBool rd (fpLe .d (s.hart.getD rs1) (s.hart.getD rs2))))

/-- `fmv.d.x rd, rs1` (R506). -/
def execFmvDX (rd rs1 : BitVec 5) (s : State) : Host.Outcome State Fault Refusal :=
  s.run (Enc.fmvDX rd rs1) (s.hart.withFp (.next (s.hart.setD rd (to64 (s.hart.getX rs1)))))

/-- `fmv.x.d rd, rs1` (R507). -/
def execFmvXD (rd rs1 : BitVec 5) (s : State) : Host.Outcome State Fault Refusal :=
  s.run (Enc.fmvXD rd rs1) (s.hart.withFp (s.hart.result rd ((s.hart.getF rs1).setWidth s.cfg.xlen)))

/-- `fcvt.d.l rd, rs1, rm` (R508). -/
def execFcvtDL (rd rs1 : BitVec 5) (rm : BitVec 3) (s : State) : Host.Outcome State Fault Refusal :=
  s.run (Enc.fcvtDL rd rs1 rm) (s.hart.withRm rm fun m => s.hart.putD rd (intToFp .d m (s.hart.getX rs1).toInt))

/-- `fcvt.d.lu rd, rs1, rm` (R509). -/
def execFcvtDLu (rd rs1 : BitVec 5) (rm : BitVec 3) (s : State) : Host.Outcome State Fault Refusal :=
  s.run (Enc.fcvtDLu rd rs1 rm) (s.hart.withRm rm fun m => s.hart.putD rd (intToFp .d m (s.hart.getX rs1).toNat))

/-- `fcvt.l.d rd, rs1, rm` (R510). -/
def execFcvtLD (rd rs1 : BitVec 5) (rm : BitVec 3) (s : State) : Host.Outcome State Fault Refusal :=
  s.run (Enc.fcvtLD rd rs1 rm) (s.hart.withRm rm fun m => s.hart.putInt64 rd (fpToInt .d m true 64 (s.hart.getD rs1)))

/-- `fcvt.lu.d rd, rs1, rm` (R512). -/
def execFcvtLuD (rd rs1 : BitVec 5) (rm : BitVec 3) (s : State) : Host.Outcome State Fault Refusal :=
  s.run (Enc.fcvtLuD rd rs1 rm) (s.hart.withRm rm fun m => s.hart.putInt64 rd (fpToInt .d m false 64 (s.hart.getD rs1)))

/-- `fclass.d rd, rs1` (R516). -/
def execFclassD (rd rs1 : BitVec 5) (s : State) : Host.Outcome State Fault Refusal :=
  s.run (Enc.fclassD rd rs1) <|
    s.hart.withFp (s.hart.result rd (BitVec.twoPow s.cfg.xlen (fpClass .d (s.hart.getD rs1))))

end Sys2Proof.Machine
end

