-- ==== Sys2Proof/Machine/Integer.lean ====
section
/-! DEFINITION. The meanings of the loads, stores and integer computation of RV32I (R260 to R292), one definition for each
instruction over the shared shapes. -/

namespace Sys2Proof.Machine

open Sys2Proof

/-- `lb rd, rs1, offset` (R262). -/
def execLb (rd rs1 : BitVec 5) (offset : BitVec 12) (s : State) : Host.Outcome State Fault Refusal :=
  s.run (Enc.lb rd rs1 offset) (s.hart.loadX rd (s.hart.addr rs1 offset) 1 (signedLoad s.cfg 8))

/-- `lbu rd, rs1, offset` (R263). -/
def execLbu (rd rs1 : BitVec 5) (offset : BitVec 12) (s : State) : Host.Outcome State Fault Refusal :=
  s.run (Enc.lbu rd rs1 offset) (s.hart.loadX rd (s.hart.addr rs1 offset) 1 (unsignedLoad s.cfg 8))

/-- `lh rd, rs1, offset` (R264). -/
def execLh (rd rs1 : BitVec 5) (offset : BitVec 12) (s : State) : Host.Outcome State Fault Refusal :=
  s.run (Enc.lh rd rs1 offset) (s.hart.loadX rd (s.hart.addr rs1 offset) 2 (signedLoad s.cfg 16))

/-- `lhu rd, rs1, offset` (R265). -/
def execLhu (rd rs1 : BitVec 5) (offset : BitVec 12) (s : State) : Host.Outcome State Fault Refusal :=
  s.run (Enc.lhu rd rs1 offset) (s.hart.loadX rd (s.hart.addr rs1 offset) 2 (unsignedLoad s.cfg 16))

/-- `lw rd, rs1, offset` (R266). -/
def execLw (rd rs1 : BitVec 5) (offset : BitVec 12) (s : State) : Host.Outcome State Fault Refusal :=
  s.run (Enc.lw rd rs1 offset) (s.hart.loadX rd (s.hart.addr rs1 offset) 4 (signedLoad s.cfg 32))

/-- `sb rs2, rs1, offset` (R267). -/
def execSb (rs2 rs1 : BitVec 5) (offset : BitVec 12) (s : State) : Host.Outcome State Fault Refusal :=
  s.run (Enc.sb rs2 rs1 offset) (s.hart.storeMem (s.hart.addr rs1 offset) 1 (to64 (s.hart.getX rs2)))

/-- `sh rs2, rs1, offset` (R268). -/
def execSh (rs2 rs1 : BitVec 5) (offset : BitVec 12) (s : State) : Host.Outcome State Fault Refusal :=
  s.run (Enc.sh rs2 rs1 offset) (s.hart.storeMem (s.hart.addr rs1 offset) 2 (to64 (s.hart.getX rs2)))

/-- `sw rs2, rs1, offset` (R269). -/
def execSw (rs2 rs1 : BitVec 5) (offset : BitVec 12) (s : State) : Host.Outcome State Fault Refusal :=
  s.run (Enc.sw rs2 rs1 offset) (s.hart.storeMem (s.hart.addr rs1 offset) 4 (to64 (s.hart.getX rs2)))

/-- `sll rd, rs1, rs2` (R272). -/
def execSll (rd rs1 rs2 : BitVec 5) (s : State) : Host.Outcome State Fault Refusal :=
  s.run (Enc.sll rd rs1 rs2) (s.hart.result rd (s.hart.getX rs1 <<< s.hart.shiftAmount rs2))

/-- `slli rd, rs1, shamt` (R273). -/
def execSlli (rd rs1 : BitVec 5) (shamt : BitVec 6) (s : State) : Host.Outcome State Fault Refusal :=
  s.run (Enc.slli rd rs1 shamt) (s.hart.result rd (s.hart.getX rs1 <<< shamt.toNat))

/-- `srl rd, rs1, rs2` (R274). -/
def execSrl (rd rs1 rs2 : BitVec 5) (s : State) : Host.Outcome State Fault Refusal :=
  s.run (Enc.srl rd rs1 rs2) (s.hart.result rd (s.hart.getX rs1 >>> s.hart.shiftAmount rs2))

/-- `srli rd, rs1, shamt` (R275). -/
def execSrli (rd rs1 : BitVec 5) (shamt : BitVec 6) (s : State) : Host.Outcome State Fault Refusal :=
  s.run (Enc.srli rd rs1 shamt) (s.hart.result rd (s.hart.getX rs1 >>> shamt.toNat))

/-- `sra rd, rs1, rs2` (R276). -/
def execSra (rd rs1 rs2 : BitVec 5) (s : State) : Host.Outcome State Fault Refusal :=
  s.run (Enc.sra rd rs1 rs2) (s.hart.result rd ((s.hart.getX rs1).sshiftRight (s.hart.shiftAmount rs2)))

/-- `srai rd, rs1, shamt` (R277). -/
def execSrai (rd rs1 : BitVec 5) (shamt : BitVec 6) (s : State) : Host.Outcome State Fault Refusal :=
  s.run (Enc.srai rd rs1 shamt) (s.hart.result rd ((s.hart.getX rs1).sshiftRight shamt.toNat))

/-- `add rd, rs1, rs2` (R278). -/
def execAdd (rd rs1 rs2 : BitVec 5) (s : State) : Host.Outcome State Fault Refusal :=
  s.run (Enc.add rd rs1 rs2) (s.hart.result rd (s.hart.getX rs1 + s.hart.getX rs2))

/-- `addi rd, rs1, imm` (R279). -/
def execAddi (rd rs1 : BitVec 5) (imm : BitVec 12) (s : State) : Host.Outcome State Fault Refusal :=
  s.run (Enc.addi rd rs1 imm) (s.hart.result rd (s.hart.getX rs1 + immX s.cfg imm))

/-- `sub rd, rs1, rs2` (R280). -/
def execSub (rd rs1 rs2 : BitVec 5) (s : State) : Host.Outcome State Fault Refusal :=
  s.run (Enc.sub rd rs1 rs2) (s.hart.result rd (s.hart.getX rs1 - s.hart.getX rs2))

/-- `lui rd, imm` (R281). -/
def execLui (rd : BitVec 5) (imm : BitVec 20) (s : State) : Host.Outcome State Fault Refusal :=
  s.run (Enc.lui rd imm) (s.hart.result rd (upperX s.cfg imm))

/-- `auipc rd, imm` (R282). -/
def execAuipc (rd : BitVec 5) (imm : BitVec 20) (s : State) : Host.Outcome State Fault Refusal :=
  s.run (Enc.auipc rd imm) (s.hart.result rd (s.hart.pc + upperX s.cfg imm))

/-- `and rd, rs1, rs2` (R283). -/
def execAnd (rd rs1 rs2 : BitVec 5) (s : State) : Host.Outcome State Fault Refusal :=
  s.run (Enc.and rd rs1 rs2) (s.hart.result rd (s.hart.getX rs1 &&& s.hart.getX rs2))

/-- `andi rd, rs1, imm` (R284). -/
def execAndi (rd rs1 : BitVec 5) (imm : BitVec 12) (s : State) : Host.Outcome State Fault Refusal :=
  s.run (Enc.andi rd rs1 imm) (s.hart.result rd (s.hart.getX rs1 &&& immX s.cfg imm))

/-- `or rd, rs1, rs2` (R285). -/
def execOr (rd rs1 rs2 : BitVec 5) (s : State) : Host.Outcome State Fault Refusal :=
  s.run (Enc.or rd rs1 rs2) (s.hart.result rd (s.hart.getX rs1 ||| s.hart.getX rs2))

/-- `ori rd, rs1, imm` (R286). -/
def execOri (rd rs1 : BitVec 5) (imm : BitVec 12) (s : State) : Host.Outcome State Fault Refusal :=
  s.run (Enc.ori rd rs1 imm) (s.hart.result rd (s.hart.getX rs1 ||| immX s.cfg imm))

/-- `xor rd, rs1, rs2` (R287). -/
def execXor (rd rs1 rs2 : BitVec 5) (s : State) : Host.Outcome State Fault Refusal :=
  s.run (Enc.xor rd rs1 rs2) (s.hart.result rd (s.hart.getX rs1 ^^^ s.hart.getX rs2))

/-- `xori rd, rs1, imm` (R288). -/
def execXori (rd rs1 : BitVec 5) (imm : BitVec 12) (s : State) : Host.Outcome State Fault Refusal :=
  s.run (Enc.xori rd rs1 imm) (s.hart.result rd (s.hart.getX rs1 ^^^ immX s.cfg imm))

/-- `slt rd, rs1, rs2` (R289). -/
def execSlt (rd rs1 rs2 : BitVec 5) (s : State) : Host.Outcome State Fault Refusal :=
  s.run (Enc.slt rd rs1 rs2) (s.hart.result rd (boolX s.cfg ((s.hart.getX rs1).slt (s.hart.getX rs2))))

/-- `sltu rd, rs1, rs2` (R290). -/
def execSltu (rd rs1 rs2 : BitVec 5) (s : State) : Host.Outcome State Fault Refusal :=
  s.run (Enc.sltu rd rs1 rs2) (s.hart.result rd (boolX s.cfg ((s.hart.getX rs1).ult (s.hart.getX rs2))))

/-- `slti rd, rs1, imm` (R291). -/
def execSlti (rd rs1 : BitVec 5) (imm : BitVec 12) (s : State) : Host.Outcome State Fault Refusal :=
  s.run (Enc.slti rd rs1 imm) (s.hart.result rd (boolX s.cfg ((s.hart.getX rs1).slt (immX s.cfg imm))))

/-- `sltiu rd, rs1, imm` (R292). -/
def execSltiu (rd rs1 : BitVec 5) (imm : BitVec 12) (s : State) : Host.Outcome State Fault Refusal :=
  s.run (Enc.sltiu rd rs1 imm) (s.hart.result rd (boolX s.cfg ((s.hart.getX rs1).ult (immX s.cfg imm))))

end Sys2Proof.Machine
end

