-- ==== Sys2Proof/Machine/Integer64.lean ====
section
/-! DEFINITION. The meanings of the RV64I loads, stores and 32-bit computation (R440 to R452), one definition for each
instruction over the shared shapes. -/

namespace Sys2Proof.Machine

open Sys2Proof

/-- `lwu rd, rs1, offset` (R441). -/
def execLwu (rd rs1 : BitVec 5) (offset : BitVec 12) (s : State) : Host.Outcome State Fault Refusal :=
  s.run (Enc.lwu rd rs1 offset) (s.hart.loadX rd (s.hart.addr rs1 offset) 4 (unsignedLoad s.cfg 32))

/-- `ld rd, rs1, offset` (R442). -/
def execLd (rd rs1 : BitVec 5) (offset : BitVec 12) (s : State) : Host.Outcome State Fault Refusal :=
  s.run (Enc.ld rd rs1 offset) (s.hart.loadX rd (s.hart.addr rs1 offset) 8 (unsignedLoad s.cfg 64))

/-- `sd rs2, rs1, offset` (R443). -/
def execSd (rs2 rs1 : BitVec 5) (offset : BitVec 12) (s : State) : Host.Outcome State Fault Refusal :=
  s.run (Enc.sd rs2 rs1 offset) (s.hart.storeMem (s.hart.addr rs1 offset) 8 (to64 (s.hart.getX rs2)))

/-- `addw rd, rs1, rs2` (R444). -/
def execAddw (rd rs1 rs2 : BitVec 5) (s : State) : Host.Outcome State Fault Refusal :=
  s.run (Enc.addw rd rs1 rs2) (s.hart.result rd (sext32 s.cfg (low32 (s.hart.getX rs1) + low32 (s.hart.getX rs2))))

/-- `addiw rd, rs1, imm` (R445). -/
def execAddiw (rd rs1 : BitVec 5) (imm : BitVec 12) (s : State) : Host.Outcome State Fault Refusal :=
  s.run (Enc.addiw rd rs1 imm) (s.hart.result rd (sext32 s.cfg (low32 (s.hart.getX rs1 + immX s.cfg imm))))

/-- `subw rd, rs1, rs2` (R446). -/
def execSubw (rd rs1 rs2 : BitVec 5) (s : State) : Host.Outcome State Fault Refusal :=
  s.run (Enc.subw rd rs1 rs2) (s.hart.result rd (sext32 s.cfg (low32 (s.hart.getX rs1) - low32 (s.hart.getX rs2))))

/-- `sllw rd, rs1, rs2` (R447). -/
def execSllw (rd rs1 rs2 : BitVec 5) (s : State) : Host.Outcome State Fault Refusal :=
  s.run (Enc.sllw rd rs1 rs2) <|
    s.hart.result rd (sext32 s.cfg (low32 (s.hart.getX rs1) <<< ((s.hart.getX rs2).toNat % 32)))

/-- `slliw rd, rs1, shamt` (R448). -/
def execSlliw (rd rs1 shamt : BitVec 5) (s : State) : Host.Outcome State Fault Refusal :=
  s.run (Enc.slliw rd rs1 shamt) (s.hart.result rd (sext32 s.cfg (low32 (s.hart.getX rs1) <<< shamt.toNat)))

/-- `sraw rd, rs1, rs2` (R449). -/
def execSraw (rd rs1 rs2 : BitVec 5) (s : State) : Host.Outcome State Fault Refusal :=
  s.run (Enc.sraw rd rs1 rs2) <|
    s.hart.result rd (sext32 s.cfg ((low32 (s.hart.getX rs1)).sshiftRight ((s.hart.getX rs2).toNat % 32)))

/-- `sraiw rd, rs1, shamt` (R450). -/
def execSraiw (rd rs1 shamt : BitVec 5) (s : State) : Host.Outcome State Fault Refusal :=
  s.run (Enc.sraiw rd rs1 shamt) (s.hart.result rd (sext32 s.cfg ((low32 (s.hart.getX rs1)).sshiftRight shamt.toNat)))

/-- `srliw rd, rs1, shamt` (R451). -/
def execSrliw (rd rs1 shamt : BitVec 5) (s : State) : Host.Outcome State Fault Refusal :=
  s.run (Enc.srliw rd rs1 shamt) (s.hart.result rd (sext32 s.cfg (low32 (s.hart.getX rs1) >>> shamt.toNat)))

/-- `srlw rd, rs1, rs2` (R452). -/
def execSrlw (rd rs1 rs2 : BitVec 5) (s : State) : Host.Outcome State Fault Refusal :=
  s.run (Enc.srlw rd rs1 rs2) <|
    s.hart.result rd (sext32 s.cfg (low32 (s.hart.getX rs1) >>> ((s.hart.getX rs2).toNat % 32)))

end Sys2Proof.Machine
end

