-- ==== Sys2Proof/Machine/MulDiv.lean ====
section
/-! DEFINITION. The meanings of multiplication and division (R340 to R349, R453 to R458), one definition for each
instruction over the shared shapes. -/

namespace Sys2Proof.Machine

open Sys2Proof

/-- `mul rd, rs1, rs2` (R342). -/
def execMul (rd rs1 rs2 : BitVec 5) (s : State) : Host.Outcome State Fault Refusal :=
  s.run (Enc.mul rd rs1 rs2) (s.hart.result rd (s.hart.getX rs1 * s.hart.getX rs2))

/-- `mulh rd, rs1, rs2` (R343). -/
def execMulh (rd rs1 rs2 : BitVec 5) (s : State) : Host.Outcome State Fault Refusal :=
  s.run (Enc.mulh rd rs1 rs2) (s.hart.result rd (highProduct true true (s.hart.getX rs1) (s.hart.getX rs2)))

/-- `mulhsu rd, rs1, rs2` (R344). -/
def execMulhsu (rd rs1 rs2 : BitVec 5) (s : State) : Host.Outcome State Fault Refusal :=
  s.run (Enc.mulhsu rd rs1 rs2) (s.hart.result rd (highProduct true false (s.hart.getX rs1) (s.hart.getX rs2)))

/-- `mulhu rd, rs1, rs2` (R345). -/
def execMulhu (rd rs1 rs2 : BitVec 5) (s : State) : Host.Outcome State Fault Refusal :=
  s.run (Enc.mulhu rd rs1 rs2) (s.hart.result rd (highProduct false false (s.hart.getX rs1) (s.hart.getX rs2)))

/-- `div rd, rs1, rs2` (R346). -/
def execDiv (rd rs1 rs2 : BitVec 5) (s : State) : Host.Outcome State Fault Refusal :=
  s.run (Enc.div rd rs1 rs2) (s.hart.result rd (divSigned (s.hart.getX rs1) (s.hart.getX rs2)))

/-- `divu rd, rs1, rs2` (R347). -/
def execDivu (rd rs1 rs2 : BitVec 5) (s : State) : Host.Outcome State Fault Refusal :=
  s.run (Enc.divu rd rs1 rs2) (s.hart.result rd (divUnsigned (s.hart.getX rs1) (s.hart.getX rs2)))

/-- `rem rd, rs1, rs2` (R348). -/
def execRem (rd rs1 rs2 : BitVec 5) (s : State) : Host.Outcome State Fault Refusal :=
  s.run (Enc.rem rd rs1 rs2) (s.hart.result rd (remSigned (s.hart.getX rs1) (s.hart.getX rs2)))

/-- `remu rd, rs1, rs2` (R349). -/
def execRemu (rd rs1 rs2 : BitVec 5) (s : State) : Host.Outcome State Fault Refusal :=
  s.run (Enc.remu rd rs1 rs2) (s.hart.result rd (remUnsigned (s.hart.getX rs1) (s.hart.getX rs2)))

/-- `mulw rd, rs1, rs2` (R454). -/
def execMulw (rd rs1 rs2 : BitVec 5) (s : State) : Host.Outcome State Fault Refusal :=
  s.run (Enc.mulw rd rs1 rs2) (s.hart.result rd (sext32 s.cfg (low32 (s.hart.getX rs1) * low32 (s.hart.getX rs2))))

/-- `divw rd, rs1, rs2` (R455). -/
def execDivw (rd rs1 rs2 : BitVec 5) (s : State) : Host.Outcome State Fault Refusal :=
  s.run (Enc.divw rd rs1 rs2) <|
    s.hart.result rd (sext32 s.cfg (divSigned (low32 (s.hart.getX rs1)) (low32 (s.hart.getX rs2))))

/-- `divuw rd, rs1, rs2` (R456). -/
def execDivuw (rd rs1 rs2 : BitVec 5) (s : State) : Host.Outcome State Fault Refusal :=
  s.run (Enc.divuw rd rs1 rs2) <|
    s.hart.result rd (sext32 s.cfg (divUnsigned (low32 (s.hart.getX rs1)) (low32 (s.hart.getX rs2))))

/-- `remw rd, rs1, rs2` (R457). -/
def execRemw (rd rs1 rs2 : BitVec 5) (s : State) : Host.Outcome State Fault Refusal :=
  s.run (Enc.remw rd rs1 rs2) <|
    s.hart.result rd (sext32 s.cfg (remSigned (low32 (s.hart.getX rs1)) (low32 (s.hart.getX rs2))))

/-- `remuw rd, rs1, rs2` (R458). -/
def execRemuw (rd rs1 rs2 : BitVec 5) (s : State) : Host.Outcome State Fault Refusal :=
  s.run (Enc.remuw rd rs1 rs2) <|
    s.hart.result rd (sext32 s.cfg (remUnsigned (low32 (s.hart.getX rs1)) (low32 (s.hart.getX rs2))))

end Sys2Proof.Machine
end

