-- ==== Sys2Proof/Machine/Single.lean ====
section
/-! DEFINITION. The meanings of the single-precision instructions (R410 to R435, R511, R513 to R515), one definition for each
instruction over the shared shapes. -/

namespace Sys2Proof.Machine

open Sys2Proof

/-- `flw rd, rs1, offset` (R410). -/
def execFlw (rd rs1 : BitVec 5) (offset : BitVec 12) (s : State) : Host.Outcome State Fault Refusal :=
  s.run (Enc.flw rd rs1 offset) (s.hart.loadS rd (s.hart.addr rs1 offset))

/-- `fsw rs2, rs1, offset` (R411). -/
def execFsw (rs2 rs1 : BitVec 5) (offset : BitVec 12) (s : State) : Host.Outcome State Fault Refusal :=
  s.run (Enc.fsw rs2 rs1 offset) (s.hart.storeF rs2 (s.hart.addr rs1 offset) 4)

/-- `fmadd.s rd, rs1, rs2, rs3, rm` (R412). -/
def execFmaddS (rd rs1 rs2 rs3 : BitVec 5) (rm : BitVec 3) (s : State) : Host.Outcome State Fault Refusal :=
  s.run (Enc.fmaddS rd rs1 rs2 rs3 rm) <|
    s.hart.withRm rm fun m => s.hart.putS rd (fpFma .s m false false (s.hart.getS rs1) (s.hart.getS rs2) (s.hart.getS rs3))

/-- `fmsub.s rd, rs1, rs2, rs3, rm` (R413). -/
def execFmsubS (rd rs1 rs2 rs3 : BitVec 5) (rm : BitVec 3) (s : State) : Host.Outcome State Fault Refusal :=
  s.run (Enc.fmsubS rd rs1 rs2 rs3 rm) <|
    s.hart.withRm rm fun m => s.hart.putS rd (fpFma .s m false true (s.hart.getS rs1) (s.hart.getS rs2) (s.hart.getS rs3))

/-- `fnmadd.s rd, rs1, rs2, rs3, rm` (R414). -/
def execFnmaddS (rd rs1 rs2 rs3 : BitVec 5) (rm : BitVec 3) (s : State) : Host.Outcome State Fault Refusal :=
  s.run (Enc.fnmaddS rd rs1 rs2 rs3 rm) <|
    s.hart.withRm rm fun m => s.hart.putS rd (fpFma .s m true true (s.hart.getS rs1) (s.hart.getS rs2) (s.hart.getS rs3))

/-- `fnmsub.s rd, rs1, rs2, rs3, rm` (R415). -/
def execFnmsubS (rd rs1 rs2 rs3 : BitVec 5) (rm : BitVec 3) (s : State) : Host.Outcome State Fault Refusal :=
  s.run (Enc.fnmsubS rd rs1 rs2 rs3 rm) <|
    s.hart.withRm rm fun m => s.hart.putS rd (fpFma .s m true false (s.hart.getS rs1) (s.hart.getS rs2) (s.hart.getS rs3))

/-- `fadd.s rd, rs1, rs2, rm` (R416). -/
def execFaddS (rd rs1 rs2 : BitVec 5) (rm : BitVec 3) (s : State) : Host.Outcome State Fault Refusal :=
  s.run (Enc.faddS rd rs1 rs2 rm) <|
    s.hart.withRm rm fun m => s.hart.putS rd (fpAdd .s m (s.hart.getS rs1) (s.hart.getS rs2))

/-- `fsub.s rd, rs1, rs2, rm` (R417). -/
def execFsubS (rd rs1 rs2 : BitVec 5) (rm : BitVec 3) (s : State) : Host.Outcome State Fault Refusal :=
  s.run (Enc.fsubS rd rs1 rs2 rm) <|
    s.hart.withRm rm fun m => s.hart.putS rd (fpSub .s m (s.hart.getS rs1) (s.hart.getS rs2))

/-- `fmul.s rd, rs1, rs2, rm` (R418). -/
def execFmulS (rd rs1 rs2 : BitVec 5) (rm : BitVec 3) (s : State) : Host.Outcome State Fault Refusal :=
  s.run (Enc.fmulS rd rs1 rs2 rm) <|
    s.hart.withRm rm fun m => s.hart.putS rd (fpMul .s m (s.hart.getS rs1) (s.hart.getS rs2))

/-- `fdiv.s rd, rs1, rs2, rm` (R419). -/
def execFdivS (rd rs1 rs2 : BitVec 5) (rm : BitVec 3) (s : State) : Host.Outcome State Fault Refusal :=
  s.run (Enc.fdivS rd rs1 rs2 rm) <|
    s.hart.withRm rm fun m => s.hart.putS rd (fpDiv .s m (s.hart.getS rs1) (s.hart.getS rs2))

/-- `fsqrt.s rd, rs1, rm` (R420). -/
def execFsqrtS (rd rs1 : BitVec 5) (rm : BitVec 3) (s : State) : Host.Outcome State Fault Refusal :=
  s.run (Enc.fsqrtS rd rs1 rm) (s.hart.withRm rm fun m => s.hart.putS rd (fpSqrt .s m (s.hart.getS rs1)))

/-- `fmin.s rd, rs1, rs2` (R421). -/
def execFminS (rd rs1 rs2 : BitVec 5) (s : State) : Host.Outcome State Fault Refusal :=
  s.run (Enc.fminS rd rs1 rs2) (s.hart.withFp (s.hart.putS rd (fpPick .s false (s.hart.getS rs1) (s.hart.getS rs2))))

/-- `fmax.s rd, rs1, rs2` (R422). -/
def execFmaxS (rd rs1 rs2 : BitVec 5) (s : State) : Host.Outcome State Fault Refusal :=
  s.run (Enc.fmaxS rd rs1 rs2) (s.hart.withFp (s.hart.putS rd (fpPick .s true (s.hart.getS rs1) (s.hart.getS rs2))))

/-- `fcvt.w.s rd, rs1, rm` (R423). -/
def execFcvtWS (rd rs1 : BitVec 5) (rm : BitVec 3) (s : State) : Host.Outcome State Fault Refusal :=
  s.run (Enc.fcvtWS rd rs1 rm) (s.hart.withRm rm fun m => s.hart.putInt32 rd (fpToInt .s m true 32 (s.hart.getS rs1)))

/-- `fcvt.wu.s rd, rs1, rm` (R424). -/
def execFcvtWuS (rd rs1 : BitVec 5) (rm : BitVec 3) (s : State) : Host.Outcome State Fault Refusal :=
  s.run (Enc.fcvtWuS rd rs1 rm) (s.hart.withRm rm fun m => s.hart.putInt32 rd (fpToInt .s m false 32 (s.hart.getS rs1)))

/-- `fcvt.s.w rd, rs1, rm` (R425). -/
def execFcvtSW (rd rs1 : BitVec 5) (rm : BitVec 3) (s : State) : Host.Outcome State Fault Refusal :=
  s.run (Enc.fcvtSW rd rs1 rm) (s.hart.withRm rm fun m => s.hart.putS rd (intToFp .s m (low32 (s.hart.getX rs1)).toInt))

/-- `fcvt.s.wu rd, rs1, rm` (R426). -/
def execFcvtSWu (rd rs1 : BitVec 5) (rm : BitVec 3) (s : State) : Host.Outcome State Fault Refusal :=
  s.run (Enc.fcvtSWu rd rs1 rm) <|
    s.hart.withRm rm fun m => s.hart.putS rd (intToFp .s m (low32 (s.hart.getX rs1)).toNat)

/-- `fsgnj.s rd, rs1, rs2` (R427). -/
def execFsgnjS (rd rs1 rs2 : BitVec 5) (s : State) : Host.Outcome State Fault Refusal :=
  s.run (Enc.fsgnjS rd rs1 rs2) <|
    s.hart.withFp (.next (s.hart.setS rd (withSign (s.hart.getS rs1) (signOf .s (s.hart.getS rs2)))))

/-- `fsgnjn.s rd, rs1, rs2` (R428). -/
def execFsgnjnS (rd rs1 rs2 : BitVec 5) (s : State) : Host.Outcome State Fault Refusal :=
  s.run (Enc.fsgnjnS rd rs1 rs2) <|
    s.hart.withFp (.next (s.hart.setS rd (withSign (s.hart.getS rs1) (!signOf .s (s.hart.getS rs2)))))

/-- `fsgnjx.s rd, rs1, rs2` (R429). -/
def execFsgnjxS (rd rs1 rs2 : BitVec 5) (s : State) : Host.Outcome State Fault Refusal :=
  s.run (Enc.fsgnjxS rd rs1 rs2) <|
    s.hart.withFp (.next (s.hart.setS rd (withSign (s.hart.getS rs1) (signOf .s (s.hart.getS rs1) ^^ signOf .s (s.hart.getS rs2)))))

/-- `fmv.x.w rd, rs1` (R430). -/
def execFmvXW (rd rs1 : BitVec 5) (s : State) : Host.Outcome State Fault Refusal :=
  s.run (Enc.fmvXW rd rs1) (s.hart.withFp (s.hart.result rd (sext32 s.cfg (low32 (s.hart.getF rs1)))))

/-- `fmv.w.x rd, rs1` (R431). -/
def execFmvWX (rd rs1 : BitVec 5) (s : State) : Host.Outcome State Fault Refusal :=
  s.run (Enc.fmvWX rd rs1) (s.hart.withFp (.next (s.hart.setS rd (low32 (s.hart.getX rs1)))))

/-- `feq.s rd, rs1, rs2` (R432). -/
def execFeqS (rd rs1 rs2 : BitVec 5) (s : State) : Host.Outcome State Fault Refusal :=
  s.run (Enc.feqS rd rs1 rs2) (s.hart.withFp (s.hart.putBool rd (fpEq .s (s.hart.getS rs1) (s.hart.getS rs2))))

/-- `flt.s rd, rs1, rs2` (R433). -/
def execFltS (rd rs1 rs2 : BitVec 5) (s : State) : Host.Outcome State Fault Refusal :=
  s.run (Enc.fltS rd rs1 rs2) (s.hart.withFp (s.hart.putBool rd (fpLt .s (s.hart.getS rs1) (s.hart.getS rs2))))

/-- `fle.s rd, rs1, rs2` (R434). -/
def execFleS (rd rs1 rs2 : BitVec 5) (s : State) : Host.Outcome State Fault Refusal :=
  s.run (Enc.fleS rd rs1 rs2) (s.hart.withFp (s.hart.putBool rd (fpLe .s (s.hart.getS rs1) (s.hart.getS rs2))))

/-- `fclass.s rd, rs1` (R435). -/
def execFclassS (rd rs1 : BitVec 5) (s : State) : Host.Outcome State Fault Refusal :=
  s.run (Enc.fclassS rd rs1) <|
    s.hart.withFp (s.hart.result rd (BitVec.twoPow s.cfg.xlen (fpClass .s (s.hart.getS rs1))))

/-- `fcvt.l.s rd, rs1, rm` (R511). -/
def execFcvtLS (rd rs1 : BitVec 5) (rm : BitVec 3) (s : State) : Host.Outcome State Fault Refusal :=
  s.run (Enc.fcvtLS rd rs1 rm) (s.hart.withRm rm fun m => s.hart.putInt64 rd (fpToInt .s m true 64 (s.hart.getS rs1)))

/-- `fcvt.lu.s rd, rs1, rm` (R513). -/
def execFcvtLuS (rd rs1 : BitVec 5) (rm : BitVec 3) (s : State) : Host.Outcome State Fault Refusal :=
  s.run (Enc.fcvtLuS rd rs1 rm) (s.hart.withRm rm fun m => s.hart.putInt64 rd (fpToInt .s m false 64 (s.hart.getS rs1)))

/-- `fcvt.s.l rd, rs1, rm` (R514). -/
def execFcvtSL (rd rs1 : BitVec 5) (rm : BitVec 3) (s : State) : Host.Outcome State Fault Refusal :=
  s.run (Enc.fcvtSL rd rs1 rm) (s.hart.withRm rm fun m => s.hart.putS rd (intToFp .s m (s.hart.getX rs1).toInt))

/-- `fcvt.s.lu rd, rs1, rm` (R515). -/
def execFcvtSLu (rd rs1 : BitVec 5) (rm : BitVec 3) (s : State) : Host.Outcome State Fault Refusal :=
  s.run (Enc.fcvtSLu rd rs1 rm) (s.hart.withRm rm fun m => s.hart.putS rd (intToFp .s m (s.hart.getX rs1).toNat))

end Sys2Proof.Machine
end

