-- ==== Sys2Proof/Machine/Csr.lean ====
section
/-! DEFINITION. The control and status registers: their numbers and which exist (R44, R48, R49), the access check
(R45), what each reads as and what a write does to each (R47, R50 to R81), and the one operation behind the six CSR
instructions (R323). -/

namespace Sys2Proof.Machine

open Sys2Proof

variable {c : Config}

/-! ## Names and numbers -/

/-- The CSRs that exist in some configuration (R49). -/
inductive Csr where
  | fflags
  | frm
  | fcsr
  | vstart
  | vxsat
  | vxrm
  | vcsr
  | sstatus
  | sie
  | stvec
  | scounteren
  | sscratch
  | sepc
  | scause
  | stval
  | sip
  | satp
  | mstatus
  | misa
  | medeleg
  | mideleg
  | mie
  | mtvec
  | mcounteren
  | mscratch
  | mepc
  | mcause
  | mtval
  | mip
  | pmpcfg0
  | pmpcfg1
  | pmpcfg2
  | pmpcfg3
  | tselect
  | tdata1
  | tdata2
  | tdata3
  | mcycle
  | minstret
  | mcycleh
  | minstreth
  | cycle
  | time
  | instret
  | vl
  | vtype
  | vlenb
  | cycleh
  | timeh
  | instreth
  | mvendorid
  | marchid
  | mimpid
  | mhartid
  /-- pmpaddr0 to pmpaddr15 -/
  | pmpaddr (i : Nat)
  /-- mhpmcounter3 to mhpmcounter31 -/
  | mhpmcounter (i : Nat)
  /-- mhpmcounter3h to mhpmcounter31h -/
  | mhpmcounterh (i : Nat)
  /-- mhpmevent3 to mhpmevent31 -/
  | mhpmevent (i : Nat)
  /-- hpmcounter3 to hpmcounter31 -/
  | hpmcounter (i : Nat)
  /-- hpmcounter3h to hpmcounter31h -/
  | hpmcounterh (i : Nat)
deriving DecidableEq, Repr

/-- The members of the ranges of R49: N = 3 to 31 for the performance-monitoring registers, 0 to 15 for pmpaddr. -/
def csrInRange (n : Nat) : Option Csr :=
  if 0x3B0 ≤ n && n ≤ 0x3BF then some (.pmpaddr (n - 0x3B0))
  else if 0xB03 ≤ n && n ≤ 0xB1F then some (.mhpmcounter (n - 0xB00))
  else if 0xB83 ≤ n && n ≤ 0xB9F then some (.mhpmcounterh (n - 0xB80))
  else if 0x323 ≤ n && n ≤ 0x33F then some (.mhpmevent (n - 0x320))
  else if 0xC03 ≤ n && n ≤ 0xC1F then some (.hpmcounter (n - 0xC00))
  else if 0xC83 ≤ n && n ≤ 0xC9F then some (.hpmcounterh (n - 0xC80))
  else none

/-- The CSR of a number, if R49 lists it and it is not excluded by decision (R44, R48, R49, R68, R69). -/
def csrOf (n : BitVec 12) : Option Csr :=
  match n with
  | 0x001 => some .fflags
  | 0x002 => some .frm
  | 0x003 => some .fcsr
  | 0x008 => some .vstart
  | 0x009 => some .vxsat
  | 0x00A => some .vxrm
  | 0x00F => some .vcsr
  | 0x100 => some .sstatus
  | 0x104 => some .sie
  | 0x105 => some .stvec
  | 0x106 => some .scounteren
  | 0x140 => some .sscratch
  | 0x141 => some .sepc
  | 0x142 => some .scause
  | 0x143 => some .stval
  | 0x144 => some .sip
  | 0x180 => some .satp
  | 0x300 => some .mstatus
  | 0x301 => some .misa
  | 0x302 => some .medeleg
  | 0x303 => some .mideleg
  | 0x304 => some .mie
  | 0x305 => some .mtvec
  | 0x306 => some .mcounteren
  | 0x340 => some .mscratch
  | 0x341 => some .mepc
  | 0x342 => some .mcause
  | 0x343 => some .mtval
  | 0x344 => some .mip
  | 0x3A0 => some .pmpcfg0
  | 0x3A1 => some .pmpcfg1
  | 0x3A2 => some .pmpcfg2
  | 0x3A3 => some .pmpcfg3
  | 0x7A0 => some .tselect
  | 0x7A1 => some .tdata1
  | 0x7A2 => some .tdata2
  | 0x7A3 => some .tdata3
  | 0xB00 => some .mcycle
  | 0xB02 => some .minstret
  | 0xB80 => some .mcycleh
  | 0xB82 => some .minstreth
  | 0xC00 => some .cycle
  | 0xC01 => some .time
  | 0xC02 => some .instret
  | 0xC20 => some .vl
  | 0xC21 => some .vtype
  | 0xC22 => some .vlenb
  | 0xC80 => some .cycleh
  | 0xC81 => some .timeh
  | 0xC82 => some .instreth
  | 0xF11 => some .mvendorid
  | 0xF12 => some .marchid
  | 0xF13 => some .mimpid
  | 0xF14 => some .mhartid
  | _ => csrInRange n.toNat

/-- The CSR exists in this configuration (R49, column Exists). -/
def Csr.present (c : Config) : Csr → Bool
  | .fflags | .frm | .fcsr => c.hasF
  | .vstart | .vxsat | .vxrm | .vcsr | .vl | .vtype | .vlenb => c.hasV
  | .sstatus | .sie | .stvec | .scounteren | .sscratch | .sepc | .scause | .stval | .sip | .satp | .medeleg
  | .mideleg => c.hasS
  | .mstatus | .misa | .mie | .mtvec | .mscratch | .mepc | .mcause | .mtval | .mip | .pmpcfg0 | .pmpcfg2
  | .tselect | .tdata1 | .tdata2 | .tdata3 | .mcycle | .minstret | .cycle | .time | .instret | .mvendorid
  | .marchid | .mimpid | .mhartid => true
  | .mcounteren => c.hasU
  | .pmpcfg1 | .pmpcfg3 | .mcycleh | .minstreth | .cycleh | .timeh | .instreth => !c.rv64
  | .pmpaddr _ | .mhpmcounter _ | .mhpmevent _ | .hpmcounter _ => true
  | .mhpmcounterh _ | .hpmcounterh _ => !c.rv64

/-! ## The access check (R45) -/

/-- The bit of mcounteren and scounteren that gates a counter CSR: CSRs 0xC00 + n and 0xC80 + n are gated by bit n
(R63). -/
def Csr.gateBit : Csr → Option Nat
  | .cycle | .cycleh => some 0
  | .time | .timeh => some 1
  | .instret | .instreth => some 2
  | .hpmcounter i | .hpmcounterh i => some i
  | _ => none

/-- A counter may be read: in M always, in S when mcounteren allows it, in U when mcounteren and, if S exists,
scounteren allow it (R63). -/
def Hart.counterAllowed (h : Hart c) (i : Nat) : Bool :=
  match h.priv with
  | .m => true
  | .s => h.mcounteren.getLsbD i
  | .u => h.mcounteren.getLsbD i && (!c.hasS || h.scounteren.getLsbD i)

/-- The extra gates of R45 step 4: FS for the floating-point CSRs, the counter enables, TVM for satp (R53, R63, R66). -/
def Hart.csrGate (h : Hart c) (r : Csr) : Bool :=
  match r with
  | .fflags | .frm | .fcsr => h.mstatus.fs != 0
  | .satp => !(h.priv == .s && h.mstatus.tvm)
  | r =>
    match r.gateBit with
    | some i => h.counterAllowed i
    | none => true

/-- The CSR a number names, when the access is legal: it exists, the mode is high enough, a read-only number is not
written, and its gate is open (R45). -/
def Hart.csrAccess (h : Hart c) (n : BitVec 12) (writes : Bool) : Option Csr :=
  match csrOf n with
  | none => none
  | some r =>
    if r.present c && (n.extractLsb' 8 2).toNat ≤ h.priv.level && !(writes && n.extractLsb' 10 2 == 3) && h.csrGate r then
      some r
    else none

/-! ## What the CSRs read as -/

/-- mstatus (R53): reserved bits 0, UXL and SXL 2 in RV64, SD computed. -/
def Hart.mstatusWord (h : Hart c) : BitVec c.xlen :=
  let m := h.mstatus
  bitIf c.xlen m.sie 1 ||| bitIf c.xlen m.mie 3 ||| bitIf c.xlen m.spie 5 ||| bitIf c.xlen m.mpie 7 |||
  bitIf c.xlen m.spp 8 ||| (BitVec.ofNat c.xlen m.mpp.level <<< 11) ||| (m.fs.setWidth c.xlen <<< 13) |||
  bitIf c.xlen m.mprv 17 ||| bitIf c.xlen m.sum 18 ||| bitIf c.xlen m.mxr 19 ||| bitIf c.xlen m.tvm 20 |||
  bitIf c.xlen m.tw 21 ||| bitIf c.xlen m.tsr 22 ||| bitIf c.xlen c.rv64 33 ||| bitIf c.xlen c.rv64 35 |||
  bitIf c.xlen (m.fs == 3) (c.xlen - 1)

/-- The bits of mstatus that sstatus shows: SIE, SPIE, SPP, FS, XS, SUM, MXR, UXL and SD (R54). -/
def sstatusMask (c : Config) : BitVec c.xlen :=
  BitVec.ofNat c.xlen 0xDE122 ||| bitIf c.xlen c.rv64 32 ||| bitIf c.xlen c.rv64 33 ||| bitIf c.xlen true (c.xlen - 1)

/-- misa: MXL in the top two bits, one bit for each letter (R62). -/
def misaWord (c : Config) : BitVec c.xlen :=
  bitIf c.xlen (!c.rv64) (c.xlen - 2) ||| bitIf c.xlen c.rv64 (c.xlen - 1) ||| bitIf c.xlen true 0 |||
  bitIf c.xlen true 2 ||| bitIf c.xlen c.hasD 3 ||| bitIf c.xlen c.hasF 5 ||| bitIf c.xlen true 8 |||
  bitIf c.xlen true 12 ||| bitIf c.xlen c.hasS 18 ||| bitIf c.xlen c.hasU 20 ||| bitIf c.xlen c.hasV 21

/-- The part of a 64-bit counter the CSR of the plain name reads: all of it, or bits 31:0 in RV32 (R64). -/
def counterLow (c : Config) (v : BitVec 64) : BitVec c.xlen := v.setWidth c.xlen

/-- Bits 63:32 of a 64-bit counter (R64). -/
def counterHigh (c : Config) (v : BitVec 64) : BitVec c.xlen := (v >>> 32).setWidth c.xlen

/-- The value a CSR reads as (R50 to R81). -/
def Hart.readCsr (h : Hart c) (r : Csr) : BitVec c.xlen :=
  match r with
  | .fflags => h.fflags.setWidth c.xlen
  | .frm => h.frm.setWidth c.xlen
  | .fcsr => (h.frm ++ h.fflags).setWidth c.xlen
  | .vstart => h.vstart
  | .vxsat => h.vxsat.setWidth c.xlen
  | .vxrm => h.vxrm.setWidth c.xlen
  | .vcsr => (h.vxrm ++ h.vxsat).setWidth c.xlen
  | .sstatus => h.mstatusWord &&& sstatusMask c
  | .sie => h.mie &&& h.mideleg
  | .stvec => h.stvec
  | .scounteren => h.scounteren.setWidth c.xlen
  | .sscratch => h.sscratch
  | .sepc => h.sepc
  | .scause => h.scause
  | .stval => h.stval
  | .sip => h.mip &&& h.mideleg
  | .mstatus => h.mstatusWord
  | .misa => misaWord c
  | .medeleg => h.medeleg
  | .mideleg => h.mideleg
  | .mie => h.mie
  | .mtvec => h.mtvec
  | .mcounteren => h.mcounteren.setWidth c.xlen
  | .mscratch => h.mscratch
  | .mepc => h.mepc
  | .mcause => h.mcause
  | .mtval => h.mtval
  | .mip => h.mip
  | .mcycle | .cycle => counterLow c h.mcycle
  | .minstret | .instret => counterLow c h.minstret
  | .mcycleh | .cycleh => counterHigh c h.mcycle
  | .minstreth | .instreth => counterHigh c h.minstret
  | .time => counterLow c h.time
  | .timeh => counterHigh c h.time
  | .vl => h.vl
  | .vtype => h.vtype
  | .vlenb => BitVec.ofNat c.xlen (c.vlen / 8)
  | .mvendorid => c.mvendorid.setWidth c.xlen
  | .marchid => c.marchid.setWidth c.xlen
  | .mimpid => c.mimpid.setWidth c.xlen
  | .mhartid => c.mhartid.setWidth c.xlen
  -- hardwired 0 (R65, R66, R67, R69)
  | .satp | .pmpcfg0 | .pmpcfg1 | .pmpcfg2 | .pmpcfg3 | .pmpaddr _ | .tselect | .tdata1 | .tdata2 | .tdata3
  | .mhpmcounter _ | .mhpmcounterh _ | .mhpmevent _ | .hpmcounter _ | .hpmcounterh _ => 0

/-- The old value csrrs and csrrc combine with their operand: what the CSR reads as, but for mip only the software bit
of SEIP (R57). -/
def Hart.csrOld (h : Hart c) (r : Csr) : BitVec c.xlen :=
  match r with
  | .mip => ({ h with lines := { h.lines with seip := false } }).mip
  | r => h.readCsr r

/-! ## What a write does -/

/-- MPP after a write: a mode that does not exist, or 2, leaves it unchanged (R53). -/
def mppWritten (c : Config) (old : Priv) (bits : BitVec 2) : Priv :=
  match bits with
  | 0 => if c.hasU then .u else old
  | 1 => if c.hasS then .s else old
  | 3 => .m
  | _ => old

/-- The fields of mstatus after a write (R53). -/
def mstatusWritten (c : Config) (m : Status) (v : BitVec c.xlen) : Status where
  sie := c.hasS && v.getLsbD 1
  mie := v.getLsbD 3
  spie := c.hasS && v.getLsbD 5
  mpie := v.getLsbD 7
  spp := c.hasS && v.getLsbD 8
  mpp := mppWritten c m.mpp (v.extractLsb' 11 2)
  fs := if c.hasF then v.extractLsb' 13 2 else 0
  mprv := c.hasU && v.getLsbD 17
  sum := c.hasS && v.getLsbD 18
  mxr := c.hasS && v.getLsbD 19
  tvm := c.hasS && v.getLsbD 20
  tw := (c.hasS || c.hasU) && v.getLsbD 21
  tsr := c.hasS && v.getLsbD 22

/-- The fields of mstatus after a write of sstatus: only SIE, SPIE, SPP, FS, SUM and MXR (R54). -/
def sstatusWritten (c : Config) (m : Status) (v : BitVec c.xlen) : Status :=
  let w := mstatusWritten c m v
  { m with sie := w.sie, spie := w.spie, spp := w.spp, fs := w.fs, sum := w.sum, mxr := w.mxr }

/-- The writable bits of medeleg: 0 to 9, 12, 13 and 15 (R56). -/
def medelegMask (c : Config) : BitVec c.xlen := BitVec.ofNat c.xlen 0xB3FF

/-- The writable bits of mideleg: 1, 5 and 9 (R56). -/
def midelegMask (c : Config) : BitVec c.xlen := BitVec.ofNat c.xlen 0x222

/-- The writable bits of mie: 3, 7, 11, and 1, 5, 9 with S-mode (R57). -/
def mieMask (c : Config) : BitVec c.xlen := BitVec.ofNat c.xlen (if c.hasS then 0xAAA else 0x888)

/-- A write of mtvec or stvec is kept when its MODE is 0 or 1 (R55). -/
def tvecLegal {n : Nat} (v : BitVec n) : Bool := !v.getLsbD 1

/-- A 64-bit counter after a write of the CSR of the plain name (R64). -/
def counterWriteLow (c : Config) (old : BitVec 64) (v : BitVec c.xlen) : BitVec 64 :=
  if c.rv64 then v.setWidth 64 else setLow32 old (v.setWidth 32)
where
  /-- the low half replaced -/
  setLow32 (old : BitVec 64) (w : BitVec 32) : BitVec 64 := old.extractLsb' 32 32 ++ w

/-- A 64-bit counter after a write of its upper half (R64). -/
def counterWriteHigh (c : Config) (old : BitVec 64) (v : BitVec c.xlen) : BitVec 64 :=
  v.setWidth 32 ++ old.extractLsb' 0 32

/-- A write of a floating-point CSR sets FS to Dirty (R52, R53). -/
def Hart.dirtyFs (h : Hart c) : Hart c := { h with mstatus := { h.mstatus with fs := 3 } }

/-- The CSR write, filtered by the field rules of each CSR (R47, R50 to R81). -/
def Hart.writeCsr (h : Hart c) (r : Csr) (v : BitVec c.xlen) : Hart c :=
  match r with
  | .fflags => { h with fflags := v.setWidth 5 }.dirtyFs
  | .frm => { h with frm := v.setWidth 3 }.dirtyFs
  | .fcsr => { h with fflags := v.setWidth 5, frm := v.extractLsb' 5 3 }.dirtyFs
  | .vstart => { h with vstart := BitVec.ofNat c.xlen (v.toNat % c.vlen) }
  | .vxsat => { h with vxsat := v.setWidth 1 }
  | .vxrm => { h with vxrm := v.setWidth 2 }
  | .vcsr => { h with vxsat := v.setWidth 1, vxrm := v.extractLsb' 1 2 }
  | .sstatus => { h with mstatus := sstatusWritten c h.mstatus v }
  | .sie => { h with mie := (h.mie &&& ~~~h.mideleg) ||| (v &&& h.mideleg) }
  | .stvec => if tvecLegal v then { h with stvec := v, stvecSet := true } else h
  | .scounteren => { h with scounteren := v.setWidth 32 }
  | .sscratch => { h with sscratch := v }
  | .sepc => { h with sepc := v &&& ~~~1, sepcSet := true }
  | .scause => { h with scause := v }
  | .stval => { h with stval := v }
  | .sip => if h.mideleg.getLsbD 1 then { h with ssip := v.getLsbD 1 } else h
  | .mstatus => { h with mstatus := mstatusWritten c h.mstatus v }
  | .medeleg => { h with medeleg := v &&& medelegMask c }
  | .mideleg => { h with mideleg := v &&& midelegMask c }
  | .mie => { h with mie := v &&& mieMask c }
  | .mtvec => if tvecLegal v then { h with mtvec := v, mtvecSet := true } else h
  | .mcounteren => { h with mcounteren := v.setWidth 32 }
  | .mscratch => { h with mscratch := v }
  | .mepc => { h with mepc := v &&& ~~~1, mepcSet := true }
  | .mcause => { h with mcause := v }
  | .mtval => { h with mtval := v }
  | .mip =>
    if c.hasS then { h with ssip := v.getLsbD 1, stip := v.getLsbD 5, seip := v.getLsbD 9 } else h
  | .mcycle => { h with mcycle := counterWriteLow c h.mcycle v }
  | .minstret => { h with minstret := counterWriteLow c h.minstret v }
  | .mcycleh => { h with mcycle := counterWriteHigh c h.mcycle v }
  | .minstreth => { h with minstret := counterWriteHigh c h.minstret v }
  -- hardwired: writes are ignored (R62, R65, R66, R67, R69)
  | .misa | .satp | .pmpcfg0 | .pmpcfg1 | .pmpcfg2 | .pmpcfg3 | .pmpaddr _ | .tselect | .tdata1 | .tdata2 | .tdata3
  | .mhpmcounter _ | .mhpmcounterh _ | .mhpmevent _ => h
  -- read-only numbers: `csrAccess` never lets a write reach them (R45 step 3)
  | .cycle | .time | .instret | .cycleh | .timeh | .instreth | .hpmcounter _ | .hpmcounterh _ | .vl | .vtype | .vlenb
  | .mvendorid | .marchid | .mimpid | .mhartid => h

/-- The CSR is mcycle or its upper half. -/
def Csr.isCycle (r : Csr) : Bool := r == .mcycle || r == .mcycleh

/-- The CSR is minstret or its upper half. -/
def Csr.isInstret (r : Csr) : Bool := r == .minstret || r == .minstreth

/-- The common behaviour of the six CSR instructions (R323): the check, the read, the write of `new` of the old value,
the write of x[rd]. A write of a counter suppresses the instruction's own increment of it (R64; log 16, 17). -/
def Hart.csrOp (h : Hart c) (rd : BitVec 5) (csr : BitVec 12) (reads writes : Bool)
    (new : BitVec c.xlen → BitVec c.xlen) : Res c :=
  match h.csrAccess csr writes with
  | none => .illegal
  | some r =>
    let written := if writes then h.writeCsr r (new (h.csrOld r)) else h
    .wrote (if reads then written.setX rd (h.readCsr r) else written) (writes && r.isCycle) (writes && r.isInstret)

end Sys2Proof.Machine
end

