-- ==== Sys2Proof/Machine/System.lean ====
section
/-! DEFINITION. The meanings of the fences, the CSR instructions and the system instructions (R320 to R334), one definition for each
instruction over the shared shapes. -/

namespace Sys2Proof.Machine

open Sys2Proof

/-- The exception ecall raises in a mode (R330). -/
def Priv.ecallExc : Priv → Exc
  | .u => .ecallFromU
  | .s => .ecallFromS
  | .m => .ecallFromM

/-- `fence pred, succ` (R320). -/
def execFence (pred succ : BitVec 4) (s : State) : Host.Outcome State Fault Refusal :=
  s.run (Enc.fence pred succ) (.next s.hart)

/-- `fence.i` (R321). -/
def execFenceI (s : State) : Host.Outcome State Fault Refusal :=
  s.run Enc.fenceI (.next { s.hart with stale := [] })

/-- `sfence.vma rs1, rs2` (R322). -/
def execSfenceVma (rs1 rs2 : BitVec 5) (s : State) : Host.Outcome State Fault Refusal :=
  s.run (Enc.sfenceVma rs1 rs2) <|
    if !s.cfg.hasS || s.hart.priv == .u || (s.hart.priv == .s && s.hart.mstatus.tvm) then .illegal else .next s.hart

/-- `csrrw rd, csr, rs1` (R324). -/
def execCsrrw (rd : BitVec 5) (csr : BitVec 12) (rs1 : BitVec 5) (s : State) : Host.Outcome State Fault Refusal :=
  s.run (Enc.csrrw rd csr rs1) (s.hart.csrOp rd csr (rd != 0) true fun _ => s.hart.getX rs1)

/-- `csrrs rd, csr, rs1` (R325). -/
def execCsrrs (rd : BitVec 5) (csr : BitVec 12) (rs1 : BitVec 5) (s : State) : Host.Outcome State Fault Refusal :=
  s.run (Enc.csrrs rd csr rs1) (s.hart.csrOp rd csr true (rs1 != 0) fun t => t ||| s.hart.getX rs1)

/-- `csrrc rd, csr, rs1` (R326). -/
def execCsrrc (rd : BitVec 5) (csr : BitVec 12) (rs1 : BitVec 5) (s : State) : Host.Outcome State Fault Refusal :=
  s.run (Enc.csrrc rd csr rs1) (s.hart.csrOp rd csr true (rs1 != 0) fun t => t &&& ~~~(s.hart.getX rs1))

/-- `csrrwi rd, csr, zimm` (R327). -/
def execCsrrwi (rd : BitVec 5) (csr : BitVec 12) (zimm : BitVec 5) (s : State) : Host.Outcome State Fault Refusal :=
  s.run (Enc.csrrwi rd csr zimm) (s.hart.csrOp rd csr (rd != 0) true fun _ => zimm.setWidth s.cfg.xlen)

/-- `csrrsi rd, csr, zimm` (R328). -/
def execCsrrsi (rd : BitVec 5) (csr : BitVec 12) (zimm : BitVec 5) (s : State) : Host.Outcome State Fault Refusal :=
  s.run (Enc.csrrsi rd csr zimm) (s.hart.csrOp rd csr true (zimm != 0) fun t => t ||| zimm.setWidth s.cfg.xlen)

/-- `csrrci rd, csr, zimm` (R329). -/
def execCsrrci (rd : BitVec 5) (csr : BitVec 12) (zimm : BitVec 5) (s : State) : Host.Outcome State Fault Refusal :=
  s.run (Enc.csrrci rd csr zimm) (s.hart.csrOp rd csr true (zimm != 0) fun t => t &&& ~~~(zimm.setWidth s.cfg.xlen))

/-- `ecall` (R330). -/
def execEcall (s : State) : Host.Outcome State Fault Refusal :=
  s.run Enc.ecall (.trap s.hart s.hart.priv.ecallExc 0)

/-- `ebreak` (R331). -/
def execEbreak (s : State) : Host.Outcome State Fault Refusal :=
  s.run Enc.ebreak (.trap s.hart .breakpoint s.hart.pc)

/-- `mret` (R332). -/
def execMret (s : State) : Host.Outcome State Fault Refusal :=
  s.run Enc.mret <|
    if s.hart.priv != .m then .illegal else .jump s.hart.mretState s.hart.mepc

/-- `sret` (R333). -/
def execSret (s : State) : Host.Outcome State Fault Refusal :=
  s.run Enc.sret <|
    if !s.cfg.hasS || s.hart.priv == .u || (s.hart.priv == .s && s.hart.mstatus.tsr) then .illegal
    else .jump s.hart.sretState s.hart.sepc

/-- `wfi` (R334). -/
def execWfi (s : State) : Host.Outcome State Fault Refusal :=
  s.run Enc.wfi <|
    if s.hart.priv != .m && s.hart.mstatus.tw then .illegal
    else .next { s.hart with waiting := s.hart.pend == 0 && Config.wfiWaits s.hart.draws }

end Sys2Proof.Machine
end

