-- ==== Sys2Proof/Machine/Vector.lean ====
section
/-! DEFINITION. What the vector instructions share (48_rvv_config_mem.md, 49_rvv_arith.md): setting vl and vtype, the
legality checks, the element loop, element accesses to memory, and the forms of the arithmetic instructions. -/

namespace Sys2Proof.Machine

open Sys2Proof

variable {c : Config}

/-! ## vsetvli and vsetvl -/

/-- A requested vtype is supported: no bit above bit 4, and SEW at most ELEN (R544). -/
def vtypeSupported (c : Config) (newtype : BitVec c.xlen) : Bool :=
  newtype >>> 5 == 0 && decide (sewOf newtype ≤ c.elen)

/-- The new vl (R545, R547): fixed by the constraints but for VLMAX < AVL < 2*VLMAX, where any value from ceil(AVL/2)
to VLMAX is allowed: VL_CHOICE kept within these bounds (R546; free, log 8). -/
def newVl (avl vlmax : Nat) : Nat :=
  if avl ≤ vlmax then avl
  else if 2 * vlmax ≤ avl then vlmax
  else max ((avl + 1) / 2) (min (Config.vlChoice avl vlmax) vlmax)

/-- The application vector length, selected by the register numbers (R543). -/
def Hart.avl (h : Hart c) (rd rs1 : BitVec 5) : Nat :=
  if rs1 ≠ 0 then (h.getX rs1).toNat
  else if rd ≠ 0 then 2 ^ c.xlen - 1
  else h.vl.toNat

/-- `SetVL(rd, rs1, newtype)` (R547). -/
def Hart.setVL (h : Hart c) (rd rs1 : BitVec 5) (newtype : BitVec c.xlen) : Res c :=
  if vtypeSupported c newtype then
    let vl := BitVec.ofNat c.xlen (newVl (h.avl rd rs1) (vlmaxOf c newtype))
    .next { h.setX rd vl with vtype := newtype, vl := vl, vstart := 0 }
  else
    .next { h.setX rd 0 with vtype := BitVec.twoPow c.xlen (c.xlen - 1), vl := 0, vstart := 0 }

/-! ## Legality -/

/-- A register field that names an element group is a multiple of LMUL (R83). -/
def Hart.groupOk (h : Hart c) (r : BitVec 5) : Bool := r.toNat % h.lmul == 0

/-- A masked instruction may not have v0 in its destination group (R93). -/
def maskOk (vd : BitVec 5) (vm : BitVec 1) : Bool := !(vm == 0 && vd == 0)

/-- The checks of a vector load of memory width w: vill, the width, vd, and v0 under a mask (R540, R551, R557). -/
def Hart.vloadOk (h : Hart c) (vd : BitVec 5) (vm : BitVec 1) (w : Nat) : Bool :=
  !h.vill && decide (w ≤ h.sew) && h.groupOk vd && maskOk vd vm

/-- The checks of a vector store of memory width w (R540, R551, R557). -/
def Hart.vstoreOk (h : Hart c) (vs3 : BitVec 5) (w : Nat) : Bool :=
  !h.vill && decide (w ≤ h.sew) && h.groupOk vs3

/-- The checks of an arithmetic instruction with these element sources (R540, R603). -/
def Hart.varithOk (h : Hart c) (vd : BitVec 5) (vm : BitVec 1) (sources : List (BitVec 5)) : Bool :=
  !h.vill && h.groupOk vd && maskOk vd vm && sources.all h.groupOk

/-- The register is one of the group based at `base`. -/
def Hart.inGroup (h : Hart c) (base r : BitVec 5) : Bool :=
  decide (base.toNat ≤ r.toNat) && decide (r.toNat < base.toNat + h.lmul)

/-- The checks of a comparison: with LMUL > 1, vd may be no register of a source group (R603 a, R640). -/
def Hart.vcompareOk (h : Hart c) (vd : BitVec 5) (sources : List (BitVec 5)) : Bool :=
  !h.vill && sources.all h.groupOk && (h.lmul == 1 || sources.all fun r => !h.inGroup r vd)

/-! ## The element loop -/

/-- `count` elements from j on, in increasing order. It ends with vstart 0 (R71, R555); an exception at element j leaves
what earlier elements did and vstart = j (R556). -/
def vloop (body : Nat → Hart c → Res c) : Nat → Nat → Hart c → Res c
  | 0, _, h => .next { h with vstart := 0 }
  | count + 1, j, h =>
    match body j h with
    | .next h' => vloop body count (j + 1) h'
    | .trap h' e tval => .trap { h' with vstart := BitVec.ofNat c.xlen j } e tval
    | r => r

/-- The loop over the body elements, vstart to vl - 1; the inactive ones are skipped (R92, R555, R600). -/
def Hart.elements (h : Hart c) (vm : BitVec 1) (body : Nat → Hart c → Res c) : Res c :=
  vloop (fun j h' => if h'.active vm j then body j h' else .next h') (h.vl.toNat - h.vstart.toNat) h.vstart.toNat h

/-! ## Element accesses (R555) -/

/-- k consecutive 8-byte reads from a on, as one element of w bits (R108, for SEW above 64). -/
def readPieces (a : BitVec c.xlen) (w : Nat) : Nat → Hart c → BitVec w × Hart c
  | 0, h => (0, h)
  | k + 1, h =>
    let r := readPieces a w k h
    let ak := a + BitVec.ofNat c.xlen (8 * k)
    (r.1 ||| (r.2.readValue ak 8).setWidth w <<< (64 * k), r.2.afterRead ak 8)

/-- k consecutive 8-byte writes from a on, of one element of w bits (R108, for SEW above 64). -/
def writePieces {w : Nat} (a : BitVec c.xlen) (e : BitVec w) : Nat → Hart c → Hart c
  | 0, h => h
  | k + 1, h => (writePieces a e k h).writeMem (a + BitVec.ofNat c.xlen (8 * k)) 8 (e.extractLsb' (64 * k) 64)

/-- The value of a memory element of w bits at a, and the hart after the read. -/
def Hart.readElem (h : Hart c) (a : BitVec c.xlen) (w : Nat) : BitVec w × Hart c :=
  if w ≤ 64 then ((h.readValue a (w / 8)).setWidth w, h.afterRead a (w / 8)) else readPieces a w (w / 64) h

/-- The hart after the write of a memory element at a. -/
def Hart.writeElem {w : Nat} (h : Hart c) (a : BitVec c.xlen) (e : BitVec w) : Hart c :=
  if w ≤ 64 then h.writeMem a (w / 8) (e.setWidth 64) else writePieces a e (w / 64) h

/-- A memory element of w bits loaded into element j of the group vd, extended to SEW (R555). The checks are of the whole
element (R556; log 18). -/
def Hart.loadElem (h : Hart c) (vd : BitVec 5) (j : Nat) (a : BitVec c.xlen) (w : Nat) (signed : Bool) : Res c :=
  match accessCheck c .load a (w / 8) with
  | some e => .trap h e a
  | none =>
    let r := h.readElem a w
    let e : BitVec h.sew := if signed then r.1.signExtend h.sew else r.1.setWidth h.sew
    .next (r.2.setVelem vd.toNat j e)

/-- The low w bits of element j of the group vs3 stored (R551, R555). -/
def Hart.storeElem (h : Hart c) (vs3 : BitVec 5) (j : Nat) (a : BitVec c.xlen) (w : Nat) : Res c :=
  match accessCheck c .store a (w / 8) with
  | some e => .trap h e a
  | none => .next (h.writeElem a ((h.velem vs3.toNat j).setWidth w))

/-- `VLoad(unit, w, ext)` (R552, R558). -/
def Hart.vloadUnit (h : Hart c) (vd rs1 : BitVec 5) (vm : BitVec 1) (w : Nat) (signed : Bool) : Res c :=
  if h.vloadOk vd vm w then h.elements vm fun j h' => h'.loadElem vd j (h'.unitAddr rs1 (w / 8) j) w signed
  else .illegal

/-- `VLoad(strided, w, ext)` (R553, R558). -/
def Hart.vloadStrided (h : Hart c) (vd rs1 rs2 : BitVec 5) (vm : BitVec 1) (w : Nat) (signed : Bool) : Res c :=
  if h.vloadOk vd vm w then h.elements vm fun j h' => h'.loadElem vd j (h'.stridedAddr rs1 rs2 j) w signed
  else .illegal

/-- `VLoad(indexed, w, ext)` (R554, R558). -/
def Hart.vloadIndexed (h : Hart c) (vd rs1 vs2 : BitVec 5) (vm : BitVec 1) (w : Nat) (signed : Bool) : Res c :=
  if h.vloadOk vd vm w && h.groupOk vs2 then
    h.elements vm fun j h' => h'.loadElem vd j (h'.indexedAddr rs1 vs2 j) w signed
  else .illegal

/-- `VStore(unit, w)` (R552, R558). -/
def Hart.vstoreUnit (h : Hart c) (vs3 rs1 : BitVec 5) (vm : BitVec 1) (w : Nat) : Res c :=
  if h.vstoreOk vs3 w then h.elements vm fun j h' => h'.storeElem vs3 j (h'.unitAddr rs1 (w / 8) j) w
  else .illegal

/-- `VStore(strided, w)` (R553, R558). -/
def Hart.vstoreStrided (h : Hart c) (vs3 rs1 rs2 : BitVec 5) (vm : BitVec 1) (w : Nat) : Res c :=
  if h.vstoreOk vs3 w then h.elements vm fun j h' => h'.storeElem vs3 j (h'.stridedAddr rs1 rs2 j) w
  else .illegal

/-- `VStore(indexed, w)` (R554, R558). -/
def Hart.vstoreIndexed (h : Hart c) (vs3 rs1 vs2 : BitVec 5) (vm : BitVec 1) (w : Nat) : Res c :=
  if h.vstoreOk vs3 w && h.groupOk vs2 then
    h.elements vm fun j h' => h'.storeElem vs3 j (h'.indexedAddr rs1 vs2 j) w
  else .illegal

/-! ## Arithmetic forms (R600) -/

/-- A function of SEW-bit patterns: the vs2 element first, then the second operand (R600). -/
abbrev ElemOp := {n : Nat} → BitVec n → BitVec n → BitVec n

/-- The same with the old vd element first (R688). -/
abbrev ElemOp3 := {n : Nat} → BitVec n → BitVec n → BitVec n → BitVec n

/-- A comparison of SEW-bit patterns: the vs2 element first (R639). -/
abbrev ElemCmp := {n : Nat} → BitVec n → BitVec n → Bool

/-- `velem(vd, j) <- f(velem(vs2, j), op1(j))` for the active elements (R600). -/
def Hart.varith (h : Hart c) (vd vs2 : BitVec 5) (vm : BitVec 1) (sources : List (BitVec 5)) (f : ElemOp)
    (op1 : (h : Hart c) → Nat → BitVec h.sew) : Res c :=
  if h.varithOk vd vm sources then
    h.elements vm fun j h' => .next (h'.setVelem vd.toNat j (f (h'.velem vs2.toNat j) (op1 h' j)))
  else .illegal

/-- The .vv form of `f` (R600). -/
def Hart.vvOp (h : Hart c) (vd vs2 vs1 : BitVec 5) (vm : BitVec 1) (f : ElemOp) : Res c :=
  h.varith vd vs2 vm [vs2, vs1] f fun h' j => h'.velem vs1.toNat j

/-- The .vx form of `f` (R600, R601). -/
def Hart.vxOp (h : Hart c) (vd vs2 rs1 : BitVec 5) (vm : BitVec 1) (f : ElemOp) : Res c :=
  h.varith vd vs2 vm [vs2] f fun h' _ => h'.scalar rs1

/-- The .vi form of `f` with a signed immediate (R600, R602). -/
def Hart.viOp (h : Hart c) (vd vs2 imm : BitVec 5) (vm : BitVec 1) (f : ElemOp) : Res c :=
  h.varith vd vs2 vm [vs2] f fun h' _ => h'.simm imm

/-- The .vi form of a shift, with an unsigned immediate (R602, R621). -/
def Hart.vuOp (h : Hart c) (vd vs2 imm : BitVec 5) (vm : BitVec 1) (f : ElemOp) : Res c :=
  h.varith vd vs2 vm [vs2] f fun h' _ => imm.setWidth h'.sew

/-- `velem(vd, j) <- f(velem(vd, j), velem(vs2, j), op1(j))` for the active elements (R688). -/
def Hart.vmulAdd (h : Hart c) (vd vs2 : BitVec 5) (vm : BitVec 1) (sources : List (BitVec 5)) (f : ElemOp3)
    (op1 : (h : Hart c) → Nat → BitVec h.sew) : Res c :=
  if h.varithOk vd vm sources then
    h.elements vm fun j h' =>
      .next (h'.setVelem vd.toNat j (f (h'.velem vd.toNat j) (h'.velem vs2.toNat j) (op1 h' j)))
  else .illegal

/-- The .vv form of a multiply-add (R688). -/
def Hart.vvOp3 (h : Hart c) (vd vs2 vs1 : BitVec 5) (vm : BitVec 1) (f : ElemOp3) : Res c :=
  h.vmulAdd vd vs2 vm [vs2, vs1] f fun h' j => h'.velem vs1.toNat j

/-- The .vx form of a multiply-add (R688). -/
def Hart.vxOp3 (h : Hart c) (vd vs2 rs1 : BitVec 5) (vm : BitVec 1) (f : ElemOp3) : Res c :=
  h.vmulAdd vd vs2 vm [vs2] f fun h' _ => h'.scalar rs1

/-- `vmaskset(vd, j, cmp(velem(vs2, j), op1(j)))` for the active elements (R639). -/
def Hart.vcompare (h : Hart c) (vd vs2 : BitVec 5) (vm : BitVec 1) (sources : List (BitVec 5)) (cmp : ElemCmp)
    (op1 : (h : Hart c) → Nat → BitVec h.sew) : Res c :=
  if h.vcompareOk vd sources then
    h.elements vm fun j h' => .next (h'.vmaskset vd.toNat j (cmp (h'.velem vs2.toNat j) (op1 h' j)))
  else .illegal

/-- The .vv form of a comparison (R639). -/
def Hart.vvCmp (h : Hart c) (vd vs2 vs1 : BitVec 5) (vm : BitVec 1) (cmp : ElemCmp) : Res c :=
  h.vcompare vd vs2 vm [vs2, vs1] cmp fun h' j => h'.velem vs1.toNat j

/-- The .vx form of a comparison (R639). -/
def Hart.vxCmp (h : Hart c) (vd vs2 rs1 : BitVec 5) (vm : BitVec 1) (cmp : ElemCmp) : Res c :=
  h.vcompare vd vs2 vm [vs2] cmp fun h' _ => h'.scalar rs1

/-- The .vi form of a comparison, with a signed immediate (R602, R639). -/
def Hart.viCmp (h : Hart c) (vd vs2 imm : BitVec 5) (vm : BitVec 1) (cmp : ElemCmp) : Res c :=
  h.vcompare vd vs2 vm [vs2] cmp fun h' _ => h'.simm imm

/-- The .vi form of vmsleu and vmsgtu (R650). -/
def Hart.vuCmp (h : Hart c) (vd vs2 imm : BitVec 5) (vm : BitVec 1) (cmp : ElemCmp) : Res c :=
  h.vcompare vd vs2 vm [vs2] cmp fun h' _ => h'.uimmCmp imm

/-! ## Element functions -/

/-- `e << sh`, the amount taken modulo SEW (R621). -/
def vsll {n : Nat} (a b : BitVec n) : BitVec n := a <<< (b.toNat % n)

/-- `e >>u sh` (R621). -/
def vsrl {n : Nat} (a b : BitVec n) : BitVec n := a >>> (b.toNat % n)

/-- `e >>s sh` (R621). -/
def vsra {n : Nat} (a b : BitVec n) : BitVec n := a.sshiftRight (b.toNat % n)

end Sys2Proof.Machine
end

