-- ==== Sys2Proof/Machine/VectorArith.lean ====
section
/-! DEFINITION. The meanings of the vector integer arithmetic (R605 to R696), one definition for each
instruction over the shared shapes. -/

namespace Sys2Proof.Machine

open Sys2Proof

/-- `vadd.vv vd, vs2, vs1, vm` (R605). -/
def execVaddVv (vd vs2 vs1 : BitVec 5) (vm : BitVec 1) (s : State) : Host.Outcome State Fault Refusal :=
  s.run (Enc.vaddVv vd vs2 vs1 vm) (s.hart.vvOp vd vs2 vs1 vm (fun a b => a + b))

/-- `vadd.vx vd, vs2, rs1, vm` (R606). -/
def execVaddVx (vd vs2 rs1 : BitVec 5) (vm : BitVec 1) (s : State) : Host.Outcome State Fault Refusal :=
  s.run (Enc.vaddVx vd vs2 rs1 vm) (s.hart.vxOp vd vs2 rs1 vm (fun a b => a + b))

/-- `vadd.vi vd, vs2, simm5, vm` (R607). -/
def execVaddVi (vd vs2 simm5 : BitVec 5) (vm : BitVec 1) (s : State) : Host.Outcome State Fault Refusal :=
  s.run (Enc.vaddVi vd vs2 simm5 vm) (s.hart.viOp vd vs2 simm5 vm (fun a b => a + b))

/-- `vsub.vv vd, vs2, vs1, vm` (R608). -/
def execVsubVv (vd vs2 vs1 : BitVec 5) (vm : BitVec 1) (s : State) : Host.Outcome State Fault Refusal :=
  s.run (Enc.vsubVv vd vs2 vs1 vm) (s.hart.vvOp vd vs2 vs1 vm (fun a b => a - b))

/-- `vsub.vx vd, vs2, rs1, vm` (R609). -/
def execVsubVx (vd vs2 rs1 : BitVec 5) (vm : BitVec 1) (s : State) : Host.Outcome State Fault Refusal :=
  s.run (Enc.vsubVx vd vs2 rs1 vm) (s.hart.vxOp vd vs2 rs1 vm (fun a b => a - b))

/-- `vrsub.vx vd, vs2, rs1, vm` (R610). -/
def execVrsubVx (vd vs2 rs1 : BitVec 5) (vm : BitVec 1) (s : State) : Host.Outcome State Fault Refusal :=
  s.run (Enc.vrsubVx vd vs2 rs1 vm) (s.hart.vxOp vd vs2 rs1 vm (fun a b => b - a))

/-- `vrsub.vi vd, vs2, simm5, vm` (R611). -/
def execVrsubVi (vd vs2 simm5 : BitVec 5) (vm : BitVec 1) (s : State) : Host.Outcome State Fault Refusal :=
  s.run (Enc.vrsubVi vd vs2 simm5 vm) (s.hart.viOp vd vs2 simm5 vm (fun a b => b - a))

/-- `vand.vv vd, vs2, vs1, vm` (R612). -/
def execVandVv (vd vs2 vs1 : BitVec 5) (vm : BitVec 1) (s : State) : Host.Outcome State Fault Refusal :=
  s.run (Enc.vandVv vd vs2 vs1 vm) (s.hart.vvOp vd vs2 vs1 vm (fun a b => a &&& b))

/-- `vand.vx vd, vs2, rs1, vm` (R613). -/
def execVandVx (vd vs2 rs1 : BitVec 5) (vm : BitVec 1) (s : State) : Host.Outcome State Fault Refusal :=
  s.run (Enc.vandVx vd vs2 rs1 vm) (s.hart.vxOp vd vs2 rs1 vm (fun a b => a &&& b))

/-- `vand.vi vd, vs2, simm5, vm` (R614). -/
def execVandVi (vd vs2 simm5 : BitVec 5) (vm : BitVec 1) (s : State) : Host.Outcome State Fault Refusal :=
  s.run (Enc.vandVi vd vs2 simm5 vm) (s.hart.viOp vd vs2 simm5 vm (fun a b => a &&& b))

/-- `vor.vv vd, vs2, vs1, vm` (R615). -/
def execVorVv (vd vs2 vs1 : BitVec 5) (vm : BitVec 1) (s : State) : Host.Outcome State Fault Refusal :=
  s.run (Enc.vorVv vd vs2 vs1 vm) (s.hart.vvOp vd vs2 vs1 vm (fun a b => a ||| b))

/-- `vor.vx vd, vs2, rs1, vm` (R616). -/
def execVorVx (vd vs2 rs1 : BitVec 5) (vm : BitVec 1) (s : State) : Host.Outcome State Fault Refusal :=
  s.run (Enc.vorVx vd vs2 rs1 vm) (s.hart.vxOp vd vs2 rs1 vm (fun a b => a ||| b))

/-- `vor.vi vd, vs2, simm5, vm` (R617). -/
def execVorVi (vd vs2 simm5 : BitVec 5) (vm : BitVec 1) (s : State) : Host.Outcome State Fault Refusal :=
  s.run (Enc.vorVi vd vs2 simm5 vm) (s.hart.viOp vd vs2 simm5 vm (fun a b => a ||| b))

/-- `vxor.vv vd, vs2, vs1, vm` (R618). -/
def execVxorVv (vd vs2 vs1 : BitVec 5) (vm : BitVec 1) (s : State) : Host.Outcome State Fault Refusal :=
  s.run (Enc.vxorVv vd vs2 vs1 vm) (s.hart.vvOp vd vs2 vs1 vm (fun a b => a ^^^ b))

/-- `vxor.vx vd, vs2, rs1, vm` (R619). -/
def execVxorVx (vd vs2 rs1 : BitVec 5) (vm : BitVec 1) (s : State) : Host.Outcome State Fault Refusal :=
  s.run (Enc.vxorVx vd vs2 rs1 vm) (s.hart.vxOp vd vs2 rs1 vm (fun a b => a ^^^ b))

/-- `vxor.vi vd, vs2, simm5, vm` (R620). -/
def execVxorVi (vd vs2 simm5 : BitVec 5) (vm : BitVec 1) (s : State) : Host.Outcome State Fault Refusal :=
  s.run (Enc.vxorVi vd vs2 simm5 vm) (s.hart.viOp vd vs2 simm5 vm (fun a b => a ^^^ b))

/-- `vsll.vv vd, vs2, vs1, vm` (R622). -/
def execVsllVv (vd vs2 vs1 : BitVec 5) (vm : BitVec 1) (s : State) : Host.Outcome State Fault Refusal :=
  s.run (Enc.vsllVv vd vs2 vs1 vm) (s.hart.vvOp vd vs2 vs1 vm vsll)

/-- `vsll.vx vd, vs2, rs1, vm` (R623). -/
def execVsllVx (vd vs2 rs1 : BitVec 5) (vm : BitVec 1) (s : State) : Host.Outcome State Fault Refusal :=
  s.run (Enc.vsllVx vd vs2 rs1 vm) (s.hart.vxOp vd vs2 rs1 vm vsll)

/-- `vsll.vi vd, vs2, simm5, vm` (R624). -/
def execVsllVi (vd vs2 simm5 : BitVec 5) (vm : BitVec 1) (s : State) : Host.Outcome State Fault Refusal :=
  s.run (Enc.vsllVi vd vs2 simm5 vm) (s.hart.vuOp vd vs2 simm5 vm vsll)

/-- `vsrl.vv vd, vs2, vs1, vm` (R625). -/
def execVsrlVv (vd vs2 vs1 : BitVec 5) (vm : BitVec 1) (s : State) : Host.Outcome State Fault Refusal :=
  s.run (Enc.vsrlVv vd vs2 vs1 vm) (s.hart.vvOp vd vs2 vs1 vm vsrl)

/-- `vsrl.vx vd, vs2, rs1, vm` (R626). -/
def execVsrlVx (vd vs2 rs1 : BitVec 5) (vm : BitVec 1) (s : State) : Host.Outcome State Fault Refusal :=
  s.run (Enc.vsrlVx vd vs2 rs1 vm) (s.hart.vxOp vd vs2 rs1 vm vsrl)

/-- `vsrl.vi vd, vs2, simm5, vm` (R627). -/
def execVsrlVi (vd vs2 simm5 : BitVec 5) (vm : BitVec 1) (s : State) : Host.Outcome State Fault Refusal :=
  s.run (Enc.vsrlVi vd vs2 simm5 vm) (s.hart.vuOp vd vs2 simm5 vm vsrl)

/-- `vsra.vv vd, vs2, vs1, vm` (R628). -/
def execVsraVv (vd vs2 vs1 : BitVec 5) (vm : BitVec 1) (s : State) : Host.Outcome State Fault Refusal :=
  s.run (Enc.vsraVv vd vs2 vs1 vm) (s.hart.vvOp vd vs2 vs1 vm vsra)

/-- `vsra.vx vd, vs2, rs1, vm` (R629). -/
def execVsraVx (vd vs2 rs1 : BitVec 5) (vm : BitVec 1) (s : State) : Host.Outcome State Fault Refusal :=
  s.run (Enc.vsraVx vd vs2 rs1 vm) (s.hart.vxOp vd vs2 rs1 vm vsra)

/-- `vsra.vi vd, vs2, simm5, vm` (R630). -/
def execVsraVi (vd vs2 simm5 : BitVec 5) (vm : BitVec 1) (s : State) : Host.Outcome State Fault Refusal :=
  s.run (Enc.vsraVi vd vs2 simm5 vm) (s.hart.vuOp vd vs2 simm5 vm vsra)

/-- `vmseq.vv vd, vs2, vs1, vm` (R651). -/
def execVmseqVv (vd vs2 vs1 : BitVec 5) (vm : BitVec 1) (s : State) : Host.Outcome State Fault Refusal :=
  s.run (Enc.vmseqVv vd vs2 vs1 vm) (s.hart.vvCmp vd vs2 vs1 vm (fun a b => a == b))

/-- `vmseq.vx vd, vs2, rs1, vm` (R652). -/
def execVmseqVx (vd vs2 rs1 : BitVec 5) (vm : BitVec 1) (s : State) : Host.Outcome State Fault Refusal :=
  s.run (Enc.vmseqVx vd vs2 rs1 vm) (s.hart.vxCmp vd vs2 rs1 vm (fun a b => a == b))

/-- `vmseq.vi vd, vs2, simm5, vm` (R653). -/
def execVmseqVi (vd vs2 simm5 : BitVec 5) (vm : BitVec 1) (s : State) : Host.Outcome State Fault Refusal :=
  s.run (Enc.vmseqVi vd vs2 simm5 vm) (s.hart.viCmp vd vs2 simm5 vm (fun a b => a == b))

/-- `vmsne.vv vd, vs2, vs1, vm` (R654). -/
def execVmsneVv (vd vs2 vs1 : BitVec 5) (vm : BitVec 1) (s : State) : Host.Outcome State Fault Refusal :=
  s.run (Enc.vmsneVv vd vs2 vs1 vm) (s.hart.vvCmp vd vs2 vs1 vm (fun a b => a != b))

/-- `vmsne.vx vd, vs2, rs1, vm` (R655). -/
def execVmsneVx (vd vs2 rs1 : BitVec 5) (vm : BitVec 1) (s : State) : Host.Outcome State Fault Refusal :=
  s.run (Enc.vmsneVx vd vs2 rs1 vm) (s.hart.vxCmp vd vs2 rs1 vm (fun a b => a != b))

/-- `vmsne.vi vd, vs2, simm5, vm` (R656). -/
def execVmsneVi (vd vs2 simm5 : BitVec 5) (vm : BitVec 1) (s : State) : Host.Outcome State Fault Refusal :=
  s.run (Enc.vmsneVi vd vs2 simm5 vm) (s.hart.viCmp vd vs2 simm5 vm (fun a b => a != b))

/-- `vmsltu.vv vd, vs2, vs1, vm` (R657). -/
def execVmsltuVv (vd vs2 vs1 : BitVec 5) (vm : BitVec 1) (s : State) : Host.Outcome State Fault Refusal :=
  s.run (Enc.vmsltuVv vd vs2 vs1 vm) (s.hart.vvCmp vd vs2 vs1 vm BitVec.ult)

/-- `vmsltu.vx vd, vs2, rs1, vm` (R658). -/
def execVmsltuVx (vd vs2 rs1 : BitVec 5) (vm : BitVec 1) (s : State) : Host.Outcome State Fault Refusal :=
  s.run (Enc.vmsltuVx vd vs2 rs1 vm) (s.hart.vxCmp vd vs2 rs1 vm BitVec.ult)

/-- `vmslt.vv vd, vs2, vs1, vm` (R659). -/
def execVmsltVv (vd vs2 vs1 : BitVec 5) (vm : BitVec 1) (s : State) : Host.Outcome State Fault Refusal :=
  s.run (Enc.vmsltVv vd vs2 vs1 vm) (s.hart.vvCmp vd vs2 vs1 vm BitVec.slt)

/-- `vmslt.vx vd, vs2, rs1, vm` (R660). -/
def execVmsltVx (vd vs2 rs1 : BitVec 5) (vm : BitVec 1) (s : State) : Host.Outcome State Fault Refusal :=
  s.run (Enc.vmsltVx vd vs2 rs1 vm) (s.hart.vxCmp vd vs2 rs1 vm BitVec.slt)

/-- `vmsleu.vv vd, vs2, vs1, vm` (R661). -/
def execVmsleuVv (vd vs2 vs1 : BitVec 5) (vm : BitVec 1) (s : State) : Host.Outcome State Fault Refusal :=
  s.run (Enc.vmsleuVv vd vs2 vs1 vm) (s.hart.vvCmp vd vs2 vs1 vm BitVec.ule)

/-- `vmsleu.vx vd, vs2, rs1, vm` (R662). -/
def execVmsleuVx (vd vs2 rs1 : BitVec 5) (vm : BitVec 1) (s : State) : Host.Outcome State Fault Refusal :=
  s.run (Enc.vmsleuVx vd vs2 rs1 vm) (s.hart.vxCmp vd vs2 rs1 vm BitVec.ule)

/-- `vmsleu.vi vd, vs2, simm5, vm` (R663). -/
def execVmsleuVi (vd vs2 simm5 : BitVec 5) (vm : BitVec 1) (s : State) : Host.Outcome State Fault Refusal :=
  s.run (Enc.vmsleuVi vd vs2 simm5 vm) (s.hart.vuCmp vd vs2 simm5 vm BitVec.ule)

/-- `vmsle.vv vd, vs2, vs1, vm` (R664). -/
def execVmsleVv (vd vs2 vs1 : BitVec 5) (vm : BitVec 1) (s : State) : Host.Outcome State Fault Refusal :=
  s.run (Enc.vmsleVv vd vs2 vs1 vm) (s.hart.vvCmp vd vs2 vs1 vm BitVec.sle)

/-- `vmsle.vx vd, vs2, rs1, vm` (R665). -/
def execVmsleVx (vd vs2 rs1 : BitVec 5) (vm : BitVec 1) (s : State) : Host.Outcome State Fault Refusal :=
  s.run (Enc.vmsleVx vd vs2 rs1 vm) (s.hart.vxCmp vd vs2 rs1 vm BitVec.sle)

/-- `vmsle.vi vd, vs2, simm5, vm` (R666). -/
def execVmsleVi (vd vs2 simm5 : BitVec 5) (vm : BitVec 1) (s : State) : Host.Outcome State Fault Refusal :=
  s.run (Enc.vmsleVi vd vs2 simm5 vm) (s.hart.viCmp vd vs2 simm5 vm BitVec.sle)

/-- `vmsgtu.vx vd, vs2, rs1, vm` (R667). -/
def execVmsgtuVx (vd vs2 rs1 : BitVec 5) (vm : BitVec 1) (s : State) : Host.Outcome State Fault Refusal :=
  s.run (Enc.vmsgtuVx vd vs2 rs1 vm) (s.hart.vxCmp vd vs2 rs1 vm (fun a b => b.ult a))

/-- `vmsgtu.vi vd, vs2, simm5, vm` (R668). -/
def execVmsgtuVi (vd vs2 simm5 : BitVec 5) (vm : BitVec 1) (s : State) : Host.Outcome State Fault Refusal :=
  s.run (Enc.vmsgtuVi vd vs2 simm5 vm) (s.hart.vuCmp vd vs2 simm5 vm (fun a b => b.ult a))

/-- `vmsgt.vx vd, vs2, rs1, vm` (R669). -/
def execVmsgtVx (vd vs2 rs1 : BitVec 5) (vm : BitVec 1) (s : State) : Host.Outcome State Fault Refusal :=
  s.run (Enc.vmsgtVx vd vs2 rs1 vm) (s.hart.vxCmp vd vs2 rs1 vm (fun a b => b.slt a))

/-- `vmsgt.vi vd, vs2, simm5, vm` (R670). -/
def execVmsgtVi (vd vs2 simm5 : BitVec 5) (vm : BitVec 1) (s : State) : Host.Outcome State Fault Refusal :=
  s.run (Enc.vmsgtVi vd vs2 simm5 vm) (s.hart.viCmp vd vs2 simm5 vm (fun a b => b.slt a))

/-- `vminu.vv vd, vs2, vs1, vm` (R671). -/
def execVminuVv (vd vs2 vs1 : BitVec 5) (vm : BitVec 1) (s : State) : Host.Outcome State Fault Refusal :=
  s.run (Enc.vminuVv vd vs2 vs1 vm) (s.hart.vvOp vd vs2 vs1 vm minUnsigned)

/-- `vminu.vx vd, vs2, rs1, vm` (R672). -/
def execVminuVx (vd vs2 rs1 : BitVec 5) (vm : BitVec 1) (s : State) : Host.Outcome State Fault Refusal :=
  s.run (Enc.vminuVx vd vs2 rs1 vm) (s.hart.vxOp vd vs2 rs1 vm minUnsigned)

/-- `vmin.vv vd, vs2, vs1, vm` (R673). -/
def execVminVv (vd vs2 vs1 : BitVec 5) (vm : BitVec 1) (s : State) : Host.Outcome State Fault Refusal :=
  s.run (Enc.vminVv vd vs2 vs1 vm) (s.hart.vvOp vd vs2 vs1 vm minSigned)

/-- `vmin.vx vd, vs2, rs1, vm` (R674). -/
def execVminVx (vd vs2 rs1 : BitVec 5) (vm : BitVec 1) (s : State) : Host.Outcome State Fault Refusal :=
  s.run (Enc.vminVx vd vs2 rs1 vm) (s.hart.vxOp vd vs2 rs1 vm minSigned)

/-- `vmaxu.vv vd, vs2, vs1, vm` (R675). -/
def execVmaxuVv (vd vs2 vs1 : BitVec 5) (vm : BitVec 1) (s : State) : Host.Outcome State Fault Refusal :=
  s.run (Enc.vmaxuVv vd vs2 vs1 vm) (s.hart.vvOp vd vs2 vs1 vm maxUnsigned)

/-- `vmaxu.vx vd, vs2, rs1, vm` (R676). -/
def execVmaxuVx (vd vs2 rs1 : BitVec 5) (vm : BitVec 1) (s : State) : Host.Outcome State Fault Refusal :=
  s.run (Enc.vmaxuVx vd vs2 rs1 vm) (s.hart.vxOp vd vs2 rs1 vm maxUnsigned)

/-- `vmax.vv vd, vs2, vs1, vm` (R677). -/
def execVmaxVv (vd vs2 vs1 : BitVec 5) (vm : BitVec 1) (s : State) : Host.Outcome State Fault Refusal :=
  s.run (Enc.vmaxVv vd vs2 vs1 vm) (s.hart.vvOp vd vs2 vs1 vm maxSigned)

/-- `vmax.vx vd, vs2, rs1, vm` (R678). -/
def execVmaxVx (vd vs2 rs1 : BitVec 5) (vm : BitVec 1) (s : State) : Host.Outcome State Fault Refusal :=
  s.run (Enc.vmaxVx vd vs2 rs1 vm) (s.hart.vxOp vd vs2 rs1 vm maxSigned)

/-- `vmul.vv vd, vs2, vs1, vm` (R680). -/
def execVmulVv (vd vs2 vs1 : BitVec 5) (vm : BitVec 1) (s : State) : Host.Outcome State Fault Refusal :=
  s.run (Enc.vmulVv vd vs2 vs1 vm) (s.hart.vvOp vd vs2 vs1 vm (fun a b => a * b))

/-- `vmul.vx vd, vs2, rs1, vm` (R681). -/
def execVmulVx (vd vs2 rs1 : BitVec 5) (vm : BitVec 1) (s : State) : Host.Outcome State Fault Refusal :=
  s.run (Enc.vmulVx vd vs2 rs1 vm) (s.hart.vxOp vd vs2 rs1 vm (fun a b => a * b))

/-- `vmulh.vv vd, vs2, vs1, vm` (R682). -/
def execVmulhVv (vd vs2 vs1 : BitVec 5) (vm : BitVec 1) (s : State) : Host.Outcome State Fault Refusal :=
  s.run (Enc.vmulhVv vd vs2 vs1 vm) (s.hart.vvOp vd vs2 vs1 vm (highProduct true true))

/-- `vmulh.vx vd, vs2, rs1, vm` (R683). -/
def execVmulhVx (vd vs2 rs1 : BitVec 5) (vm : BitVec 1) (s : State) : Host.Outcome State Fault Refusal :=
  s.run (Enc.vmulhVx vd vs2 rs1 vm) (s.hart.vxOp vd vs2 rs1 vm (highProduct true true))

/-- `vmulhu.vv vd, vs2, vs1, vm` (R684). -/
def execVmulhuVv (vd vs2 vs1 : BitVec 5) (vm : BitVec 1) (s : State) : Host.Outcome State Fault Refusal :=
  s.run (Enc.vmulhuVv vd vs2 vs1 vm) (s.hart.vvOp vd vs2 vs1 vm (highProduct false false))

/-- `vmulhu.vx vd, vs2, rs1, vm` (R685). -/
def execVmulhuVx (vd vs2 rs1 : BitVec 5) (vm : BitVec 1) (s : State) : Host.Outcome State Fault Refusal :=
  s.run (Enc.vmulhuVx vd vs2 rs1 vm) (s.hart.vxOp vd vs2 rs1 vm (highProduct false false))

/-- `vmulhsu.vv vd, vs2, vs1, vm` (R686). -/
def execVmulhsuVv (vd vs2 vs1 : BitVec 5) (vm : BitVec 1) (s : State) : Host.Outcome State Fault Refusal :=
  s.run (Enc.vmulhsuVv vd vs2 vs1 vm) (s.hart.vvOp vd vs2 vs1 vm (highProduct true false))

/-- `vmulhsu.vx vd, vs2, rs1, vm` (R687). -/
def execVmulhsuVx (vd vs2 rs1 : BitVec 5) (vm : BitVec 1) (s : State) : Host.Outcome State Fault Refusal :=
  s.run (Enc.vmulhsuVx vd vs2 rs1 vm) (s.hart.vxOp vd vs2 rs1 vm (highProduct true false))

/-- `vmacc.vv vd, vs2, vs1, vm` (R689). -/
def execVmaccVv (vd vs2 vs1 : BitVec 5) (vm : BitVec 1) (s : State) : Host.Outcome State Fault Refusal :=
  s.run (Enc.vmaccVv vd vs2 vs1 vm) (s.hart.vvOp3 vd vs2 vs1 vm (fun d a b => b * a + d))

/-- `vmacc.vx vd, vs2, rs1, vm` (R690). -/
def execVmaccVx (vd vs2 rs1 : BitVec 5) (vm : BitVec 1) (s : State) : Host.Outcome State Fault Refusal :=
  s.run (Enc.vmaccVx vd vs2 rs1 vm) (s.hart.vxOp3 vd vs2 rs1 vm (fun d a b => b * a + d))

/-- `vnmsac.vv vd, vs2, vs1, vm` (R691). -/
def execVnmsacVv (vd vs2 vs1 : BitVec 5) (vm : BitVec 1) (s : State) : Host.Outcome State Fault Refusal :=
  s.run (Enc.vnmsacVv vd vs2 vs1 vm) (s.hart.vvOp3 vd vs2 vs1 vm (fun d a b => -(b * a) + d))

/-- `vnmsac.vx vd, vs2, rs1, vm` (R692). -/
def execVnmsacVx (vd vs2 rs1 : BitVec 5) (vm : BitVec 1) (s : State) : Host.Outcome State Fault Refusal :=
  s.run (Enc.vnmsacVx vd vs2 rs1 vm) (s.hart.vxOp3 vd vs2 rs1 vm (fun d a b => -(b * a) + d))

/-- `vmadd.vv vd, vs2, vs1, vm` (R693). -/
def execVmaddVv (vd vs2 vs1 : BitVec 5) (vm : BitVec 1) (s : State) : Host.Outcome State Fault Refusal :=
  s.run (Enc.vmaddVv vd vs2 vs1 vm) (s.hart.vvOp3 vd vs2 vs1 vm (fun d a b => b * d + a))

/-- `vmadd.vx vd, vs2, rs1, vm` (R694). -/
def execVmaddVx (vd vs2 rs1 : BitVec 5) (vm : BitVec 1) (s : State) : Host.Outcome State Fault Refusal :=
  s.run (Enc.vmaddVx vd vs2 rs1 vm) (s.hart.vxOp3 vd vs2 rs1 vm (fun d a b => b * d + a))

/-- `vnmsub.vv vd, vs2, vs1, vm` (R695). -/
def execVnmsubVv (vd vs2 vs1 : BitVec 5) (vm : BitVec 1) (s : State) : Host.Outcome State Fault Refusal :=
  s.run (Enc.vnmsubVv vd vs2 vs1 vm) (s.hart.vvOp3 vd vs2 vs1 vm (fun d a b => -(b * d) + a))

/-- `vnmsub.vx vd, vs2, rs1, vm` (R696). -/
def execVnmsubVx (vd vs2 rs1 : BitVec 5) (vm : BitVec 1) (s : State) : Host.Outcome State Fault Refusal :=
  s.run (Enc.vnmsubVx vd vs2 rs1 vm) (s.hart.vxOp3 vd vs2 rs1 vm (fun d a b => -(b * d) + a))

end Sys2Proof.Machine
end

