-- ==== Sys2Proof/Machine/VectorMem.lean ====
section
/-! DEFINITION. The meanings of vsetvli, vsetvl and the vector loads and stores (R541 to R594), one definition for each
instruction over the shared shapes. -/

namespace Sys2Proof.Machine

open Sys2Proof

/-- `vsetvli rd, rs1, zimm` (R541). -/
def execVsetvli (rd rs1 : BitVec 5) (zimm : BitVec 11) (s : State) : Host.Outcome State Fault Refusal :=
  s.run (Enc.vsetvli rd rs1 zimm) (s.hart.setVL rd rs1 (zimm.setWidth s.cfg.xlen))

/-- `vsetvl rd, rs1, rs2` (R542). -/
def execVsetvl (rd rs1 rs2 : BitVec 5) (s : State) : Host.Outcome State Fault Refusal :=
  s.run (Enc.vsetvl rd rs1 rs2) (s.hart.setVL rd rs1 (s.hart.getX rs2))

/-- `vlb.v vd, rs1, vm` (R560). -/
def execVlbV (vd rs1 : BitVec 5) (vm : BitVec 1) (s : State) : Host.Outcome State Fault Refusal :=
  s.run (Enc.vlbV vd rs1 vm) (s.hart.vloadUnit vd rs1 vm 8 true)

/-- `vlh.v vd, rs1, vm` (R561). -/
def execVlhV (vd rs1 : BitVec 5) (vm : BitVec 1) (s : State) : Host.Outcome State Fault Refusal :=
  s.run (Enc.vlhV vd rs1 vm) (s.hart.vloadUnit vd rs1 vm 16 true)

/-- `vlw.v vd, rs1, vm` (R562). -/
def execVlwV (vd rs1 : BitVec 5) (vm : BitVec 1) (s : State) : Host.Outcome State Fault Refusal :=
  s.run (Enc.vlwV vd rs1 vm) (s.hart.vloadUnit vd rs1 vm 32 true)

/-- `vlbu.v vd, rs1, vm` (R563). -/
def execVlbuV (vd rs1 : BitVec 5) (vm : BitVec 1) (s : State) : Host.Outcome State Fault Refusal :=
  s.run (Enc.vlbuV vd rs1 vm) (s.hart.vloadUnit vd rs1 vm 8 false)

/-- `vlhu.v vd, rs1, vm` (R564). -/
def execVlhuV (vd rs1 : BitVec 5) (vm : BitVec 1) (s : State) : Host.Outcome State Fault Refusal :=
  s.run (Enc.vlhuV vd rs1 vm) (s.hart.vloadUnit vd rs1 vm 16 false)

/-- `vlwu.v vd, rs1, vm` (R565). -/
def execVlwuV (vd rs1 : BitVec 5) (vm : BitVec 1) (s : State) : Host.Outcome State Fault Refusal :=
  s.run (Enc.vlwuV vd rs1 vm) (s.hart.vloadUnit vd rs1 vm 32 false)

/-- `vle.v vd, rs1, vm` (R566). -/
def execVleV (vd rs1 : BitVec 5) (vm : BitVec 1) (s : State) : Host.Outcome State Fault Refusal :=
  s.run (Enc.vleV vd rs1 vm) (s.hart.vloadUnit vd rs1 vm s.hart.sew false)

/-- `vsb.v vs3, rs1, vm` (R567). -/
def execVsbV (vs3 rs1 : BitVec 5) (vm : BitVec 1) (s : State) : Host.Outcome State Fault Refusal :=
  s.run (Enc.vsbV vs3 rs1 vm) (s.hart.vstoreUnit vs3 rs1 vm 8)

/-- `vsh.v vs3, rs1, vm` (R568). -/
def execVshV (vs3 rs1 : BitVec 5) (vm : BitVec 1) (s : State) : Host.Outcome State Fault Refusal :=
  s.run (Enc.vshV vs3 rs1 vm) (s.hart.vstoreUnit vs3 rs1 vm 16)

/-- `vsw.v vs3, rs1, vm` (R569). -/
def execVswV (vs3 rs1 : BitVec 5) (vm : BitVec 1) (s : State) : Host.Outcome State Fault Refusal :=
  s.run (Enc.vswV vs3 rs1 vm) (s.hart.vstoreUnit vs3 rs1 vm 32)

/-- `vse.v vs3, rs1, vm` (R570). -/
def execVseV (vs3 rs1 : BitVec 5) (vm : BitVec 1) (s : State) : Host.Outcome State Fault Refusal :=
  s.run (Enc.vseV vs3 rs1 vm) (s.hart.vstoreUnit vs3 rs1 vm s.hart.sew)

/-- `vlsb.v vd, rs1, rs2, vm` (R572). -/
def execVlsbV (vd rs1 rs2 : BitVec 5) (vm : BitVec 1) (s : State) : Host.Outcome State Fault Refusal :=
  s.run (Enc.vlsbV vd rs1 rs2 vm) (s.hart.vloadStrided vd rs1 rs2 vm 8 true)

/-- `vlsh.v vd, rs1, rs2, vm` (R573). -/
def execVlshV (vd rs1 rs2 : BitVec 5) (vm : BitVec 1) (s : State) : Host.Outcome State Fault Refusal :=
  s.run (Enc.vlshV vd rs1 rs2 vm) (s.hart.vloadStrided vd rs1 rs2 vm 16 true)

/-- `vlsw.v vd, rs1, rs2, vm` (R574). -/
def execVlswV (vd rs1 rs2 : BitVec 5) (vm : BitVec 1) (s : State) : Host.Outcome State Fault Refusal :=
  s.run (Enc.vlswV vd rs1 rs2 vm) (s.hart.vloadStrided vd rs1 rs2 vm 32 true)

/-- `vlsbu.v vd, rs1, rs2, vm` (R575). -/
def execVlsbuV (vd rs1 rs2 : BitVec 5) (vm : BitVec 1) (s : State) : Host.Outcome State Fault Refusal :=
  s.run (Enc.vlsbuV vd rs1 rs2 vm) (s.hart.vloadStrided vd rs1 rs2 vm 8 false)

/-- `vlshu.v vd, rs1, rs2, vm` (R576). -/
def execVlshuV (vd rs1 rs2 : BitVec 5) (vm : BitVec 1) (s : State) : Host.Outcome State Fault Refusal :=
  s.run (Enc.vlshuV vd rs1 rs2 vm) (s.hart.vloadStrided vd rs1 rs2 vm 16 false)

/-- `vlswu.v vd, rs1, rs2, vm` (R577). -/
def execVlswuV (vd rs1 rs2 : BitVec 5) (vm : BitVec 1) (s : State) : Host.Outcome State Fault Refusal :=
  s.run (Enc.vlswuV vd rs1 rs2 vm) (s.hart.vloadStrided vd rs1 rs2 vm 32 false)

/-- `vlse.v vd, rs1, rs2, vm` (R578). -/
def execVlseV (vd rs1 rs2 : BitVec 5) (vm : BitVec 1) (s : State) : Host.Outcome State Fault Refusal :=
  s.run (Enc.vlseV vd rs1 rs2 vm) (s.hart.vloadStrided vd rs1 rs2 vm s.hart.sew false)

/-- `vssb.v vs3, rs1, rs2, vm` (R579). -/
def execVssbV (vs3 rs1 rs2 : BitVec 5) (vm : BitVec 1) (s : State) : Host.Outcome State Fault Refusal :=
  s.run (Enc.vssbV vs3 rs1 rs2 vm) (s.hart.vstoreStrided vs3 rs1 rs2 vm 8)

/-- `vssh.v vs3, rs1, rs2, vm` (R580). -/
def execVsshV (vs3 rs1 rs2 : BitVec 5) (vm : BitVec 1) (s : State) : Host.Outcome State Fault Refusal :=
  s.run (Enc.vsshV vs3 rs1 rs2 vm) (s.hart.vstoreStrided vs3 rs1 rs2 vm 16)

/-- `vssw.v vs3, rs1, rs2, vm` (R581). -/
def execVsswV (vs3 rs1 rs2 : BitVec 5) (vm : BitVec 1) (s : State) : Host.Outcome State Fault Refusal :=
  s.run (Enc.vsswV vs3 rs1 rs2 vm) (s.hart.vstoreStrided vs3 rs1 rs2 vm 32)

/-- `vsse.v vs3, rs1, rs2, vm` (R582). -/
def execVsseV (vs3 rs1 rs2 : BitVec 5) (vm : BitVec 1) (s : State) : Host.Outcome State Fault Refusal :=
  s.run (Enc.vsseV vs3 rs1 rs2 vm) (s.hart.vstoreStrided vs3 rs1 rs2 vm s.hart.sew)

/-- `vlxb.v vd, rs1, vs2, vm` (R584). -/
def execVlxbV (vd rs1 vs2 : BitVec 5) (vm : BitVec 1) (s : State) : Host.Outcome State Fault Refusal :=
  s.run (Enc.vlxbV vd rs1 vs2 vm) (s.hart.vloadIndexed vd rs1 vs2 vm 8 true)

/-- `vlxh.v vd, rs1, vs2, vm` (R585). -/
def execVlxhV (vd rs1 vs2 : BitVec 5) (vm : BitVec 1) (s : State) : Host.Outcome State Fault Refusal :=
  s.run (Enc.vlxhV vd rs1 vs2 vm) (s.hart.vloadIndexed vd rs1 vs2 vm 16 true)

/-- `vlxw.v vd, rs1, vs2, vm` (R586). -/
def execVlxwV (vd rs1 vs2 : BitVec 5) (vm : BitVec 1) (s : State) : Host.Outcome State Fault Refusal :=
  s.run (Enc.vlxwV vd rs1 vs2 vm) (s.hart.vloadIndexed vd rs1 vs2 vm 32 true)

/-- `vlxbu.v vd, rs1, vs2, vm` (R587). -/
def execVlxbuV (vd rs1 vs2 : BitVec 5) (vm : BitVec 1) (s : State) : Host.Outcome State Fault Refusal :=
  s.run (Enc.vlxbuV vd rs1 vs2 vm) (s.hart.vloadIndexed vd rs1 vs2 vm 8 false)

/-- `vlxhu.v vd, rs1, vs2, vm` (R588). -/
def execVlxhuV (vd rs1 vs2 : BitVec 5) (vm : BitVec 1) (s : State) : Host.Outcome State Fault Refusal :=
  s.run (Enc.vlxhuV vd rs1 vs2 vm) (s.hart.vloadIndexed vd rs1 vs2 vm 16 false)

/-- `vlxwu.v vd, rs1, vs2, vm` (R589). -/
def execVlxwuV (vd rs1 vs2 : BitVec 5) (vm : BitVec 1) (s : State) : Host.Outcome State Fault Refusal :=
  s.run (Enc.vlxwuV vd rs1 vs2 vm) (s.hart.vloadIndexed vd rs1 vs2 vm 32 false)

/-- `vlxe.v vd, rs1, vs2, vm` (R590). -/
def execVlxeV (vd rs1 vs2 : BitVec 5) (vm : BitVec 1) (s : State) : Host.Outcome State Fault Refusal :=
  s.run (Enc.vlxeV vd rs1 vs2 vm) (s.hart.vloadIndexed vd rs1 vs2 vm s.hart.sew false)

/-- `vsxb.v vs3, rs1, vs2, vm` (R591). -/
def execVsxbV (vs3 rs1 vs2 : BitVec 5) (vm : BitVec 1) (s : State) : Host.Outcome State Fault Refusal :=
  s.run (Enc.vsxbV vs3 rs1 vs2 vm) (s.hart.vstoreIndexed vs3 rs1 vs2 vm 8)

/-- `vsxh.v vs3, rs1, vs2, vm` (R592). -/
def execVsxhV (vs3 rs1 vs2 : BitVec 5) (vm : BitVec 1) (s : State) : Host.Outcome State Fault Refusal :=
  s.run (Enc.vsxhV vs3 rs1 vs2 vm) (s.hart.vstoreIndexed vs3 rs1 vs2 vm 16)

/-- `vsxw.v vs3, rs1, vs2, vm` (R593). -/
def execVsxwV (vs3 rs1 vs2 : BitVec 5) (vm : BitVec 1) (s : State) : Host.Outcome State Fault Refusal :=
  s.run (Enc.vsxwV vs3 rs1 vs2 vm) (s.hart.vstoreIndexed vs3 rs1 vs2 vm 32)

/-- `vsxe.v vs3, rs1, vs2, vm` (R594). -/
def execVsxeV (vs3 rs1 vs2 : BitVec 5) (vm : BitVec 1) (s : State) : Host.Outcome State Fault Refusal :=
  s.run (Enc.vsxeV vs3 rs1 vs2 vm) (s.hart.vstoreIndexed vs3 rs1 vs2 vm s.hart.sew)

end Sys2Proof.Machine
end

