-- ==== Sys2Proof/Machine/Dispatch.lean ====
section
/-! DEFINITION. One arm for each instruction: each is a direct call of its meaning. -/

namespace Sys2Proof.Machine

def exec (i : Instr) (s : State) : Host.Outcome State Fault Refusal :=
  match i with
  | .lb rd rs1 offset => Sys2Proof.Machine.execLb rd rs1 offset s
  | .lbu rd rs1 offset => Sys2Proof.Machine.execLbu rd rs1 offset s
  | .lh rd rs1 offset => Sys2Proof.Machine.execLh rd rs1 offset s
  | .lhu rd rs1 offset => Sys2Proof.Machine.execLhu rd rs1 offset s
  | .lw rd rs1 offset => Sys2Proof.Machine.execLw rd rs1 offset s
  | .sb rs2 rs1 offset => Sys2Proof.Machine.execSb rs2 rs1 offset s
  | .sh rs2 rs1 offset => Sys2Proof.Machine.execSh rs2 rs1 offset s
  | .sw rs2 rs1 offset => Sys2Proof.Machine.execSw rs2 rs1 offset s
  | .sll rd rs1 rs2 => Sys2Proof.Machine.execSll rd rs1 rs2 s
  | .slli rd rs1 shamt => Sys2Proof.Machine.execSlli rd rs1 shamt s
  | .srl rd rs1 rs2 => Sys2Proof.Machine.execSrl rd rs1 rs2 s
  | .srli rd rs1 shamt => Sys2Proof.Machine.execSrli rd rs1 shamt s
  | .sra rd rs1 rs2 => Sys2Proof.Machine.execSra rd rs1 rs2 s
  | .srai rd rs1 shamt => Sys2Proof.Machine.execSrai rd rs1 shamt s
  | .add rd rs1 rs2 => Sys2Proof.Machine.execAdd rd rs1 rs2 s
  | .addi rd rs1 imm => Sys2Proof.Machine.execAddi rd rs1 imm s
  | .sub rd rs1 rs2 => Sys2Proof.Machine.execSub rd rs1 rs2 s
  | .lui rd imm => Sys2Proof.Machine.execLui rd imm s
  | .auipc rd imm => Sys2Proof.Machine.execAuipc rd imm s
  | .and rd rs1 rs2 => Sys2Proof.Machine.execAnd rd rs1 rs2 s
  | .andi rd rs1 imm => Sys2Proof.Machine.execAndi rd rs1 imm s
  | .or rd rs1 rs2 => Sys2Proof.Machine.execOr rd rs1 rs2 s
  | .ori rd rs1 imm => Sys2Proof.Machine.execOri rd rs1 imm s
  | .xor rd rs1 rs2 => Sys2Proof.Machine.execXor rd rs1 rs2 s
  | .xori rd rs1 imm => Sys2Proof.Machine.execXori rd rs1 imm s
  | .slt rd rs1 rs2 => Sys2Proof.Machine.execSlt rd rs1 rs2 s
  | .sltu rd rs1 rs2 => Sys2Proof.Machine.execSltu rd rs1 rs2 s
  | .slti rd rs1 imm => Sys2Proof.Machine.execSlti rd rs1 imm s
  | .sltiu rd rs1 imm => Sys2Proof.Machine.execSltiu rd rs1 imm s
  | .beq rs1 rs2 offset => Sys2Proof.Machine.execBeq rs1 rs2 offset s
  | .bne rs1 rs2 offset => Sys2Proof.Machine.execBne rs1 rs2 offset s
  | .blt rs1 rs2 offset => Sys2Proof.Machine.execBlt rs1 rs2 offset s
  | .bge rs1 rs2 offset => Sys2Proof.Machine.execBge rs1 rs2 offset s
  | .bltu rs1 rs2 offset => Sys2Proof.Machine.execBltu rs1 rs2 offset s
  | .bgeu rs1 rs2 offset => Sys2Proof.Machine.execBgeu rs1 rs2 offset s
  | .jal rd offset => Sys2Proof.Machine.execJal rd offset s
  | .jalr rd rs1 offset => Sys2Proof.Machine.execJalr rd rs1 offset s
  | .fence pred succ => Sys2Proof.Machine.execFence pred succ s
  | .fenceI => Sys2Proof.Machine.execFenceI s
  | .sfenceVma rs1 rs2 => Sys2Proof.Machine.execSfenceVma rs1 rs2 s
  | .csrrw rd csr rs1 => Sys2Proof.Machine.execCsrrw rd csr rs1 s
  | .csrrs rd csr rs1 => Sys2Proof.Machine.execCsrrs rd csr rs1 s
  | .csrrc rd csr rs1 => Sys2Proof.Machine.execCsrrc rd csr rs1 s
  | .csrrwi rd csr zimm => Sys2Proof.Machine.execCsrrwi rd csr zimm s
  | .csrrsi rd csr zimm => Sys2Proof.Machine.execCsrrsi rd csr zimm s
  | .csrrci rd csr zimm => Sys2Proof.Machine.execCsrrci rd csr zimm s
  | .ecall => Sys2Proof.Machine.execEcall s
  | .ebreak => Sys2Proof.Machine.execEbreak s
  | .mret => Sys2Proof.Machine.execMret s
  | .sret => Sys2Proof.Machine.execSret s
  | .wfi => Sys2Proof.Machine.execWfi s
  | .mul rd rs1 rs2 => Sys2Proof.Machine.execMul rd rs1 rs2 s
  | .mulh rd rs1 rs2 => Sys2Proof.Machine.execMulh rd rs1 rs2 s
  | .mulhsu rd rs1 rs2 => Sys2Proof.Machine.execMulhsu rd rs1 rs2 s
  | .mulhu rd rs1 rs2 => Sys2Proof.Machine.execMulhu rd rs1 rs2 s
  | .div rd rs1 rs2 => Sys2Proof.Machine.execDiv rd rs1 rs2 s
  | .divu rd rs1 rs2 => Sys2Proof.Machine.execDivu rd rs1 rs2 s
  | .rem rd rs1 rs2 => Sys2Proof.Machine.execRem rd rs1 rs2 s
  | .remu rd rs1 rs2 => Sys2Proof.Machine.execRemu rd rs1 rs2 s
  | .cLw rdp rs1p uimm => Sys2Proof.Machine.execCLw rdp rs1p uimm s
  | .cSw rs2p rs1p uimm => Sys2Proof.Machine.execCSw rs2p rs1p uimm s
  | .cLwsp rd uimm => Sys2Proof.Machine.execCLwsp rd uimm s
  | .cSwsp rs2 uimm => Sys2Proof.Machine.execCSwsp rs2 uimm s
  | .cBeqz rs1p offset => Sys2Proof.Machine.execCBeqz rs1p offset s
  | .cBnez rs1p offset => Sys2Proof.Machine.execCBnez rs1p offset s
  | .cJ offset => Sys2Proof.Machine.execCJ offset s
  | .cJr rs1 => Sys2Proof.Machine.execCJr rs1 s
  | .cJal offset => Sys2Proof.Machine.execCJal offset s
  | .cJalr rs1 => Sys2Proof.Machine.execCJalr rs1 s
  | .cEbreak => Sys2Proof.Machine.execCEbreak s
  | .cAdd rd rs2 => Sys2Proof.Machine.execCAdd rd rs2 s
  | .cAddi rd imm => Sys2Proof.Machine.execCAddi rd imm s
  | .cSub rdp rs2p => Sys2Proof.Machine.execCSub rdp rs2p s
  | .cAddi16sp imm => Sys2Proof.Machine.execCAddi16sp imm s
  | .cAddi4spn rdp uimm => Sys2Proof.Machine.execCAddi4spn rdp uimm s
  | .cAnd rdp rs2p => Sys2Proof.Machine.execCAnd rdp rs2p s
  | .cAndi rdp imm => Sys2Proof.Machine.execCAndi rdp imm s
  | .cOr rdp rs2p => Sys2Proof.Machine.execCOr rdp rs2p s
  | .cXor rdp rs2p => Sys2Proof.Machine.execCXor rdp rs2p s
  | .cSlli rd uimm => Sys2Proof.Machine.execCSlli rd uimm s
  | .cSrli rdp uimm => Sys2Proof.Machine.execCSrli rdp uimm s
  | .cSrai rdp uimm => Sys2Proof.Machine.execCSrai rdp uimm s
  | .cMv rd rs2 => Sys2Proof.Machine.execCMv rd rs2 s
  | .cLi rd imm => Sys2Proof.Machine.execCLi rd imm s
  | .cLui rd imm => Sys2Proof.Machine.execCLui rd imm s
  | .cFlw rdp rs1p uimm => Sys2Proof.Machine.execCFlw rdp rs1p uimm s
  | .cFlwsp rd uimm => Sys2Proof.Machine.execCFlwsp rd uimm s
  | .cFsw rs2p rs1p uimm => Sys2Proof.Machine.execCFsw rs2p rs1p uimm s
  | .cFswsp rs2 uimm => Sys2Proof.Machine.execCFswsp rs2 uimm s
  | .flw rd rs1 offset => Sys2Proof.Machine.execFlw rd rs1 offset s
  | .fsw rs2 rs1 offset => Sys2Proof.Machine.execFsw rs2 rs1 offset s
  | .fmaddS rd rs1 rs2 rs3 rm => Sys2Proof.Machine.execFmaddS rd rs1 rs2 rs3 rm s
  | .fmsubS rd rs1 rs2 rs3 rm => Sys2Proof.Machine.execFmsubS rd rs1 rs2 rs3 rm s
  | .fnmaddS rd rs1 rs2 rs3 rm => Sys2Proof.Machine.execFnmaddS rd rs1 rs2 rs3 rm s
  | .fnmsubS rd rs1 rs2 rs3 rm => Sys2Proof.Machine.execFnmsubS rd rs1 rs2 rs3 rm s
  | .faddS rd rs1 rs2 rm => Sys2Proof.Machine.execFaddS rd rs1 rs2 rm s
  | .fsubS rd rs1 rs2 rm => Sys2Proof.Machine.execFsubS rd rs1 rs2 rm s
  | .fmulS rd rs1 rs2 rm => Sys2Proof.Machine.execFmulS rd rs1 rs2 rm s
  | .fdivS rd rs1 rs2 rm => Sys2Proof.Machine.execFdivS rd rs1 rs2 rm s
  | .fsqrtS rd rs1 rm => Sys2Proof.Machine.execFsqrtS rd rs1 rm s
  | .fminS rd rs1 rs2 => Sys2Proof.Machine.execFminS rd rs1 rs2 s
  | .fmaxS rd rs1 rs2 => Sys2Proof.Machine.execFmaxS rd rs1 rs2 s
  | .fcvtWS rd rs1 rm => Sys2Proof.Machine.execFcvtWS rd rs1 rm s
  | .fcvtWuS rd rs1 rm => Sys2Proof.Machine.execFcvtWuS rd rs1 rm s
  | .fcvtSW rd rs1 rm => Sys2Proof.Machine.execFcvtSW rd rs1 rm s
  | .fcvtSWu rd rs1 rm => Sys2Proof.Machine.execFcvtSWu rd rs1 rm s
  | .fsgnjS rd rs1 rs2 => Sys2Proof.Machine.execFsgnjS rd rs1 rs2 s
  | .fsgnjnS rd rs1 rs2 => Sys2Proof.Machine.execFsgnjnS rd rs1 rs2 s
  | .fsgnjxS rd rs1 rs2 => Sys2Proof.Machine.execFsgnjxS rd rs1 rs2 s
  | .fmvXW rd rs1 => Sys2Proof.Machine.execFmvXW rd rs1 s
  | .fmvWX rd rs1 => Sys2Proof.Machine.execFmvWX rd rs1 s
  | .feqS rd rs1 rs2 => Sys2Proof.Machine.execFeqS rd rs1 rs2 s
  | .fltS rd rs1 rs2 => Sys2Proof.Machine.execFltS rd rs1 rs2 s
  | .fleS rd rs1 rs2 => Sys2Proof.Machine.execFleS rd rs1 rs2 s
  | .fclassS rd rs1 => Sys2Proof.Machine.execFclassS rd rs1 s
  | .lwu rd rs1 offset => Sys2Proof.Machine.execLwu rd rs1 offset s
  | .ld rd rs1 offset => Sys2Proof.Machine.execLd rd rs1 offset s
  | .sd rs2 rs1 offset => Sys2Proof.Machine.execSd rs2 rs1 offset s
  | .addw rd rs1 rs2 => Sys2Proof.Machine.execAddw rd rs1 rs2 s
  | .addiw rd rs1 imm => Sys2Proof.Machine.execAddiw rd rs1 imm s
  | .subw rd rs1 rs2 => Sys2Proof.Machine.execSubw rd rs1 rs2 s
  | .sllw rd rs1 rs2 => Sys2Proof.Machine.execSllw rd rs1 rs2 s
  | .slliw rd rs1 shamt => Sys2Proof.Machine.execSlliw rd rs1 shamt s
  | .sraw rd rs1 rs2 => Sys2Proof.Machine.execSraw rd rs1 rs2 s
  | .sraiw rd rs1 shamt => Sys2Proof.Machine.execSraiw rd rs1 shamt s
  | .srliw rd rs1 shamt => Sys2Proof.Machine.execSrliw rd rs1 shamt s
  | .srlw rd rs1 rs2 => Sys2Proof.Machine.execSrlw rd rs1 rs2 s
  | .mulw rd rs1 rs2 => Sys2Proof.Machine.execMulw rd rs1 rs2 s
  | .divw rd rs1 rs2 => Sys2Proof.Machine.execDivw rd rs1 rs2 s
  | .divuw rd rs1 rs2 => Sys2Proof.Machine.execDivuw rd rs1 rs2 s
  | .remw rd rs1 rs2 => Sys2Proof.Machine.execRemw rd rs1 rs2 s
  | .remuw rd rs1 rs2 => Sys2Proof.Machine.execRemuw rd rs1 rs2 s
  | .lrD rd rs1 aq rl => Sys2Proof.Machine.execLrD rd rs1 aq rl s
  | .scD rd rs2 rs1 aq rl => Sys2Proof.Machine.execScD rd rs2 rs1 aq rl s
  | .amoaddD rd rs2 rs1 aq rl => Sys2Proof.Machine.execAmoaddD rd rs2 rs1 aq rl s
  | .amoandD rd rs2 rs1 aq rl => Sys2Proof.Machine.execAmoandD rd rs2 rs1 aq rl s
  | .amomaxD rd rs2 rs1 aq rl => Sys2Proof.Machine.execAmomaxD rd rs2 rs1 aq rl s
  | .amomaxuD rd rs2 rs1 aq rl => Sys2Proof.Machine.execAmomaxuD rd rs2 rs1 aq rl s
  | .amominD rd rs2 rs1 aq rl => Sys2Proof.Machine.execAmominD rd rs2 rs1 aq rl s
  | .amominuD rd rs2 rs1 aq rl => Sys2Proof.Machine.execAmominuD rd rs2 rs1 aq rl s
  | .amominuW rd rs2 rs1 aq rl => Sys2Proof.Machine.execAmominuW rd rs2 rs1 aq rl s
  | .amoorD rd rs2 rs1 aq rl => Sys2Proof.Machine.execAmoorD rd rs2 rs1 aq rl s
  | .amoswapD rd rs2 rs1 aq rl => Sys2Proof.Machine.execAmoswapD rd rs2 rs1 aq rl s
  | .amoxorD rd rs2 rs1 aq rl => Sys2Proof.Machine.execAmoxorD rd rs2 rs1 aq rl s
  | .fld rd rs1 offset => Sys2Proof.Machine.execFld rd rs1 offset s
  | .fsd rs2 rs1 offset => Sys2Proof.Machine.execFsd rs2 rs1 offset s
  | .fmaddD rd rs1 rs2 rs3 rm => Sys2Proof.Machine.execFmaddD rd rs1 rs2 rs3 rm s
  | .fmsubD rd rs1 rs2 rs3 rm => Sys2Proof.Machine.execFmsubD rd rs1 rs2 rs3 rm s
  | .fnmsubD rd rs1 rs2 rs3 rm => Sys2Proof.Machine.execFnmsubD rd rs1 rs2 rs3 rm s
  | .fnmaddD rd rs1 rs2 rs3 rm => Sys2Proof.Machine.execFnmaddD rd rs1 rs2 rs3 rm s
  | .faddD rd rs1 rs2 rm => Sys2Proof.Machine.execFaddD rd rs1 rs2 rm s
  | .fsubD rd rs1 rs2 rm => Sys2Proof.Machine.execFsubD rd rs1 rs2 rm s
  | .fmulD rd rs1 rs2 rm => Sys2Proof.Machine.execFmulD rd rs1 rs2 rm s
  | .fdivD rd rs1 rs2 rm => Sys2Proof.Machine.execFdivD rd rs1 rs2 rm s
  | .fsqrtD rd rs1 rm => Sys2Proof.Machine.execFsqrtD rd rs1 rm s
  | .fsgnjD rd rs1 rs2 => Sys2Proof.Machine.execFsgnjD rd rs1 rs2 s
  | .fsgnjnD rd rs1 rs2 => Sys2Proof.Machine.execFsgnjnD rd rs1 rs2 s
  | .fsgnjxD rd rs1 rs2 => Sys2Proof.Machine.execFsgnjxD rd rs1 rs2 s
  | .fminD rd rs1 rs2 => Sys2Proof.Machine.execFminD rd rs1 rs2 s
  | .fmaxD rd rs1 rs2 => Sys2Proof.Machine.execFmaxD rd rs1 rs2 s
  | .fcvtSD rd rs1 rm => Sys2Proof.Machine.execFcvtSD rd rs1 rm s
  | .fcvtDS rd rs1 rm => Sys2Proof.Machine.execFcvtDS rd rs1 rm s
  | .fcvtWD rd rs1 rm => Sys2Proof.Machine.execFcvtWD rd rs1 rm s
  | .fcvtWuD rd rs1 rm => Sys2Proof.Machine.execFcvtWuD rd rs1 rm s
  | .fcvtDW rd rs1 rm => Sys2Proof.Machine.execFcvtDW rd rs1 rm s
  | .fcvtDWu rd rs1 rm => Sys2Proof.Machine.execFcvtDWu rd rs1 rm s
  | .feqD rd rs1 rs2 => Sys2Proof.Machine.execFeqD rd rs1 rs2 s
  | .fltD rd rs1 rs2 => Sys2Proof.Machine.execFltD rd rs1 rs2 s
  | .fleD rd rs1 rs2 => Sys2Proof.Machine.execFleD rd rs1 rs2 s
  | .fmvDX rd rs1 => Sys2Proof.Machine.execFmvDX rd rs1 s
  | .fmvXD rd rs1 => Sys2Proof.Machine.execFmvXD rd rs1 s
  | .fcvtDL rd rs1 rm => Sys2Proof.Machine.execFcvtDL rd rs1 rm s
  | .fcvtDLu rd rs1 rm => Sys2Proof.Machine.execFcvtDLu rd rs1 rm s
  | .fcvtLD rd rs1 rm => Sys2Proof.Machine.execFcvtLD rd rs1 rm s
  | .fcvtLS rd rs1 rm => Sys2Proof.Machine.execFcvtLS rd rs1 rm s
  | .fcvtLuD rd rs1 rm => Sys2Proof.Machine.execFcvtLuD rd rs1 rm s
  | .fcvtLuS rd rs1 rm => Sys2Proof.Machine.execFcvtLuS rd rs1 rm s
  | .fcvtSL rd rs1 rm => Sys2Proof.Machine.execFcvtSL rd rs1 rm s
  | .fcvtSLu rd rs1 rm => Sys2Proof.Machine.execFcvtSLu rd rs1 rm s
  | .fclassD rd rs1 => Sys2Proof.Machine.execFclassD rd rs1 s
  | .cLd rdp rs1p uimm => Sys2Proof.Machine.execCLd rdp rs1p uimm s
  | .cLdsp rd uimm => Sys2Proof.Machine.execCLdsp rd uimm s
  | .cSd rs2p rs1p uimm => Sys2Proof.Machine.execCSd rs2p rs1p uimm s
  | .cSdsp rs2 uimm => Sys2Proof.Machine.execCSdsp rs2 uimm s
  | .cAddw rdp rs2p => Sys2Proof.Machine.execCAddw rdp rs2p s
  | .cAddiw rd imm => Sys2Proof.Machine.execCAddiw rd imm s
  | .cSubw rdp rs2p => Sys2Proof.Machine.execCSubw rdp rs2p s
  | .cFld rdp rs1p uimm => Sys2Proof.Machine.execCFld rdp rs1p uimm s
  | .cFldsp rd uimm => Sys2Proof.Machine.execCFldsp rd uimm s
  | .cFsd rs2p rs1p uimm => Sys2Proof.Machine.execCFsd rs2p rs1p uimm s
  | .cFsdsp rs2 uimm => Sys2Proof.Machine.execCFsdsp rs2 uimm s
  | .vsetvli rd rs1 zimm => Sys2Proof.Machine.execVsetvli rd rs1 zimm s
  | .vsetvl rd rs1 rs2 => Sys2Proof.Machine.execVsetvl rd rs1 rs2 s
  | .vlbV vd rs1 vm => Sys2Proof.Machine.execVlbV vd rs1 vm s
  | .vlhV vd rs1 vm => Sys2Proof.Machine.execVlhV vd rs1 vm s
  | .vlwV vd rs1 vm => Sys2Proof.Machine.execVlwV vd rs1 vm s
  | .vlbuV vd rs1 vm => Sys2Proof.Machine.execVlbuV vd rs1 vm s
  | .vlhuV vd rs1 vm => Sys2Proof.Machine.execVlhuV vd rs1 vm s
  | .vlwuV vd rs1 vm => Sys2Proof.Machine.execVlwuV vd rs1 vm s
  | .vleV vd rs1 vm => Sys2Proof.Machine.execVleV vd rs1 vm s
  | .vsbV vs3 rs1 vm => Sys2Proof.Machine.execVsbV vs3 rs1 vm s
  | .vshV vs3 rs1 vm => Sys2Proof.Machine.execVshV vs3 rs1 vm s
  | .vswV vs3 rs1 vm => Sys2Proof.Machine.execVswV vs3 rs1 vm s
  | .vseV vs3 rs1 vm => Sys2Proof.Machine.execVseV vs3 rs1 vm s
  | .vlsbV vd rs1 rs2 vm => Sys2Proof.Machine.execVlsbV vd rs1 rs2 vm s
  | .vlshV vd rs1 rs2 vm => Sys2Proof.Machine.execVlshV vd rs1 rs2 vm s
  | .vlswV vd rs1 rs2 vm => Sys2Proof.Machine.execVlswV vd rs1 rs2 vm s
  | .vlsbuV vd rs1 rs2 vm => Sys2Proof.Machine.execVlsbuV vd rs1 rs2 vm s
  | .vlshuV vd rs1 rs2 vm => Sys2Proof.Machine.execVlshuV vd rs1 rs2 vm s
  | .vlswuV vd rs1 rs2 vm => Sys2Proof.Machine.execVlswuV vd rs1 rs2 vm s
  | .vlseV vd rs1 rs2 vm => Sys2Proof.Machine.execVlseV vd rs1 rs2 vm s
  | .vssbV vs3 rs1 rs2 vm => Sys2Proof.Machine.execVssbV vs3 rs1 rs2 vm s
  | .vsshV vs3 rs1 rs2 vm => Sys2Proof.Machine.execVsshV vs3 rs1 rs2 vm s
  | .vsswV vs3 rs1 rs2 vm => Sys2Proof.Machine.execVsswV vs3 rs1 rs2 vm s
  | .vsseV vs3 rs1 rs2 vm => Sys2Proof.Machine.execVsseV vs3 rs1 rs2 vm s
  | .vlxbV vd rs1 vs2 vm => Sys2Proof.Machine.execVlxbV vd rs1 vs2 vm s
  | .vlxhV vd rs1 vs2 vm => Sys2Proof.Machine.execVlxhV vd rs1 vs2 vm s
  | .vlxwV vd rs1 vs2 vm => Sys2Proof.Machine.execVlxwV vd rs1 vs2 vm s
  | .vlxbuV vd rs1 vs2 vm => Sys2Proof.Machine.execVlxbuV vd rs1 vs2 vm s
  | .vlxhuV vd rs1 vs2 vm => Sys2Proof.Machine.execVlxhuV vd rs1 vs2 vm s
  | .vlxwuV vd rs1 vs2 vm => Sys2Proof.Machine.execVlxwuV vd rs1 vs2 vm s
  | .vlxeV vd rs1 vs2 vm => Sys2Proof.Machine.execVlxeV vd rs1 vs2 vm s
  | .vsxbV vs3 rs1 vs2 vm => Sys2Proof.Machine.execVsxbV vs3 rs1 vs2 vm s
  | .vsxhV vs3 rs1 vs2 vm => Sys2Proof.Machine.execVsxhV vs3 rs1 vs2 vm s
  | .vsxwV vs3 rs1 vs2 vm => Sys2Proof.Machine.execVsxwV vs3 rs1 vs2 vm s
  | .vsxeV vs3 rs1 vs2 vm => Sys2Proof.Machine.execVsxeV vs3 rs1 vs2 vm s
  | .vaddVv vd vs2 vs1 vm => Sys2Proof.Machine.execVaddVv vd vs2 vs1 vm s
  | .vaddVx vd vs2 rs1 vm => Sys2Proof.Machine.execVaddVx vd vs2 rs1 vm s
  | .vaddVi vd vs2 simm5 vm => Sys2Proof.Machine.execVaddVi vd vs2 simm5 vm s
  | .vsubVv vd vs2 vs1 vm => Sys2Proof.Machine.execVsubVv vd vs2 vs1 vm s
  | .vsubVx vd vs2 rs1 vm => Sys2Proof.Machine.execVsubVx vd vs2 rs1 vm s
  | .vrsubVx vd vs2 rs1 vm => Sys2Proof.Machine.execVrsubVx vd vs2 rs1 vm s
  | .vrsubVi vd vs2 simm5 vm => Sys2Proof.Machine.execVrsubVi vd vs2 simm5 vm s
  | .vandVv vd vs2 vs1 vm => Sys2Proof.Machine.execVandVv vd vs2 vs1 vm s
  | .vandVx vd vs2 rs1 vm => Sys2Proof.Machine.execVandVx vd vs2 rs1 vm s
  | .vandVi vd vs2 simm5 vm => Sys2Proof.Machine.execVandVi vd vs2 simm5 vm s
  | .vorVv vd vs2 vs1 vm => Sys2Proof.Machine.execVorVv vd vs2 vs1 vm s
  | .vorVx vd vs2 rs1 vm => Sys2Proof.Machine.execVorVx vd vs2 rs1 vm s
  | .vorVi vd vs2 simm5 vm => Sys2Proof.Machine.execVorVi vd vs2 simm5 vm s
  | .vxorVv vd vs2 vs1 vm => Sys2Proof.Machine.execVxorVv vd vs2 vs1 vm s
  | .vxorVx vd vs2 rs1 vm => Sys2Proof.Machine.execVxorVx vd vs2 rs1 vm s
  | .vxorVi vd vs2 simm5 vm => Sys2Proof.Machine.execVxorVi vd vs2 simm5 vm s
  | .vsllVv vd vs2 vs1 vm => Sys2Proof.Machine.execVsllVv vd vs2 vs1 vm s
  | .vsllVx vd vs2 rs1 vm => Sys2Proof.Machine.execVsllVx vd vs2 rs1 vm s
  | .vsllVi vd vs2 simm5 vm => Sys2Proof.Machine.execVsllVi vd vs2 simm5 vm s
  | .vsrlVv vd vs2 vs1 vm => Sys2Proof.Machine.execVsrlVv vd vs2 vs1 vm s
  | .vsrlVx vd vs2 rs1 vm => Sys2Proof.Machine.execVsrlVx vd vs2 rs1 vm s
  | .vsrlVi vd vs2 simm5 vm => Sys2Proof.Machine.execVsrlVi vd vs2 simm5 vm s
  | .vsraVv vd vs2 vs1 vm => Sys2Proof.Machine.execVsraVv vd vs2 vs1 vm s
  | .vsraVx vd vs2 rs1 vm => Sys2Proof.Machine.execVsraVx vd vs2 rs1 vm s
  | .vsraVi vd vs2 simm5 vm => Sys2Proof.Machine.execVsraVi vd vs2 simm5 vm s
  | .vmseqVv vd vs2 vs1 vm => Sys2Proof.Machine.execVmseqVv vd vs2 vs1 vm s
  | .vmseqVx vd vs2 rs1 vm => Sys2Proof.Machine.execVmseqVx vd vs2 rs1 vm s
  | .vmseqVi vd vs2 simm5 vm => Sys2Proof.Machine.execVmseqVi vd vs2 simm5 vm s
  | .vmsneVv vd vs2 vs1 vm => Sys2Proof.Machine.execVmsneVv vd vs2 vs1 vm s
  | .vmsneVx vd vs2 rs1 vm => Sys2Proof.Machine.execVmsneVx vd vs2 rs1 vm s
  | .vmsneVi vd vs2 simm5 vm => Sys2Proof.Machine.execVmsneVi vd vs2 simm5 vm s
  | .vmsltuVv vd vs2 vs1 vm => Sys2Proof.Machine.execVmsltuVv vd vs2 vs1 vm s
  | .vmsltuVx vd vs2 rs1 vm => Sys2Proof.Machine.execVmsltuVx vd vs2 rs1 vm s
  | .vmsltVv vd vs2 vs1 vm => Sys2Proof.Machine.execVmsltVv vd vs2 vs1 vm s
  | .vmsltVx vd vs2 rs1 vm => Sys2Proof.Machine.execVmsltVx vd vs2 rs1 vm s
  | .vmsleuVv vd vs2 vs1 vm => Sys2Proof.Machine.execVmsleuVv vd vs2 vs1 vm s
  | .vmsleuVx vd vs2 rs1 vm => Sys2Proof.Machine.execVmsleuVx vd vs2 rs1 vm s
  | .vmsleuVi vd vs2 simm5 vm => Sys2Proof.Machine.execVmsleuVi vd vs2 simm5 vm s
  | .vmsleVv vd vs2 vs1 vm => Sys2Proof.Machine.execVmsleVv vd vs2 vs1 vm s
  | .vmsleVx vd vs2 rs1 vm => Sys2Proof.Machine.execVmsleVx vd vs2 rs1 vm s
  | .vmsleVi vd vs2 simm5 vm => Sys2Proof.Machine.execVmsleVi vd vs2 simm5 vm s
  | .vmsgtuVx vd vs2 rs1 vm => Sys2Proof.Machine.execVmsgtuVx vd vs2 rs1 vm s
  | .vmsgtuVi vd vs2 simm5 vm => Sys2Proof.Machine.execVmsgtuVi vd vs2 simm5 vm s
  | .vmsgtVx vd vs2 rs1 vm => Sys2Proof.Machine.execVmsgtVx vd vs2 rs1 vm s
  | .vmsgtVi vd vs2 simm5 vm => Sys2Proof.Machine.execVmsgtVi vd vs2 simm5 vm s
  | .vminuVv vd vs2 vs1 vm => Sys2Proof.Machine.execVminuVv vd vs2 vs1 vm s
  | .vminuVx vd vs2 rs1 vm => Sys2Proof.Machine.execVminuVx vd vs2 rs1 vm s
  | .vminVv vd vs2 vs1 vm => Sys2Proof.Machine.execVminVv vd vs2 vs1 vm s
  | .vminVx vd vs2 rs1 vm => Sys2Proof.Machine.execVminVx vd vs2 rs1 vm s
  | .vmaxuVv vd vs2 vs1 vm => Sys2Proof.Machine.execVmaxuVv vd vs2 vs1 vm s
  | .vmaxuVx vd vs2 rs1 vm => Sys2Proof.Machine.execVmaxuVx vd vs2 rs1 vm s
  | .vmaxVv vd vs2 vs1 vm => Sys2Proof.Machine.execVmaxVv vd vs2 vs1 vm s
  | .vmaxVx vd vs2 rs1 vm => Sys2Proof.Machine.execVmaxVx vd vs2 rs1 vm s
  | .vmulVv vd vs2 vs1 vm => Sys2Proof.Machine.execVmulVv vd vs2 vs1 vm s
  | .vmulVx vd vs2 rs1 vm => Sys2Proof.Machine.execVmulVx vd vs2 rs1 vm s
  | .vmulhVv vd vs2 vs1 vm => Sys2Proof.Machine.execVmulhVv vd vs2 vs1 vm s
  | .vmulhVx vd vs2 rs1 vm => Sys2Proof.Machine.execVmulhVx vd vs2 rs1 vm s
  | .vmulhuVv vd vs2 vs1 vm => Sys2Proof.Machine.execVmulhuVv vd vs2 vs1 vm s
  | .vmulhuVx vd vs2 rs1 vm => Sys2Proof.Machine.execVmulhuVx vd vs2 rs1 vm s
  | .vmulhsuVv vd vs2 vs1 vm => Sys2Proof.Machine.execVmulhsuVv vd vs2 vs1 vm s
  | .vmulhsuVx vd vs2 rs1 vm => Sys2Proof.Machine.execVmulhsuVx vd vs2 rs1 vm s
  | .vmaccVv vd vs2 vs1 vm => Sys2Proof.Machine.execVmaccVv vd vs2 vs1 vm s
  | .vmaccVx vd vs2 rs1 vm => Sys2Proof.Machine.execVmaccVx vd vs2 rs1 vm s
  | .vnmsacVv vd vs2 vs1 vm => Sys2Proof.Machine.execVnmsacVv vd vs2 vs1 vm s
  | .vnmsacVx vd vs2 rs1 vm => Sys2Proof.Machine.execVnmsacVx vd vs2 rs1 vm s
  | .vmaddVv vd vs2 vs1 vm => Sys2Proof.Machine.execVmaddVv vd vs2 vs1 vm s
  | .vmaddVx vd vs2 rs1 vm => Sys2Proof.Machine.execVmaddVx vd vs2 rs1 vm s
  | .vnmsubVv vd vs2 vs1 vm => Sys2Proof.Machine.execVnmsubVv vd vs2 vs1 vm s
  | .vnmsubVx vd vs2 rs1 vm => Sys2Proof.Machine.execVnmsubVx vd vs2 rs1 vm s

end Sys2Proof.Machine
end

