-- ==== Sys2Proof/Machine/Fetch.lean ====
section
/-! DEFINITION. Fetching an instruction's bytes (R102, R110, R131). -/

namespace Sys2Proof.Machine

open Sys2Proof

variable {c : Config}

/-- How a fetch ends (R110). -/
inductive Fetched (c : Config) where
  /-- a byte lies where execution is not allowed: InstructionAccessFault; the hart after what was read before it -/
  | fault (h : Hart c)
  /-- a byte is in stale_code: the spec refuses (R131) -/
  | stale
  /-- the instruction's bits, and the hart after the fetch -/
  | fetched (code : Code) (h : Hart c)
deriving DecidableEq, Repr

/-- The 16-bit parcel at an address, little-endian (R102). -/
def Hart.parcel (h : Hart c) (a : BitVec c.xlen) : BitVec 16 := (h.readValue a 2).setWidth 16

/-- Some byte of the n at a is in stale_code (R131). -/
def Hart.anyStale (h : Hart c) (a : BitVec c.xlen) (n : Nat) : Bool :=
  (List.range n).any fun i => h.stale.contains (byteAddr a i)

/-- `FetchRead(pc)` (R110): the first parcel, its two low bits for the length (R141), the second parcel if there is one.
A parcel that holds a stale byte has no defined value, so nothing is concluded from it (R131; log 12). -/
def Hart.fetch (h : Hart c) : Fetched c :=
  if !allAllowed c .fetch h.pc 2 then .fault h
  else if h.anyStale h.pc 2 then .stale
  else
    let p0 := h.parcel h.pc
    let h1 := h.afterRead h.pc 2
    if p0.extractLsb' 0 2 ≠ 3 then .fetched (.half p0) h1
    else if !allAllowed c .fetch (h.pc + 2) 2 then .fault h1
    else if h.anyStale (h.pc + 2) 2 then .stale
    else .fetched (.word (h1.parcel (h.pc + 2) ++ p0)) (h1.afterRead (h.pc + 2) 2)

end Sys2Proof.Machine
end

