-- ==== Sys2Proof/Machine/Step.lean ====
section
/-! DEFINITION. One step of the machine (R175, R725, R745). -/

namespace Sys2Proof.Machine

open Sys2Proof

/-- An instruction with these bits, fetched by the hart: decoded and executed, or an illegal instruction (R175, R176).
`noncomputable` for the reason of log 22 only. -/
noncomputable def State.execCode (s : State) (code : Code) : Host.Outcome State Fault Refusal :=
  match decode s.cfg code with
  | some i => exec i s
  | none => s.run code .illegal

/-- Steps 3 and 4 of R725, for a hart that is not waiting: an interrupt if R723 selects one, else one instruction. -/
noncomputable def State.runStep (s : State) : Host.Outcome State Fault Refusal :=
  match s.hart.interrupt with
  | some code => .next (s.withHart ((s.hart.trap true code 0).tick 0))
  | none =>
    match s.hart.fetch with
    | .stale => .refused .staleFetch
    | .fault h => s.run (.half 0) (.trap h .instructionAccessFault h.pc)
    | .fetched code h => (s.withHart h).execCode code

/-- One step (R725): sample the inputs, wait or wake (R745), then an interrupt or an instruction. It is refused, before
anything else, when pc came through a trap register that nothing has written (R764; log 11). -/
noncomputable def step (s : State) : Host.Outcome State Fault Refusal :=
  if s.hart.pcUnspecified then .refused .jumpThroughUnwrittenRegister
  else
    let s1 := s.withHart s.hart.sample
    if s1.hart.waiting then
      if s1.hart.pend = 0 then .next (s1.withHart (s1.hart.tick 0))
      else State.runStep (s1.withHart { s1.hart with waiting := false })
    else State.runStep s1

/-- The state with the instruction whose bits are w, numbered as spec/opcode_table.json numbers them, where the next
step fetches and runs it (log 13): its four bytes are in memory at pc and are not stale, the hart is not waiting, pc is
taken as written, and no interrupt is enabled in mie. -/
def State.withFetchWord (s : State) (_nbits w : Nat) : State :=
  s.withHart
    { s.hart with
      mem := Memory.store s.hart.mem s.hart.pc (BitVec.ofNat 64 w) 4
      stale := s.hart.stale.filter fun a => !(List.range 4).any fun i => a == byteAddr s.hart.pc i
      waiting := false
      pcUnspecified := false
      mie := 0 }

end Sys2Proof.Machine
end

