-- ==== Sys2Proof/Safety.lean ====
section
/-! DEFINITION. What claims say of a state and of a step: the invariant of the machine, part by part, and when a step
answers a next state. -/

namespace Sys2Proof.Machine

open Sys2Proof

variable {c : Config}

/-- Memory is in canonical form and every listed address exists (R95, R100). -/
def Hart.memOk (h : Hart c) : Prop := Memory.wf h.mem = true ∧ ∀ p ∈ h.mem, p.1 < 2 ^ c.xlen

/-- stale_code is a set of addresses in rising order (R131). -/
def Hart.staleOk (h : Hart c) : Prop := h.stale.Pairwise (· < ·) ∧ ∀ a ∈ h.stale, a < 2 ^ c.xlen

/-- pc, mepc and sepc are even (R40, R59, R705). -/
def Hart.evenOk (h : Hart c) : Prop := h.pc.getLsbD 0 = false ∧ h.mepc.getLsbD 0 = false ∧ h.sepc.getLsbD 0 = false

/-- MODE of mtvec and of stvec is 0 or 1 (R55). -/
def Hart.tvecOk (h : Hart c) : Prop := tvecLegal h.mtvec = true ∧ tvecLegal h.stvec = true

/-- The current mode and MPP are modes that exist (R53, R735). -/
def Hart.modeOk (h : Hart c) : Prop := h.priv.present c = true ∧ h.mstatus.mpp.present c = true

/-- The hardwired bits of mstatus hold their value: without S-mode SIE, SPIE, SPP, SUM, MXR, TVM and TSR are 0, without
F so is FS, without U-mode MPRV, without both TW (R53). -/
def Hart.statusOk (h : Hart c) : Prop :=
  let m := h.mstatus
  (c.hasS = false → m.sie = false ∧ m.spie = false ∧ m.spp = false ∧ m.sum = false ∧ m.mxr = false ∧ m.tvm = false ∧
    m.tsr = false) ∧
  (c.hasF = false → m.fs = 0) ∧ (c.hasU = false → m.mprv = false) ∧
  (c.hasS = false → c.hasU = false → m.tw = false)

/-- The hardwired 0 bits of medeleg, mideleg and mie are 0 (R56, R57). -/
def Hart.trapMaskOk (h : Hart c) : Prop :=
  h.medeleg &&& ~~~medelegMask c = 0 ∧ h.mideleg &&& ~~~midelegMask c = 0 ∧ h.mie &&& ~~~mieMask c = 0

/-- vtype is either vill = 1 with every other bit 0 and vl = 0, or a supported setting with vl at most VLMAX; and vstart
is an element index below VLEN (R71, R75, R81, R544, R545). -/
def Hart.vectorOk (h : Hart c) : Prop :=
  ((h.vtype = BitVec.twoPow c.xlen (c.xlen - 1) ∧ h.vl = 0) ∨
    (vtypeSupported c h.vtype = true ∧ h.vl.toNat ≤ vlmaxOf c h.vtype)) ∧
  h.vstart.toNat < c.vlen

/-- The invariant of the hart: what every reachable state has, whatever program runs. -/
def Hart.Inv (h : Hart c) : Prop :=
  h.memOk ∧ h.staleOk ∧ h.evenOk ∧ h.tvecOk ∧ h.modeOk ∧ h.statusOk ∧ h.trapMaskOk ∧ h.vectorOk

/-- The invariant of the machine: a configuration the spec admits, and a hart with the invariant. -/
def State.Inv (s : State) : Prop := s.cfg.wf = true ∧ s.hart.Inv

/-- The hart is about to execute the instruction with these bits at pc: it does not wait, pc is as written, no interrupt
is selected after the inputs are sampled, and the fetch gives these bits (R725 step 4). -/
def State.Fetches (s : State) (code : Code) (h : Hart s.cfg) : Prop :=
  s.hart.pcUnspecified = false ∧ s.hart.waiting = false ∧ s.hart.sample.interrupt = none ∧
    s.hart.sample.fetch = .fetched code h

/-- The step answers a next state: it neither faults nor is refused. -/
def State.Runs (s : State) : Prop := ∃ t, step s = .next t

/-! ## How an instruction ends

Each of these says that `exec` ANSWERS A NEXT STATE, which one, and its frame: the last clause writes the hart after the
instruction as the hart before it with the named fields replaced, so every field it does not name is unchanged (other
registers, flags, CSRs, exception registers, memory, the vector setting). mcycle and draws are named everywhere: their
advance is free (R64, R740; log 7, 20). -/

/-- The instruction raises this exception: the trap of R710 is taken, and nothing else has changed (R706). -/
def State.Raises (s : State) (i : Instr) (e : Exc) (tval : BitVec s.cfg.xlen) : Prop :=
  exec i s = .next (s.withHart (s.hart.raise e tval))

/-- The instruction raises IllegalInstruction, with its own bits as the trap value (R182, R703). -/
def State.RaisesIllegal (s : State) (i : Instr) : Prop :=
  s.Raises i .illegalInstruction (BitVec.ofNat s.cfg.xlen (encode i).toNat)

/-- pc moves past the instruction (R41) and minstret counts it (R64). -/
def Hart.Passes (h t : Hart c) (i : Instr) : Prop :=
  t.pc = h.pc + BitVec.ofNat c.xlen i.ilen ∧ t.minstret = h.minstret + 1

/-- x[rd] becomes v, where x0 stays 0, and every other x register is unchanged (R31). -/
def Hart.XBecomes (h t : Hart c) (rd : BitVec 5) (v : BitVec c.xlen) : Prop :=
  t.getX rd = (if rd = 0 then 0 else v) ∧ ∀ r, r ≠ rd → t.getX r = h.getX r

/-- f[rd] becomes w and every other f register is unchanged. -/
def Hart.FBecomes (h t : Hart c) (rd : BitVec 5) (w : BitVec c.flen) : Prop :=
  t.getF rd = w ∧ ∀ r, r ≠ rd → t.getF r = h.getF r

/-- The flags accrue, and mstatus.FS is Dirty where `dirty` says so (R402, R409 step 5). -/
def Hart.FlagsAccrue (h t : Hart c) (fl : BitVec 5) (dirty : Prop) : Prop :=
  t.fflags = h.fflags ||| fl ∧ (dirty → t.mstatus = { h.mstatus with fs := 3 }) ∧ (¬dirty → t.mstatus = h.mstatus)

/-- The instruction completes with x[rd] <- v and changes nothing else. -/
def State.WritesX (s : State) (i : Instr) (rd : BitVec 5) (v : BitVec s.cfg.xlen) : Prop :=
  ∃ t : Hart s.cfg, exec i s = .next (s.withHart t) ∧ s.hart.XBecomes t rd v ∧ s.hart.Passes t i ∧
    t = { s.hart with x := t.x, pc := t.pc, minstret := t.minstret, mcycle := t.mcycle, draws := t.draws }

/-- The instruction completes and changes nothing but pc and the counters. -/
def State.OnlyPasses (s : State) (i : Instr) : Prop :=
  ∃ t : Hart s.cfg, exec i s = .next (s.withHart t) ∧ s.hart.Passes t i ∧
    t = { s.hart with pc := t.pc, minstret := t.minstret, mcycle := t.mcycle, draws := t.draws }

/-- The instruction completes with pc <- target and changes nothing else. -/
def State.JumpsTo (s : State) (i : Instr) (target : BitVec s.cfg.xlen) : Prop :=
  ∃ t : Hart s.cfg, exec i s = .next (s.withHart t) ∧ t.pc = target ∧ t.minstret = s.hart.minstret + 1 ∧
    t = { s.hart with pc := t.pc, minstret := t.minstret, mcycle := t.mcycle, draws := t.draws }

/-- The instruction completes with x[rd] <- the address after it and pc <- target, and changes nothing else. -/
def State.LinksTo (s : State) (i : Instr) (rd : BitVec 5) (target : BitVec s.cfg.xlen) : Prop :=
  ∃ t : Hart s.cfg, exec i s = .next (s.withHart t) ∧
    s.hart.XBecomes t rd (s.hart.pc + BitVec.ofNat s.cfg.xlen i.ilen) ∧ t.pc = target ∧
    t.minstret = s.hart.minstret + 1 ∧
    t = { s.hart with x := t.x, pc := t.pc, minstret := t.minstret, mcycle := t.mcycle, draws := t.draws }

/-- A conditional branch: to pc + offset when the condition holds, else to the next instruction (R300). -/
def State.BranchRule (s : State) (i : Instr) (cond : Prop) (offset : BitVec s.cfg.xlen) : Prop :=
  (cond → s.JumpsTo i (s.hart.pc + offset)) ∧ (¬cond → s.OnlyPasses i)

/-! ## Memory accesses -/

/-- An access of n bytes at a is aligned, and every byte of it lies where the map allows the access (R104, R106,
R119). -/
def AccessOk (c : Config) (k : Access) (a : BitVec c.xlen) (n : Nat) : Prop :=
  a.toNat % n = 0 ∧ ∀ i < n, byteAllowed c k (byteAddr a i) = true

/-- The n bytes at a as a number, little-endian: byte k weighs 256^k (R101). -/
def Memory.nat {x : Nat} (m : List Host.Cell) (a : BitVec x) : Nat → Nat
  | 0 => 0
  | n + 1 => Memory.nat m a n + (Memory.read m (byteAddr a n)).toNat * 256 ^ n

/-- The low bits of a number read as a signed number of w bits, extended to XLEN. -/
def signedX (c : Config) (w v : Nat) : BitVec c.xlen := (BitVec.ofNat w v).signExtend c.xlen

/-- What an access that is not allowed does: the misaligned exception of its kind first, else its access fault, with the
address as trap value (R104, R106, R703, R704). -/
def State.AccessTraps (s : State) (i : Instr) (k : Access) (a : BitVec s.cfg.xlen) (n : Nat) : Prop :=
  (a.toNat % n ≠ 0 → s.Raises i k.misaligned a) ∧
  (a.toNat % n = 0 → (¬∀ j < n, byteAllowed s.cfg k (byteAddr a j) = true) → s.Raises i k.accessFault a)

/-- A device read is recorded; a read of main memory leaves no trace (R111; log 10). -/
def Hart.ReadTrace (h t : Hart c) (a : BitVec c.xlen) (n : Nat) : Prop :=
  (touchesIo c a n = false → t.ioOut = h.ioOut) ∧ (touchesIo c a n = true → t.ioOut = h.ioOut ++ [.read a.toNat n])

/-- A load into x[rd] of n bytes at a; `ext` makes the register value of the number read. What a device answers is
free (R111; log 10). -/
def State.LoadRule (s : State) (i : Instr) (k : Access) (rd : BitVec 5) (a : BitVec s.cfg.xlen) (n : Nat)
    (ext : Nat → BitVec s.cfg.xlen) : Prop :=
  (AccessOk s.cfg k a n → ∃ (t : Hart s.cfg) (v : BitVec s.cfg.xlen), exec i s = .next (s.withHart t) ∧
    (touchesIo s.cfg a n = false → v = ext (Memory.nat s.hart.mem a n)) ∧ s.hart.XBecomes t rd v ∧ s.hart.Passes t i ∧
    s.hart.ReadTrace t a n ∧
    t = { s.hart with x := t.x, pc := t.pc, minstret := t.minstret, mcycle := t.mcycle, draws := t.draws,
                      ioOut := t.ioOut }) ∧
  s.AccessTraps i k a n

/-- What a store of the n low bytes of v at a leaves: in main memory byte k of v at a + k and every other byte as it was;
and the n addresses in stale_code (R101, R106, R111, R131). An access with any byte in an io region is the device's
whole: memory is as it was and the write recorded, which is the model's choice (log 10). -/
def Hart.Stored (h t : Hart c) (a : BitVec c.xlen) (n : Nat) (v : Nat) : Prop :=
  (touchesIo c a n = false → t.ioOut = h.ioOut ∧
    (∀ k < n, (Memory.read t.mem (byteAddr a k)).toNat = v / 256 ^ k % 256) ∧
    ∀ b, (∀ k < n, b ≠ byteAddr a k) → Memory.read t.mem b = Memory.read h.mem b) ∧
  (touchesIo c a n = true → t.mem = h.mem ∧
    t.ioOut = h.ioOut ++ [.write a.toNat n (BitVec.ofNat 64 (v % 256 ^ n))]) ∧
  ∀ b, b ∈ t.stale ↔ b ∈ h.stale ∨ ∃ k < n, b = byteAddr a k

/-- A store of the n low bytes of v at a. -/
def State.StoreRule (s : State) (i : Instr) (a : BitVec s.cfg.xlen) (n : Nat) (v : Nat) : Prop :=
  (AccessOk s.cfg .store a n → ∃ t : Hart s.cfg, exec i s = .next (s.withHart t) ∧ s.hart.Stored t a n v ∧
    s.hart.Passes t i ∧
    t = { s.hart with mem := t.mem, stale := t.stale, ioOut := t.ioOut, pc := t.pc, minstret := t.minstret,
                      mcycle := t.mcycle, draws := t.draws }) ∧
  s.AccessTraps i .store a n

/-- An AMO of n bytes at a: the old value to x[rd], `op` of it to memory (R460). With any byte in an io region the old
value is free, memory is as it was and a read and a write are recorded, which is the model's choice (log 10). -/
def State.AmoRule (s : State) (i : Instr) (rd : BitVec 5) (a : BitVec s.cfg.xlen) (n : Nat) (op : Nat → Nat)
    (ext : Nat → BitVec s.cfg.xlen) : Prop :=
  (AccessOk s.cfg .amo a n → ∃ (t : Hart s.cfg) (old : Nat), exec i s = .next (s.withHart t) ∧
    (touchesIo s.cfg a n = false → old = Memory.nat s.hart.mem a n ∧ s.hart.Stored t a n (op old)) ∧
    (touchesIo s.cfg a n = true → t.mem = s.hart.mem ∧
      t.ioOut = s.hart.ioOut ++ [.read a.toNat n, .write a.toNat n (BitVec.ofNat 64 (op old % 256 ^ n))]) ∧
    (∀ b, b ∈ t.stale ↔ b ∈ s.hart.stale ∨ ∃ k < n, b = byteAddr a k) ∧
    s.hart.XBecomes t rd (ext old) ∧ s.hart.Passes t i ∧
    t = { s.hart with x := t.x, mem := t.mem, stale := t.stale, ioOut := t.ioOut, pc := t.pc, minstret := t.minstret,
                      mcycle := t.mcycle, draws := t.draws }) ∧
  s.AccessTraps i .amo a n

/-! ## Floating point -/

/-- Illegal while mstatus.FS is Off; otherwise p (R53, R409 step 1). -/
def State.FpGated (s : State) (i : Instr) (p : Prop) : Prop :=
  (s.hart.mstatus.fs = 0 → s.RaisesIllegal i) ∧ (s.hart.mstatus.fs ≠ 0 → p)

/-- The same, and illegal when rm names no rounding mode (R401, R409 step 2). -/
def State.RmGated (s : State) (i : Instr) (rm : BitVec 3) (p : Rounding → Prop) : Prop :=
  s.FpGated i ((effRm s.hart.frm rm = none → s.RaisesIllegal i) ∧ ∀ m, effRm s.hart.frm rm = some m → p m)

/-- The instruction completes with f[rd] <- w and the flags fl accrued. -/
def State.WritesF (s : State) (i : Instr) (rd : BitVec 5) (w : BitVec s.cfg.flen) (fl : BitVec 5) : Prop :=
  ∃ t : Hart s.cfg, exec i s = .next (s.withHart t) ∧ s.hart.FBecomes t rd w ∧ s.hart.FlagsAccrue t fl True ∧
    s.hart.Passes t i ∧
    t = { s.hart with f := t.f, fflags := t.fflags, mstatus := t.mstatus, pc := t.pc, minstret := t.minstret,
                      mcycle := t.mcycle, draws := t.draws }

/-- The instruction completes with x[rd] <- v and the flags fl accrued. -/
def State.WritesXF (s : State) (i : Instr) (rd : BitVec 5) (v : BitVec s.cfg.xlen) (fl : BitVec 5) : Prop :=
  ∃ t : Hart s.cfg, exec i s = .next (s.withHart t) ∧ s.hart.XBecomes t rd v ∧ s.hart.FlagsAccrue t fl (fl ≠ 0) ∧
    s.hart.Passes t i ∧
    t = { s.hart with x := t.x, fflags := t.fflags, mstatus := t.mstatus, pc := t.pc, minstret := t.minstret,
                      mcycle := t.mcycle, draws := t.draws }

/-- A rounding operation with a single-precision result. -/
def State.RoundsS (s : State) (i : Instr) (rd : BitVec 5) (rm : BitVec 3) (op : Rounding → Rounded) : Prop :=
  s.RmGated i rm fun m => s.WritesF i rd (box32 s.cfg (BitVec.ofNat 32 (op m).1)) (op m).2

/-- A rounding operation with a double-precision result. -/
def State.RoundsD (s : State) (i : Instr) (rd : BitVec 5) (rm : BitVec 3) (op : Rounding → Rounded) : Prop :=
  s.RmGated i rm fun m => s.WritesF i rd ((BitVec.ofNat 64 (op m).1).setWidth s.cfg.flen) (op m).2

/-- A conversion to a w-bit integer, sign-extended to XLEN (R406). -/
def State.ConvertsX (s : State) (i : Instr) (rd : BitVec 5) (rm : BitVec 3) (w : Nat)
    (op : Rounding → Int × BitVec 5) : Prop :=
  s.RmGated i rm fun m => s.WritesXF i rd ((BitVec.ofInt w (op m).1).signExtend s.cfg.xlen) (op m).2

/-- A comparison into x[rd] (R408). -/
def State.ComparesX (s : State) (i : Instr) (rd : BitVec 5) (r : Bool × BitVec 5) : Prop :=
  s.FpGated i (s.WritesXF i rd (if r.1 then 1 else 0) r.2)

/-- A load of n bytes at a into f[rd]. -/
def State.LoadFRule (s : State) (i : Instr) (rd : BitVec 5) (a : BitVec s.cfg.xlen) (n : Nat)
    (ext : Nat → BitVec s.cfg.flen) : Prop :=
  s.FpGated i
    ((AccessOk s.cfg .load a n → ∃ (t : Hart s.cfg) (w : BitVec s.cfg.flen), exec i s = .next (s.withHart t) ∧
      (touchesIo s.cfg a n = false → w = ext (Memory.nat s.hart.mem a n)) ∧ s.hart.FBecomes t rd w ∧
      s.hart.FlagsAccrue t 0 True ∧ s.hart.Passes t i ∧ s.hart.ReadTrace t a n ∧
      t = { s.hart with f := t.f, mstatus := t.mstatus, pc := t.pc, minstret := t.minstret, mcycle := t.mcycle,
                        draws := t.draws, ioOut := t.ioOut }) ∧
    s.AccessTraps i .load a n)

/-! ## The numbers that floating-point patterns stand for (R400, R401) -/

/-- The number a value stands for; 0 for an infinity or a NaN. -/
def FVal.value : FVal → ℚ
  | .fin neg m e => (if neg then -1 else 1) * m * (2 : ℚ) ^ e
  | _ => 0

/-- The number a pattern stands for, where it is finite (R400). -/
def valueOf (f : Fmt) {n : Nat} (w : BitVec n) : ℚ := (unpack f w).value

/-- The pattern is finite: its exponent is not all ones (R400). -/
def isFinite (f : Fmt) {n : Nat} (w : BitVec n) : Prop := expOf f w < 2 ^ f.eb - 1

/-- The unit in the last place of the largest finite numbers. -/
noncomputable def Fmt.topUlp (f : Fmt) : ℝ := (2 : ℝ) ^ (f.emin + (2 ^ f.eb : Int) - 3)

/-- The largest finite number. -/
noncomputable def Fmt.top (f : Fmt) : ℝ := ((2 : ℝ) ^ f.prec - 1) * f.topUlp

/-- The least normal number. -/
noncomputable def Fmt.least (f : Fmt) : ℝ := (2 : ℝ) ^ (f.emin + (f.mb : Int))

/-- The unit in the last place of the subnormal numbers. -/
noncomputable def Fmt.bottomUlp (f : Fmt) : ℝ := (2 : ℝ) ^ f.emin

/-- The mode rounds q away from zero: up where q is positive, down where it is negative. -/
def RoundsAway (rm : Rounding) (q : ℝ) : Prop := (rm = .rup ∧ 0 < q) ∨ (rm = .rdn ∧ q < 0)

/-- q, rounded in the mode as if the exponent had no upper bound, exceeds the largest finite number (R405 d). -/
def Overflows (f : Fmt) (rm : Rounding) (q : ℝ) : Prop :=
  if rm = .rne ∨ rm = .rmm then f.top + f.topUlp / 2 ≤ |q|
  else (RoundsAway rm q ∧ f.top < |q|) ∨ f.top + f.topUlp ≤ |q|

/-- q, rounded in the mode as if the exponent had no lower bound, stays below the least normal number: tininess after
rounding (R405 e). The numbers just below the least normal one then lie half a `bottomUlp` apart. -/
def TinyAfterRounding (f : Fmt) (rm : Rounding) (q : ℝ) : Prop :=
  if rm = .rne ∨ rm = .rmm then |q| < f.least - f.bottomUlp / 4
  else |q| < f.least ∧ (RoundsAway rm q → |q| ≤ f.least - f.bottomUlp / 2)

/-- The bits of a pattern of the format. -/
def Fmt.bits (f : Fmt) : Nat := f.eb + f.mb + 1

/-- The result is the number q rounded once to the format in the mode (R401, R405 d to g): the pattern is no NaN and has
the sign of q; a directed mode gives the nearest finite number on its side, or infinity where there is none; a
to-nearest mode the nearest finite number, a tie going to the even pattern or to the larger magnitude, and infinity from
half a unit above the largest finite number on. NX says that the result is not q, OF that q overflows the format, UF that
the result is not q and is tiny after rounding; NV and DZ are clear. -/
def RoundsTo (f : Fmt) (rm : Rounding) (q : ℝ) (r : Rounded) : Prop :=
  let w : BitVec f.bits := BitVec.ofNat f.bits r.1
  let v (u : BitVec f.bits) : ℝ := ((valueOf f u : ℚ) : ℝ)
  r.1 < 2 ^ f.bits ∧ isNaN f w = false ∧ signOf f w = decide (q < 0) ∧
  (match rm with
    | .rdn => (isFinite f w → v w ≤ q) ∧ ∀ u, isFinite f u → v u ≤ q → isFinite f w ∧ v u ≤ v w
    | .rup => (isFinite f w → q ≤ v w) ∧ ∀ u, isFinite f u → q ≤ v u → isFinite f w ∧ v w ≤ v u
    | .rtz => isFinite f w ∧ |v w| ≤ |q| ∧ ∀ u, isFinite f u → |v u| ≤ |q| → |v u| ≤ |v w|
    | .rne => (isFinite f w ↔ |q| < f.top + f.topUlp / 2) ∧
        (isFinite f w → ∀ u, isFinite f u → |v w - q| ≤ |v u - q| ∧
          (|v w - q| = |v u - q| → v u ≠ v w → w.toNat % 2 = 0))
    | .rmm => (isFinite f w ↔ |q| < f.top + f.topUlp / 2) ∧
        (isFinite f w → ∀ u, isFinite f u → |v w - q| ≤ |v u - q| ∧ (|v w - q| = |v u - q| → |v u| ≤ |v w|))) ∧
  (r.2.getLsbD 0 = false ↔ isFinite f w ∧ v w = q) ∧
  (r.2.getLsbD 1 = true ↔ r.2.getLsbD 0 = true ∧ TinyAfterRounding f rm q) ∧
  (r.2.getLsbD 2 = true ↔ Overflows f rm q) ∧
  r.2.getLsbD 3 = false ∧ r.2.getLsbD 4 = false

/-- r is the number q rounded to an integer in the mode (R401). -/
def RoundsToInt (rm : Rounding) (q : ℚ) (r : Int) : Prop :=
  match rm with
  | .rne => |(r : ℚ) - q| ≤ 1 / 2 ∧ (|(r : ℚ) - q| = 1 / 2 → r % 2 = 0)
  | .rmm => |(r : ℚ) - q| ≤ 1 / 2 ∧ (|(r : ℚ) - q| = 1 / 2 → |q| < |(r : ℚ)|)
  | .rtz => |(r : ℚ)| ≤ |q| ∧ |q| < |(r : ℚ)| + 1 ∧ 0 ≤ (r : ℚ) * q
  | .rdn => (r : ℚ) ≤ q ∧ q < r + 1
  | .rup => q ≤ r ∧ (r : ℚ) < q + 1

/-- The number a pattern stands for, infinities included. -/
noncomputable def extValue (f : Fmt) {n : Nat} (w : BitVec n) : EReal :=
  match unpack f w with
  | .inf neg => if neg then ⊥ else ⊤
  | _ => (((valueOf f w : ℚ) : ℝ) : EReal)

/-! ## CSR instructions -/

/-- A CSR instruction that reads the CSR iff `reads` and writes it iff `writes`, `new` being the value written, from the
old one (R45, R46, R323). The CSR write is that of `Hart.writeCsr`; mcycle does not fall below what it leaves (R740); the
instruction's own increment of minstret happens unless it wrote minstret (R64), or its upper half minstreth, which R64
does not name: that is the model's choice (log 16). -/
def State.CsrRule (s : State) (i : Instr) (rd : BitVec 5) (csr : BitVec 12) (reads writes : Bool)
    (new : BitVec s.cfg.xlen → BitVec s.cfg.xlen) : Prop :=
  (s.hart.csrAccess csr writes = none → s.RaisesIllegal i) ∧
  ∀ r : Csr, s.hart.csrAccess csr writes = some r →
    ∃ t h1 : Hart s.cfg, exec i s = .next (s.withHart t) ∧
      h1 = (if writes then s.hart.writeCsr r (new (s.hart.csrOld r)) else s.hart) ∧
      (reads = true → s.hart.XBecomes t rd (s.hart.readCsr r)) ∧ (reads = false → t.x = s.hart.x) ∧
      t.pc = s.hart.pc + BitVec.ofNat s.cfg.xlen i.ilen ∧ h1.mcycle.toNat ≤ t.mcycle.toNat ∧
      t.minstret = (if writes && r.isInstret then h1.minstret else s.hart.minstret + 1) ∧
      t = { h1 with x := t.x, pc := t.pc, minstret := t.minstret, mcycle := t.mcycle, draws := t.draws }

/-- The number of the CSR that the instruction writes when its access is legal, if it writes one (R46). -/
def writtenCsr (i : Instr) : Option (BitVec 12) :=
  match i with
  | .csrrw _ csr _ | .csrrwi _ csr _ => some csr
  | .csrrs _ csr field | .csrrc _ csr field | .csrrsi _ csr field | .csrrci _ csr field =>
    if field = 0 then none else some csr
  | _ => none

/-! ## Vector instructions -/

/-- Element j of the group based at register n, as an unsigned number (R87). -/
def Hart.elem (h : Hart c) (n j : Nat) : Nat := (h.velem n j).toNat

/-- Mask element j of register n, as a number: its low bit is the mask bit (R89). -/
def Hart.maskElem (h : Hart c) (n j : Nat) : Nat := ((h.getV n).extractLsb' (h.mlen * j) h.mlen).toNat

/-- Element j is in the body and active (R92). -/
def Hart.inBody (h : Hart c) (vm : BitVec 1) (j : Nat) : Prop :=
  h.vstart.toNat ≤ j ∧ j < h.vl.toNat ∧ h.active vm j = true

/-- VLMAX under the current setting (R79). -/
def Hart.vlmax (h : Hart c) : Nat := vlmaxOf c h.vtype

/-- Every vector register outside the group based at vd is unchanged (R83, R87). -/
def Hart.OtherGroups (h t : Hart c) (vd : BitVec 5) : Prop :=
  ∀ n < 32, (n < vd.toNat ∨ vd.toNat + h.lmul ≤ n) → t.getV n = h.getV n

/-- The instruction completes, its active body elements of vd become `res`, every other element and every other register
keeps its value, and vstart becomes 0 (R87, R92, R600). -/
def State.VWrites (s : State) (i : Instr) (vd : BitVec 5) (vm : BitVec 1) (res : Nat → Nat) : Prop :=
  ∃ t : Hart s.cfg, exec i s = .next (s.withHart t) ∧
    (∀ j < s.hart.vlmax, (s.hart.inBody vm j → t.elem vd.toNat j = res j) ∧
      (¬s.hart.inBody vm j → t.elem vd.toNat j = s.hart.elem vd.toNat j)) ∧
    s.hart.OtherGroups t vd ∧ t.vstart = 0 ∧ s.hart.Passes t i ∧
    t = { s.hart with v := t.v, vstart := t.vstart, pc := t.pc, minstret := t.minstret, mcycle := t.mcycle,
                      draws := t.draws }

/-- An arithmetic instruction with these element sources: legal, it writes `res`; else it is illegal (R603, R604). -/
def State.VRule (s : State) (i : Instr) (vd : BitVec 5) (vm : BitVec 1) (sources : List (BitVec 5))
    (res : Nat → Nat) : Prop :=
  (s.hart.varithOk vd vm sources = true → s.VWrites i vd vm res) ∧
  (s.hart.varithOk vd vm sources = false → s.RaisesIllegal i)

/-- The .vv form of `f`. -/
def State.VvRule (s : State) (i : BitVec 5 → BitVec 5 → BitVec 5 → BitVec 1 → Instr) (vd vs2 vs1 : BitVec 5)
    (vm : BitVec 1) (f : ElemOp) : Prop :=
  s.VRule (i vd vs2 vs1 vm) vd vm [vs2, vs1] fun j =>
    (f (s.hart.velem vs2.toNat j) (s.hart.velem vs1.toNat j)).toNat

/-- The .vx form of `f`: the scalar is x[rs1] cut or sign-extended to SEW (R601). -/
def State.VxRule (s : State) (i : BitVec 5 → BitVec 5 → BitVec 5 → BitVec 1 → Instr) (vd vs2 rs1 : BitVec 5)
    (vm : BitVec 1) (f : ElemOp) : Prop :=
  s.VRule (i vd vs2 rs1 vm) vd vm [vs2] fun j =>
    (f (s.hart.velem vs2.toNat j) ((s.hart.getX rs1).signExtend s.hart.sew)).toNat

/-- The .vi form of `f`: the immediate is sign-extended to SEW (R602). -/
def State.ViRule (s : State) (i : BitVec 5 → BitVec 5 → BitVec 5 → BitVec 1 → Instr) (vd vs2 imm : BitVec 5)
    (vm : BitVec 1) (f : ElemOp) : Prop :=
  s.VRule (i vd vs2 imm vm) vd vm [vs2] fun j => (f (s.hart.velem vs2.toNat j) (imm.signExtend s.hart.sew)).toNat

/-- The .vi form of a shift: the immediate is zero-extended (R602, R621). -/
def State.VuRule (s : State) (i : BitVec 5 → BitVec 5 → BitVec 5 → BitVec 1 → Instr) (vd vs2 imm : BitVec 5)
    (vm : BitVec 1) (f : ElemOp) : Prop :=
  s.VRule (i vd vs2 imm vm) vd vm [vs2] fun j => (f (s.hart.velem vs2.toNat j) (imm.setWidth s.hart.sew)).toNat

/-- The .vv form of a multiply-add: `f` of the old vd element, the vs2 element and the vs1 element (R688). -/
def State.VvRule3 (s : State) (i : BitVec 5 → BitVec 5 → BitVec 5 → BitVec 1 → Instr) (vd vs2 vs1 : BitVec 5)
    (vm : BitVec 1) (f : ElemOp3) : Prop :=
  s.VRule (i vd vs2 vs1 vm) vd vm [vs2, vs1] fun j =>
    (f (s.hart.velem vd.toNat j) (s.hart.velem vs2.toNat j) (s.hart.velem vs1.toNat j)).toNat

/-- The .vx form of a multiply-add (R688). -/
def State.VxRule3 (s : State) (i : BitVec 5 → BitVec 5 → BitVec 5 → BitVec 1 → Instr) (vd vs2 rs1 : BitVec 5)
    (vm : BitVec 1) (f : ElemOp3) : Prop :=
  s.VRule (i vd vs2 rs1 vm) vd vm [vs2] fun j =>
    (f (s.hart.velem vd.toNat j) (s.hart.velem vs2.toNat j) ((s.hart.getX rs1).signExtend s.hart.sew)).toNat

/-- A comparison: legal, mask element j of vd becomes 0 or 1 for the active body elements, every other mask element and
register keeps its value, and vstart becomes 0; else it is illegal (R89, R92, R639, R640). -/
def State.VMaskRule (s : State) (i : Instr) (vd : BitVec 5) (vm : BitVec 1) (sources : List (BitVec 5))
    (res : Nat → Prop) : Prop :=
  (s.hart.vcompareOk vd sources = true → ∃ t : Hart s.cfg, exec i s = .next (s.withHart t) ∧
    (∀ j < s.hart.vlmax,
      (s.hart.inBody vm j → (res j → t.maskElem vd.toNat j = 1) ∧ (¬res j → t.maskElem vd.toNat j = 0)) ∧
      (¬s.hart.inBody vm j → t.maskElem vd.toNat j = s.hart.maskElem vd.toNat j)) ∧
    (∀ n < 32, n ≠ vd.toNat → t.getV n = s.hart.getV n) ∧ t.vstart = 0 ∧ s.hart.Passes t i ∧
    t = { s.hart with v := t.v, vstart := t.vstart, pc := t.pc, minstret := t.minstret, mcycle := t.mcycle,
                      draws := t.draws }) ∧
  (s.hart.vcompareOk vd sources = false → s.RaisesIllegal i)

/-- The value a vector load puts into an element: w bits of main memory, extended to SEW (R551, R555). -/
def Hart.LoadsElem (h : Hart c) (a : BitVec c.xlen) (w : Nat) (signed : Bool) (e : Nat) : Prop :=
  touchesIo c a (w / 8) = false →
    e = if signed then ((BitVec.ofNat w (Memory.nat h.mem a (w / 8))).signExtend h.sew).toNat
        else Memory.nat h.mem a (w / 8)

/-- A vector load of elements of w bits at `addr` (R552 to R558): it completes when every active body element may be
accessed; the first that may not raises its exception with vstart = j and the earlier elements loaded; and it is illegal
when its checks fail. -/
def State.VLoadRule (s : State) (i : Instr) (vd : BitVec 5) (vm : BitVec 1) (legal : Bool) (w : Nat) (signed : Bool)
    (addr : Nat → BitVec s.cfg.xlen) : Prop :=
  (legal = false → s.RaisesIllegal i) ∧
  (legal = true → (∀ j, s.hart.inBody vm j → AccessOk s.cfg .load (addr j) (w / 8)) →
    ∃ t : Hart s.cfg, exec i s = .next (s.withHart t) ∧
      (∀ j < s.hart.vlmax, (s.hart.inBody vm j → s.hart.LoadsElem (addr j) w signed (t.elem vd.toNat j)) ∧
        (¬s.hart.inBody vm j → t.elem vd.toNat j = s.hart.elem vd.toNat j)) ∧
      s.hart.OtherGroups t vd ∧ t.vstart = 0 ∧ s.hart.Passes t i ∧
      t = { s.hart with v := t.v, vstart := t.vstart, pc := t.pc, minstret := t.minstret, mcycle := t.mcycle,
                        draws := t.draws, ioOut := t.ioOut }) ∧
  (legal = true → ∀ (j : Nat) (e : Exc), s.hart.inBody vm j →
    (∀ k < j, s.hart.inBody vm k → AccessOk s.cfg .load (addr k) (w / 8)) →
    accessCheck s.cfg .load (addr j) (w / 8) = some e →
    ∃ h1 : Hart s.cfg, exec i s = .next (s.withHart (h1.raise e (addr j))) ∧ h1.vstart.toNat = j ∧
      (∀ k < s.hart.vlmax,
        (s.hart.inBody vm k → k < j → s.hart.LoadsElem (addr k) w signed (h1.elem vd.toNat k)) ∧
        (¬(s.hart.inBody vm k ∧ k < j) → h1.elem vd.toNat k = s.hart.elem vd.toNat k)) ∧
      s.hart.OtherGroups h1 vd ∧
      h1 = { s.hart with v := h1.v, vstart := h1.vstart, draws := h1.draws, ioOut := h1.ioOut })

/-- What storing the low w bits of the active body elements of vs3 below element `stop` leaves: a byte of main memory
holds the part of the last of these elements stored to it, every byte none is stored to is unchanged, and exactly the
addresses stored to are added to stale_code; where no element touches a device, no access is recorded (R131, R555). -/
def Hart.VStored (h t : Hart c) (vs3 : BitVec 5) (vm : BitVec 1) (w stop : Nat) (addr : Nat → BitVec c.xlen) : Prop :=
  (∀ b, (∀ j k, h.inBody vm j → j < stop → k < w / 8 → b ≠ byteAddr (addr j) k) →
    Memory.read t.mem b = Memory.read h.mem b) ∧
  (∀ j k, h.inBody vm j → j < stop → k < w / 8 → touchesIo c (addr j) (w / 8) = false →
    (∀ j' k', j < j' → j' < stop → h.inBody vm j' → k' < w / 8 → byteAddr (addr j') k' ≠ byteAddr (addr j) k) →
    (Memory.read t.mem (byteAddr (addr j) k)).toNat = h.elem vs3.toNat j / 256 ^ k % 256) ∧
  (∀ b, b ∈ t.stale ↔ b ∈ h.stale ∨ ∃ j k, h.inBody vm j ∧ j < stop ∧ k < w / 8 ∧ b = byteAddr (addr j) k) ∧
  ((∀ j, h.inBody vm j → j < stop → touchesIo c (addr j) (w / 8) = false) → t.ioOut = h.ioOut)

/-- A vector store of the low w bits of the elements of vs3 at `addr` (R552 to R558): it completes, with every active body
element stored, when each may be accessed. The first element that may not be accessed raises its exception with vstart
= j, the active body elements before it stored. It is illegal when its checks fail. -/
def State.VStoreRule (s : State) (i : Instr) (vs3 : BitVec 5) (vm : BitVec 1) (legal : Bool) (w : Nat)
    (addr : Nat → BitVec s.cfg.xlen) : Prop :=
  (legal = false → s.RaisesIllegal i) ∧
  (legal = true → (∀ j, s.hart.inBody vm j → AccessOk s.cfg .store (addr j) (w / 8)) →
    ∃ t : Hart s.cfg, exec i s = .next (s.withHart t) ∧ s.hart.VStored t vs3 vm w s.hart.vl.toNat addr ∧
      t.vstart = 0 ∧ s.hart.Passes t i ∧
      t = { s.hart with mem := t.mem, stale := t.stale, ioOut := t.ioOut, vstart := t.vstart, pc := t.pc,
                        minstret := t.minstret, mcycle := t.mcycle, draws := t.draws }) ∧
  (legal = true → ∀ (j : Nat) (e : Exc), s.hart.inBody vm j →
    (∀ k < j, s.hart.inBody vm k → AccessOk s.cfg .store (addr k) (w / 8)) →
    accessCheck s.cfg .store (addr j) (w / 8) = some e →
    ∃ h1 : Hart s.cfg, exec i s = .next (s.withHart (h1.raise e (addr j))) ∧ h1.vstart.toNat = j ∧
      s.hart.VStored h1 vs3 vm w j addr ∧
      h1 = { s.hart with mem := h1.mem, stale := h1.stale, ioOut := h1.ioOut, vstart := h1.vstart })

/-! ## Whole-machine terms -/

/-- The instruction takes an exception. Before the trap it has changed nothing, but for what the elements a vector access
has transferred leave, and vstart (R555, R556, R706). -/
def State.Traps (s : State) (i : Instr) : Prop :=
  ∃ (h : Hart s.cfg) (e : Exc) (tval : BitVec s.cfg.xlen), exec i s = .next (s.withHart (h.raise e tval)) ∧
    h = { s.hart with v := h.v, vstart := h.vstart, mem := h.mem, stale := h.stale, ioOut := h.ioOut, draws := h.draws }

/-- The instructions that write memory. -/
def StoresToMemory (i : Instr) : Prop :=
  match i with
  | .sb .. | .sh .. | .sw .. | .sd .. | .cSw .. | .cSwsp .. | .cSd .. | .cSdsp .. => True
  | .fsw .. | .fsd .. | .cFsw .. | .cFswsp .. | .cFsd .. | .cFsdsp .. => True
  | .scD .. | .amoaddD .. | .amoandD .. | .amomaxD .. | .amomaxuD .. | .amominD .. | .amominuD .. => True
  | .amominuW .. | .amoorD .. | .amoswapD .. | .amoxorD .. => True
  | .vsbV .. | .vshV .. | .vswV .. | .vseV .. | .vssbV .. | .vsshV .. | .vsswV .. | .vsseV .. => True
  | .vsxbV .. | .vsxhV .. | .vsxwV .. | .vsxeV .. => True
  | _ => False

end Sys2Proof.Machine
end

