-- ==== Sys2Proof/Certificates/Slice0/Obligations.lean ====
section
/-! DEFINITION. The statements for the provers. The predicates they are written with are those of Sys2Proof/Safety.lean;
`Raises`, `WritesX` and the like say that `exec` answers a next state and which. -/

open Sys2Proof Sys2Proof.Machine

/-- Decoding an encoded instruction gives it back. For every configuration and every instruction that is well formed
in it, with every value of every operand: decoding its encoding gives exactly that instruction.
(30_encoding.md sections 1 to 4, R175) -/
def Obligations.DecodeOfEncode : Prop :=
  ∀ (c : Config) (i : Instr), i.wf c = true → decode c (encode i) = some i

/-- No two codes mean the same instruction. For every configuration and all instruction bits: if they decode to an
instruction, that instruction is well formed and its encoding is those bits, so no bit of an encoding is ignored.
(R175, R177, R178) -/
def Obligations.EncodeOfDecode : Prop :=
  ∀ (c : Config) (w : Code) (i : Instr), decode c w = some i → encode i = w ∧ i.wf c = true

/-- Words the spec writes out decode to their instructions. Eight example words of the rules decode, in the default
RV64 configuration, to the instructions the rules name.
(R301, R324, R332, R342, R369, R435, R463, R658) -/
def Obligations.WordsOfTheSpecDecode : Prop :=
  decode Config.rv64Default (.word 0x00C58863) = some (.beq 11 12 8) ∧
  decode Config.rv64Default (.word 0x34059573) = some (.csrrw 10 0x340 11) ∧
  decode Config.rv64Default (.word 0x02C58533) = some (.mul 10 11 12) ∧
  decode Config.rv64Default (.word 0x18C5B6AF) = some (.scD 13 12 11 0 0) ∧
  decode Config.rv64Default (.word 0xE0009553) = some (.fclassS 10 1) ∧
  decode Config.rv64Default (.word 0x6A854257) = some (.vmsltuVx 4 8 10 1) ∧
  decode Config.rv64Default (.word 0x30200073) = some .mret ∧
  decode Config.rv64Default (.half 0x0001) = some (.cAddi 0 0)

/-- A step executes the instruction at pc. When the hart is not waiting, pc is as written, no interrupt is selected
after the inputs are sampled, and the fetch at pc gives bits that decode to i, the step is exec of i on the machine
after the sampling and the fetch; when the bits decode to nothing, it raises IllegalInstruction with those bits as
trap value.
(R175, R725) -/
def Obligations.StepRunsDecoded : Prop :=
  ∀ (s : State) (code : Code) (h : Hart s.cfg), s.Fetches code h →
    (∀ i, decode s.cfg code = some i → step s = exec i (s.withHart h)) ∧
    (decode s.cfg code = none →
      step s = .next (s.withHart (h.raise .illegalInstruction (BitVec.ofNat s.cfg.xlen code.toNat))))

/-- Fetch reads the parcels at pc from main memory, little-endian. Where the first two bytes at pc are executable main
memory and not stale and their low two bits are not 11, the fetch gives a 16-bit instruction; where all four are and
the low two bits are 11, a 32-bit one: the byte at the lowest address least significant, addresses modulo 2^XLEN, the
hart unchanged.
(R102, R110, R141, R42) -/
def Obligations.FetchReadsMemory : Prop :=
  ∀ (c : Config) (h : Hart c),
    let good := fun k : Nat => byteAllowed c .fetch (byteAddr h.pc k) = true ∧ byteIsIo c (byteAddr h.pc k) = false ∧
      byteAddr h.pc k ∉ h.stale
    ((∀ k < 2, good k) → Memory.nat h.mem h.pc 2 % 4 ≠ 3 →
      h.fetch = .fetched (.half (BitVec.ofNat 16 (Memory.nat h.mem h.pc 2))) h) ∧
    ((∀ k < 4, good k) → Memory.nat h.mem h.pc 2 % 4 = 3 →
      h.fetch = .fetched (.word (BitVec.ofNat 32 (Memory.nat h.mem h.pc 4))) h)

/-- Fetch faults before it reads, and stops at stale bytes. A first parcel with a byte where execution is not allowed
raises InstructionAccessFault with pc as trap value; a first parcel that is allowed but holds a byte stored to since
the last fence.i is refused; and so for the second parcel of a 32-bit instruction. That a stale byte of the first
parcel refuses the step before the length and the second parcel are looked at is the model's choice (log 12).
(R110, R119, R131, log 12) -/
def Obligations.FetchChecks : Prop :=
  ∀ s : State, s.hart.pcUnspecified = false → s.hart.waiting = false → s.hart.sample.interrupt = none →
    let h := s.hart.sample
    let bad := fun n : Nat => ∃ k, n ≤ k ∧ k < n + 2 ∧ byteAllowed s.cfg .fetch (byteAddr h.pc k) = false
    let old := fun n : Nat => ∃ k, n ≤ k ∧ k < n + 2 ∧ byteAddr h.pc k ∈ h.stale
    (bad 0 → step s = .next (s.withHart (h.raise .instructionAccessFault h.pc))) ∧
    (¬bad 0 → old 0 → step s = .refused .staleFetch) ∧
    (¬bad 0 → ¬old 0 → touchesIo s.cfg h.pc 2 = false → Memory.nat h.mem h.pc 2 % 4 = 3 → bad 2 →
      step s = .next (s.withHart (h.raise .instructionAccessFault h.pc))) ∧
    (¬bad 0 → ¬old 0 → touchesIo s.cfg h.pc 2 = false → Memory.nat h.mem h.pc 2 % 4 = 3 → ¬bad 2 → old 2 →
      step s = .refused .staleFetch)

/-- No instruction stops the machine. Every instruction, with every operand, in every state, answers a next state of
the same configuration: it completes or takes an exception, and is never refused.
(R706, R710, R776) -/
def Obligations.ExecAlwaysCompletesOrTraps : Prop :=
  ∀ (i : Instr) (s : State), ∃ t : Hart s.cfg, exec i s = .next (s.withHart t)

/-- The only two refusals. A step is refused in two cases and in no other, and it never faults. It is refused as a
jump through an unwritten register exactly when the model has recorded that pc came through a trap register nothing
has written; and as a stale fetch exactly when pc is as written, the hart runs or wakes, no interrupt is selected
after the sampling, and the fetch meets a stale byte. That such a trap or return itself completes, and the step after
it is refused before it samples, is the model's choice (log 11); that the fetch looks for stale bytes parcel by parcel
is too (log 12).
(R131, R764, R776, log 11, log 12) -/
def Obligations.StepRefusals : Prop :=
  ∀ s : State, let p := s.hart.sample
    (step s = .refused .jumpThroughUnwrittenRegister ↔ s.hart.pcUnspecified = true) ∧
    (step s = .refused .staleFetch ↔ s.hart.pcUnspecified = false ∧ (s.hart.waiting = true → p.mip &&& p.mie ≠ 0) ∧
      p.interrupt = none ∧ p.fetch = .stale) ∧
    (s.Runs ∨ step s = .refused .jumpThroughUnwrittenRegister ∨ step s = .refused .staleFetch)

/-- The state after reset. In every configuration, the values the spec gives for reset: pc, mode, every field of
mstatus, the delegation, interrupt and counter enables, mcause, fcsr, the vector setting with vill = 1, no
reservation, not waiting, no stale byte. (What R762 leaves unspecified is the model choice of log 3 and 4 and is not
stated.)
(R762) -/
def Obligations.ResetState : Prop :=
  ∀ c : Config, let h := (State.resetOf c).hart
    h.pc.toNat = c.resetPc.toNat % 2 ^ c.xlen ∧ h.priv = .m ∧ h.getX 0 = 0 ∧
    h.mstatus = { sie := false, mie := false, spie := false, mpie := false, spp := false, mpp := .m, fs := 0,
                  mprv := false, sum := false, mxr := false, tvm := false, tw := false, tsr := false } ∧
    h.medeleg = 0 ∧ h.mideleg = 0 ∧ h.mie = 0 ∧ h.ssip = false ∧ h.stip = false ∧ h.seip = false ∧
    h.mcounteren = 0 ∧ h.scounteren = 0 ∧ h.mcause = 0 ∧ h.fflags = 0 ∧ h.frm = 0 ∧
    h.vstart = 0 ∧ h.vxsat = 0 ∧ h.vxrm = 0 ∧ h.vl = 0 ∧ h.vtype.toNat = 2 ^ (c.xlen - 1) ∧
    h.reservation = none ∧ h.waiting = false ∧ h.stale = []

/-- The reset state has the invariant. The state after reset has the invariant of the machine, in every configuration
the spec admits, and so has the model's own reset state.
(R40, R55, R59, R762) -/
def Obligations.ResetKeepsInvariant : Prop :=
  (∀ c : Config, c.wf = true → (State.resetOf c).Inv) ∧ State.reset.Inv

/-- Every step keeps the invariant. From every state with the invariant, not only those a run reaches, a step that
answers a next state gives one with the invariant: memory in canonical form and inside the address space, stale_code a
set, pc, mepc and sepc even, trap vectors with a legal MODE, the mode and MPP existing modes, the hardwired bits of
mstatus, medeleg, mideleg and mie in place, vtype either illegal and empty or supported with vl at most VLMAX, vstart
below VLEN.
(R40, R53, R55, R56, R57, R59, R75, R81, R544, R705, R735) -/
def Obligations.StepKeepsInvariant : Prop :=
  ∀ s t : State, s.Inv → step s = .next t → t.Inv

/-- Taking a trap, into M-mode and into S-mode. A trap raised below M-mode whose delegation bit is set, where S-mode
exists, goes to S-mode; every other (no S-mode, or raised in M-mode, or its delegation bit 0) to M-mode. It saves pc,
cause, trap value, the interrupt enable of the target mode and the old mode in the registers of the target mode,
clears that enable, enters the target mode at the vector of its mtvec or stvec, ends the reservation and the waiting,
and changes nothing else; the cause holds the code with the Interrupt bit on top. The model records, for the refusal
of R764, that mepc or sepc is now written, and that pc is not specified exactly when the mtvec or stvec it went
through was never written, as neither is after reset: these records are the model's choice (log 11). That medeleg bit
1 delegates InstructionAccessFault, as R710 and R730 say of every code, although R56 calls the bit storage for an
exception never raised, is the model's choice too (log 24).
(R56, R60, R710, R711, R764, log 11, log 24) -/
def Obligations.TrapEntry : Prop :=
  (∀ (c : Config) (h : Hart c) (intr : Bool) (code : Nat) (tval : BitVec c.xlen), code < 16 →
    let t := h.trap intr code tval
    let cause := (if intr then 2 ^ (c.xlen - 1) else 0) + code
    let handler := fun tvec : Nat =>
      (tvec / 4 * 4 + if intr && tvec % 4 == 1 then 4 * code else 0) % 2 ^ c.xlen
    let toS := c.hasS = true ∧ h.priv ≠ .m ∧ (if intr then h.mideleg else h.medeleg).getLsbD code = true
    (¬toS → t.mepc = h.pc ∧ t.mcause.toNat = cause ∧ t.mtval = tval ∧
      t.mstatus = { h.mstatus with mpie := h.mstatus.mie, mie := false, mpp := h.priv } ∧ t.priv = .m ∧
      t.pc.toNat = handler h.mtvec.toNat ∧ t.reservation = none ∧ t.waiting = false ∧
      t.mepcSet = true ∧ t.pcUnspecified = !h.mtvecSet ∧
      t = { h with mepc := t.mepc, mcause := t.mcause, mtval := t.mtval, mstatus := t.mstatus, priv := t.priv,
                   pc := t.pc, reservation := t.reservation, waiting := t.waiting, mepcSet := t.mepcSet,
                   pcUnspecified := t.pcUnspecified }) ∧
    (toS → t.sepc = h.pc ∧ t.scause.toNat = cause ∧ t.stval = tval ∧
      t.mstatus = { h.mstatus with spie := h.mstatus.sie, sie := false, spp := decide (h.priv = .s) } ∧ t.priv = .s ∧
      t.pc.toNat = handler h.stvec.toNat ∧ t.reservation = none ∧ t.waiting = false ∧
      t.sepcSet = true ∧ t.pcUnspecified = !h.stvecSet ∧
      t = { h with sepc := t.sepc, scause := t.scause, stval := t.stval, mstatus := t.mstatus, priv := t.priv,
                   pc := t.pc, reservation := t.reservation, waiting := t.waiting, sepcSet := t.sepcSet,
                   pcUnspecified := t.pcUnspecified })) ∧
  ∀ c : Config, let r := (State.resetOf c).hart
    r.mtvecSet = false ∧ r.stvecSet = false ∧ r.mepcSet = false ∧ r.sepcSet = false ∧ r.pcUnspecified = false

/-- mret and sret return from traps. In M-mode mret completes: pc from mepc, the mode from MPP, MIE from MPIE, MPIE
set, MPP to the least mode (U, or M without U-mode), MPRV cleared on leaving M, the reservation ended, and nothing
else changed; in any other mode it raises IllegalInstruction. Where S-mode exists, in M-mode, or in S-mode with TSR =
0, sret completes: pc from sepc, the mode from SPP, SIE from SPIE, SPIE set, SPP cleared, MPRV cleared, the
reservation ended, and nothing else changed; otherwise it raises IllegalInstruction. The model records, for the
refusal of R764, that pc is not specified exactly when mepc, for sret sepc, was never written: that record is the
model's choice (log 11).
(R332, R333, R462, R713, R764, log 11) -/
def Obligations.TrapReturns : Prop :=
  ∀ s : State, let h := s.hart
    let ok := s.cfg.hasS = true ∧ h.priv ≠ .u ∧ ¬(h.priv = .s ∧ h.mstatus.tsr = true)
    (h.priv = .m → ∃ t : Hart s.cfg, exec .mret s = .next (s.withHart t) ∧
      t.pc = h.mepc ∧ t.priv = h.mstatus.mpp ∧
      t.mstatus = { h.mstatus with
        mie := h.mstatus.mpie, mpie := true, mpp := if s.cfg.hasU then .u else .m,
        mprv := h.mstatus.mprv && decide (h.mstatus.mpp = .m) } ∧
      t.reservation = none ∧ t.minstret = h.minstret + 1 ∧ t.pcUnspecified = !h.mepcSet ∧
      t = { h with pc := t.pc, priv := t.priv, mstatus := t.mstatus, reservation := t.reservation,
                   minstret := t.minstret, mcycle := t.mcycle, draws := t.draws, pcUnspecified := t.pcUnspecified }) ∧
    (h.priv ≠ .m → s.RaisesIllegal .mret) ∧
    (ok → ∃ t : Hart s.cfg, exec .sret s = .next (s.withHart t) ∧
      t.pc = h.sepc ∧ t.priv = (if h.mstatus.spp then .s else .u) ∧
      t.mstatus = { h.mstatus with sie := h.mstatus.spie, spie := true, spp := false, mprv := false } ∧
      t.reservation = none ∧ t.minstret = h.minstret + 1 ∧ t.pcUnspecified = !h.sepcSet ∧
      t = { h with pc := t.pc, priv := t.priv, mstatus := t.mstatus, reservation := t.reservation,
                   minstret := t.minstret, mcycle := t.mcycle, draws := t.draws, pcUnspecified := t.pcUnspecified }) ∧
    (¬ok → s.RaisesIllegal .sret)

/-- A trap and its return restore the interrupted context. Executing mret right after a trap into M-mode brings back
pc, the mode and MIE as they were before the trap, with every x, f and v register and memory unchanged; and so does
sret after a trap into S-mode, with SIE, while TSR = 0.
(R332, R333, R710, R713) -/
def Obligations.TrapThenReturnRestores : Prop :=
  ∀ (s : State) (intr : Bool) (code : Nat) (tval : BitVec s.cfg.xlen),
    let k := s.withHart (s.hart.trap intr code tval)
    (s.hart.delegated intr code = false → ∃ t : Hart s.cfg, exec .mret k = .next (s.withHart t) ∧
      t.pc = s.hart.pc ∧ t.priv = s.hart.priv ∧ t.mstatus.mie = s.hart.mstatus.mie ∧
      t.x = s.hart.x ∧ t.f = s.hart.f ∧ t.v = s.hart.v ∧ t.mem = s.hart.mem) ∧
    (s.hart.delegated intr code = true → s.hart.mstatus.tsr = false →
      ∃ t : Hart s.cfg, exec .sret k = .next (s.withHart t) ∧
        t.pc = s.hart.pc ∧ t.priv = s.hart.priv ∧ t.mstatus.sie = s.hart.mstatus.sie ∧
        t.x = s.hart.x ∧ t.f = s.hart.f ∧ t.v = s.hart.v ∧ t.mem = s.hart.mem)

/-- ecall, ebreak and c.ebreak take their exceptions. In every state: ecall raises the environment call of the current
mode, code 8, 9 or 11, with trap value 0; ebreak and c.ebreak raise Breakpoint, code 3, with pc as trap value;
minstret does not count them.
(R330, R331, R367, R701, R703) -/
def Obligations.EcallAndBreakpoints : Prop :=
  ∀ s : State, ∃ e : Exc,
    e.code = (match s.hart.priv with | .u => 8 | .s => 9 | .m => 11) ∧ Exc.breakpoint.code = 3 ∧
    s.Raises .ecall e 0 ∧ s.Raises .ebreak .breakpoint s.hart.pc ∧ s.Raises .cEbreak .breakpoint s.hart.pc ∧
    ∀ (x : Exc) (tval : BitVec s.cfg.xlen), (s.hart.raise x tval).minstret = s.hart.minstret

/-- Which interrupt is selected. With pend = mip & mie: the M-mode interrupts are those of pend not in mideleg,
enabled below M-mode or by MIE; the S-mode ones those in mideleg, enabled in U-mode or in S-mode by SIE, where S-mode
exists. M-mode ones come first, and within one mode the order is 11, 3, 7, 9, 1, 5. None is selected exactly when
neither set offers one.
(R724) -/
def Obligations.InterruptSelection : Prop :=
  ∀ (c : Config) (h : Hart c),
    let forM := fun k : Nat => (h.priv ≠ .m ∨ h.mstatus.mie = true) ∧ h.mip.getLsbD k = true ∧ h.mie.getLsbD k = true ∧
      h.mideleg.getLsbD k = false
    let forS := fun k : Nat => c.hasS = true ∧ (h.priv = .u ∨ (h.priv = .s ∧ h.mstatus.sie = true)) ∧
      h.mip.getLsbD k = true ∧ h.mie.getLsbD k = true ∧ h.mideleg.getLsbD k = true
    let rank := fun k : Nat => [11, 3, 7, 9, 1, 5].idxOf k
    (∀ k, h.interrupt = some k → k ∈ [11, 3, 7, 9, 1, 5] ∧
      ((forM k ∧ ∀ j, forM j → rank k ≤ rank j) ∨ (forS k ∧ (∀ j, ¬forM j) ∧ ∀ j, forS j → rank k ≤ rank j))) ∧
    (h.interrupt = none → ∀ k, ¬forM k ∧ ¬forS k)

/-- Interrupts are taken between instructions, and a waiting hart waits. After the inputs are sampled: a running hart
for which an interrupt is selected takes it in this step, with trap value 0 and pc as exception pc, nothing fetched
and minstret unchanged; a waiting hart only samples while (mip & mie) = 0, mcycle aside, and as soon as it is not 0
the step is that of a hart that is not waiting.
(R334, R710, R723, R725, R745) -/
def Obligations.InterruptsAndWaiting : Prop :=
  ∀ s : State, s.hart.pcUnspecified = false →
    let p := s.hart.sample
    (s.hart.waiting = false → ∀ code, p.interrupt = some code → ∃ t : Hart s.cfg, step s = .next (s.withHart t) ∧
      t.minstret = s.hart.minstret ∧
      t = { p.trap true code 0 with mcycle := t.mcycle, draws := t.draws }) ∧
    (s.hart.waiting = true → p.mip &&& p.mie = 0 → ∃ t : Hart s.cfg, step s = .next (s.withHart t) ∧
      t = { p with mcycle := t.mcycle, draws := t.draws }) ∧
    (s.hart.waiting = true → p.mip &&& p.mie ≠ 0 → step s = step (s.withHart { s.hart with waiting := false }))

/-- The register-register integer instructions. For every state and registers: add, sub, sll, srl, sra, and, or, xor,
slt, sltu complete with x[rd] the sum, difference, shifts by the low log2(XLEN) bits of x[rs2], bitwise results and
comparisons of x[rs1] and x[rs2]; x0 stays 0; only x[rd], pc and the counters change.
(R31, R33, R270, R271, R272, R274, R276, R278, R280, R283, R289, R290) -/
def Obligations.IntegerRegisterRegister : Prop :=
  ∀ (s : State) (rd rs1 rs2 : BitVec 5),
    let a := s.hart.getX rs1
    let b := s.hart.getX rs2
    let n := b.toNat % s.cfg.xlen
    let num := fun v : Int => BitVec.ofInt s.cfg.xlen v
    s.WritesX (.add rd rs1 rs2) rd (num (a.toNat + b.toNat)) ∧
    s.WritesX (.sub rd rs1 rs2) rd (num ((a.toNat : Int) - b.toNat)) ∧
    s.WritesX (.sll rd rs1 rs2) rd (num (a.toNat * 2 ^ n)) ∧
    s.WritesX (.srl rd rs1 rs2) rd (num (a.toNat / 2 ^ n)) ∧
    s.WritesX (.sra rd rs1 rs2) rd (num (a.toInt / 2 ^ n)) ∧
    s.WritesX (.and rd rs1 rs2) rd (a &&& b) ∧
    s.WritesX (.or rd rs1 rs2) rd (a ||| b) ∧
    s.WritesX (.xor rd rs1 rs2) rd (a ^^^ b) ∧
    s.WritesX (.slt rd rs1 rs2) rd (if a.toInt < b.toInt then 1 else 0) ∧
    s.WritesX (.sltu rd rs1 rs2) rd (if a.toNat < b.toNat then 1 else 0)

/-- The immediate integer instructions, lui and auipc. For every state, registers and immediate: addi, andi, ori,
xori, slti, sltiu with the sign-extended immediate, slli, srli, srai by an amount below XLEN, lui and auipc complete
with these results in x[rd]; only x[rd], pc and the counters change.
(R144, R146, R270, R271, R273, R275, R277, R279, R281, R282, R291, R292) -/
def Obligations.IntegerImmediate : Prop :=
  ∀ (s : State) (rd rs1 : BitVec 5) (imm : BitVec 12) (shamt : BitVec 6) (up : BitVec 20),
    let a := s.hart.getX rs1
    let num := fun v : Int => BitVec.ofInt s.cfg.xlen v
    s.WritesX (.addi rd rs1 imm) rd (num (a.toInt + imm.toInt)) ∧
    s.WritesX (.andi rd rs1 imm) rd (a &&& num imm.toInt) ∧
    s.WritesX (.ori rd rs1 imm) rd (a ||| num imm.toInt) ∧
    s.WritesX (.xori rd rs1 imm) rd (a ^^^ num imm.toInt) ∧
    s.WritesX (.slti rd rs1 imm) rd (if a.toInt < imm.toInt then 1 else 0) ∧
    s.WritesX (.sltiu rd rs1 imm) rd (if a.toNat < (num imm.toInt).toNat then 1 else 0) ∧
    s.WritesX (.slli rd rs1 shamt) rd (num (a.toNat * 2 ^ shamt.toNat)) ∧
    s.WritesX (.srli rd rs1 shamt) rd (num (a.toNat / 2 ^ shamt.toNat)) ∧
    s.WritesX (.srai rd rs1 shamt) rd (num (a.toInt / 2 ^ shamt.toNat)) ∧
    s.WritesX (.lui rd up) rd (num (up.toInt * 4096)) ∧
    s.WritesX (.auipc rd up) rd (num (s.hart.pc.toNat + up.toInt * 4096))

/-- Multiplication and division. For every state and registers: mul, mulh, mulhsu, mulhu give the low and high halves
of the exact product, signed or unsigned as named; div, divu, rem, remu the quotient rounded towards zero and its
remainder, with all ones and the dividend for a divisor 0; none raises an exception; only x[rd], pc and the counters
change.
(R340, R341, R342, R343, R344, R345, R346, R347, R348, R349) -/
def Obligations.MultiplyDivide : Prop :=
  ∀ (s : State) (rd rs1 rs2 : BitVec 5),
    let a := s.hart.getX rs1
    let b := s.hart.getX rs2
    let num := fun v : Int => BitVec.ofInt s.cfg.xlen v
    s.WritesX (.mul rd rs1 rs2) rd (num (a.toInt * b.toInt)) ∧
    s.WritesX (.mulh rd rs1 rs2) rd (num (a.toInt * b.toInt / 2 ^ s.cfg.xlen)) ∧
    s.WritesX (.mulhsu rd rs1 rs2) rd (num (a.toInt * b.toNat / 2 ^ s.cfg.xlen)) ∧
    s.WritesX (.mulhu rd rs1 rs2) rd (num (a.toNat * b.toNat / 2 ^ s.cfg.xlen)) ∧
    s.WritesX (.div rd rs1 rs2) rd (if b = 0 then num (-1) else num (a.toInt.tdiv b.toInt)) ∧
    s.WritesX (.divu rd rs1 rs2) rd (if b = 0 then num (-1) else num (a.toNat / b.toNat)) ∧
    s.WritesX (.rem rd rs1 rs2) rd (if b = 0 then a else num (a.toInt.tmod b.toInt)) ∧
    s.WritesX (.remu rd rs1 rs2) rd (if b = 0 then a else num (a.toNat % b.toNat))

/-- Division by zero and signed overflow. For every state and registers, div, divu, rem and remu complete without an
exception with a quotient and a remainder such that: the quotient by 0 is all ones, signed and unsigned, and the
remainder is the dividend; the most negative number divided by -1 gives itself, with remainder 0; otherwise dividend =
quotient * divisor + remainder, the remainder smaller in magnitude than the divisor and 0 or of the sign of the
dividend.
(R341) -/
def Obligations.DivisionCorners : Prop :=
  ∀ (s : State) (rd rs1 rs2 : BitVec 5),
    let a := s.hart.getX rs1
    let b := s.hart.getX rs2
    let least : Int := -2 ^ (s.cfg.xlen - 1)
    ∃ q r qu ru : BitVec s.cfg.xlen,
      s.WritesX (.div rd rs1 rs2) rd q ∧ s.WritesX (.rem rd rs1 rs2) rd r ∧
      s.WritesX (.divu rd rs1 rs2) rd qu ∧ s.WritesX (.remu rd rs1 rs2) rd ru ∧
      (b = 0 → q.toInt = -1 ∧ qu.toNat = 2 ^ s.cfg.xlen - 1 ∧ r = a ∧ ru = a) ∧
      (a.toInt = least → b.toInt = -1 → q = a ∧ r = 0) ∧
      (b ≠ 0 → ¬(a.toInt = least ∧ b.toInt = -1) →
        a.toInt = q.toInt * b.toInt + r.toInt ∧ r.toInt.natAbs < b.toInt.natAbs ∧
        (r.toInt = 0 ∨ (r.toInt < 0 ↔ a.toInt < 0))) ∧
      (b ≠ 0 → a.toNat = qu.toNat * b.toNat + ru.toNat ∧ ru.toNat < b.toNat)

/-- The RV64 word instructions. For every state and operands: addw, addiw, subw, sllw, slliw, srlw, srliw, sraw,
sraiw, mulw, divw, divuw, remw, remuw compute on the low 32 bits of their operands and complete with the 32-bit result
sign-extended into x[rd]; only x[rd], pc and the counters change.
(R444, R445, R446, R447, R448, R449, R450, R451, R452, R453, R454, R475) -/
def Obligations.WordInstructions : Prop :=
  ∀ (s : State) (rd rs1 rs2 sh : BitVec 5) (imm : BitVec 12),
    let a := (s.hart.getX rs1).setWidth 32
    let b := (s.hart.getX rs2).setWidth 32
    let n := (s.hart.getX rs2).toNat % 32
    let word := fun v : Int => (BitVec.ofInt 32 v).signExtend s.cfg.xlen
    s.WritesX (.addw rd rs1 rs2) rd (word (a.toInt + b.toInt)) ∧
    s.WritesX (.addiw rd rs1 imm) rd (word (a.toInt + imm.toInt)) ∧
    s.WritesX (.subw rd rs1 rs2) rd (word (a.toInt - b.toInt)) ∧
    s.WritesX (.sllw rd rs1 rs2) rd (word (a.toNat * 2 ^ n)) ∧
    s.WritesX (.slliw rd rs1 sh) rd (word (a.toNat * 2 ^ sh.toNat)) ∧
    s.WritesX (.srlw rd rs1 rs2) rd (word (a.toNat / 2 ^ n)) ∧
    s.WritesX (.srliw rd rs1 sh) rd (word (a.toNat / 2 ^ sh.toNat)) ∧
    s.WritesX (.sraw rd rs1 rs2) rd (word (a.toInt / 2 ^ n)) ∧
    s.WritesX (.sraiw rd rs1 sh) rd (word (a.toInt / 2 ^ sh.toNat)) ∧
    s.WritesX (.mulw rd rs1 rs2) rd (word (a.toInt * b.toInt)) ∧
    s.WritesX (.divw rd rs1 rs2) rd (word (if b = 0 then -1 else a.toInt.tdiv b.toInt)) ∧
    s.WritesX (.divuw rd rs1 rs2) rd (word (if b = 0 then -1 else a.toNat / b.toNat)) ∧
    s.WritesX (.remw rd rs1 rs2) rd (word (if b = 0 then a.toInt else a.toInt.tmod b.toInt)) ∧
    s.WritesX (.remuw rd rs1 rs2) rd (word (if b = 0 then a.toNat else a.toNat % b.toNat))

/-- The 16-bit integer instructions. For every state and operands: each 16-bit integer instruction completes with the
result of its expansion in its destination (x8 to x15 for a 3-bit field, x2 for c.addi16sp), pc past its 2 bytes; only
that register, pc and the counters change.
(43_rv32c.md section 3, 47_rv64c.md, R158, R161, R162, R163, R368, R371, R372, R377, R382, R531) -/
def Obligations.CompressedInteger : Prop :=
  ∀ (s : State) (rd rs2 : BitVec 5) (d q : BitVec 3) (imm sh : BitVec 6) (u : BitVec 8),
    let x := s.hart.getX
    let num := fun v : Int => BitVec.ofInt s.cfg.xlen v
    let word := fun v : Int => (BitVec.ofInt 32 v).signExtend s.cfg.xlen
    let low := fun v : BitVec s.cfg.xlen => (v.setWidth 32).toInt
    let d5 := BitVec.ofNat 5 (8 + d.toNat)
    let q5 := BitVec.ofNat 5 (8 + q.toNat)
    s.WritesX (.cAdd rd rs2) rd (x rd + x rs2) ∧
    s.WritesX (.cAddi rd imm) rd (x rd + num imm.toInt) ∧
    s.WritesX (.cSub d q) d5 (x d5 - x q5) ∧
    s.WritesX (.cAddi16sp imm) 2 (x 2 + num (16 * imm.toInt)) ∧
    s.WritesX (.cAddi4spn d u) d5 (x 2 + num (4 * u.toNat)) ∧
    s.WritesX (.cAnd d q) d5 (x d5 &&& x q5) ∧
    s.WritesX (.cAndi d imm) d5 (x d5 &&& num imm.toInt) ∧
    s.WritesX (.cOr d q) d5 (x d5 ||| x q5) ∧
    s.WritesX (.cXor d q) d5 (x d5 ^^^ x q5) ∧
    s.WritesX (.cSlli rd sh) rd (num ((x rd).toNat * 2 ^ sh.toNat)) ∧
    s.WritesX (.cSrli d sh) d5 (num ((x d5).toNat / 2 ^ sh.toNat)) ∧
    s.WritesX (.cSrai d sh) d5 (num ((x d5).toInt / 2 ^ sh.toNat)) ∧
    s.WritesX (.cMv rd rs2) rd (x rs2) ∧
    s.WritesX (.cLi rd imm) rd (num imm.toInt) ∧
    s.WritesX (.cLui rd imm) rd (num (4096 * imm.toInt)) ∧
    s.WritesX (.cAddw d q) d5 (word (low (x d5) + low (x q5))) ∧
    s.WritesX (.cAddiw rd imm) rd (word (low (x rd) + imm.toInt)) ∧
    s.WritesX (.cSubw d q) d5 (word (low (x d5) - low (x q5)))

/-- The integer loads. Where the access is aligned and allowed, lb, lbu, lh, lhu, lw, lwu, ld, c.lw, c.lwsp, c.ld and
c.ldsp complete with the little-endian bytes at the effective address, sign- or zero-extended as named, in the
destination; a misaligned address raises LoadAddressMisaligned and one that is not allowed LoadAccessFault, with the
address as trap value and nothing else changed. That a load with any byte in an io region is recorded whole as one
device read is the model's choice (log 10).
(R101, R104, R106, R107, R260, R262, R263, R264, R265, R266, R441, R442) -/
def Obligations.IntegerLoads : Prop :=
  ∀ (s : State) (rd rs1 : BitVec 5) (off : BitVec 12) (d b : BitVec 3) (u5 : BitVec 5) (u6 : BitVec 6),
    let x := s.hart.getX
    let num := fun v : Nat => BitVec.ofNat s.cfg.xlen v
    let a := x rs1 + BitVec.ofInt s.cfg.xlen off.toInt
    let d5 := BitVec.ofNat 5 (8 + d.toNat)
    let b5 := BitVec.ofNat 5 (8 + b.toNat)
    s.LoadRule (.lb rd rs1 off) .load rd a 1 (signedX s.cfg 8) ∧
    s.LoadRule (.lbu rd rs1 off) .load rd a 1 num ∧
    s.LoadRule (.lh rd rs1 off) .load rd a 2 (signedX s.cfg 16) ∧
    s.LoadRule (.lhu rd rs1 off) .load rd a 2 num ∧
    s.LoadRule (.lw rd rs1 off) .load rd a 4 (signedX s.cfg 32) ∧
    s.LoadRule (.lwu rd rs1 off) .load rd a 4 num ∧
    s.LoadRule (.ld rd rs1 off) .load rd a 8 num ∧
    s.LoadRule (.cLw d b u5) .load d5 (x b5 + num (4 * u5.toNat)) 4 (signedX s.cfg 32) ∧
    s.LoadRule (.cLwsp rd u6) .load rd (x 2 + num (4 * u6.toNat)) 4 (signedX s.cfg 32) ∧
    s.LoadRule (.cLd d b u5) .load d5 (x b5 + num (8 * u5.toNat)) 8 num ∧
    s.LoadRule (.cLdsp rd u6) .load rd (x 2 + num (8 * u6.toNat)) 8 num

/-- The integer stores and what they leave of memory. In a state whose memory is in canonical form: where the access
is aligned and allowed, sb, sh, sw, sd, c.sw, c.swsp, c.sd and c.sdsp complete with the low bytes of the register at
the effective address, little-endian, those addresses in stale_code, every other byte and every register unchanged; a
misaligned address raises StoreAddressMisaligned and one that is not allowed StoreAccessFault. That a store with any
byte in an io region is the device's whole, recorded with its value and leaving all of memory as it was, is the
model's choice (log 10).
(R101, R104, R106, R107, R131, R261, R267, R268, R269, R443, log 10) -/
def Obligations.IntegerStores : Prop :=
  ∀ (s : State) (rs2 rs1 : BitVec 5) (off : BitVec 12) (d b : BitVec 3) (u5 : BitVec 5) (u6 : BitVec 6),
    Memory.wf s.hart.mem = true →
    let x := s.hart.getX
    let num := fun v : Nat => BitVec.ofNat s.cfg.xlen v
    let a := x rs1 + BitVec.ofInt s.cfg.xlen off.toInt
    let v := (x rs2).toNat
    let d5 := BitVec.ofNat 5 (8 + d.toNat)
    let b5 := BitVec.ofNat 5 (8 + b.toNat)
    s.StoreRule (.sb rs2 rs1 off) a 1 v ∧
    s.StoreRule (.sh rs2 rs1 off) a 2 v ∧
    s.StoreRule (.sw rs2 rs1 off) a 4 v ∧
    s.StoreRule (.sd rs2 rs1 off) a 8 v ∧
    s.StoreRule (.cSw d b u5) (x b5 + num (4 * u5.toNat)) 4 (x d5).toNat ∧
    s.StoreRule (.cSwsp rs2 u6) (x 2 + num (4 * u6.toNat)) 4 v ∧
    s.StoreRule (.cSd d b u5) (x b5 + num (8 * u5.toNat)) 8 (x d5).toNat ∧
    s.StoreRule (.cSdsp rs2 u6) (x 2 + num (8 * u6.toNat)) 8 v

/-- A read of main memory is the little-endian number of its bytes. Every read of up to 8 bytes of main memory gives
the number whose byte k is the byte at address a + k, addresses modulo 2^XLEN, and changes nothing; and a write to
main memory is read back byte by byte. That a read with any byte in an io region leaves one recorded access is the
model's choice (log 10).
(R100, R101, R111, log 10) -/
def Obligations.ReadIsLittleEndian : Prop :=
  ∀ (c : Config) (h : Hart c) (a : BitVec c.xlen) (n : Nat), n ≤ 8 →
    (touchesIo c a n = false → (h.readValue a n).toNat = Memory.nat h.mem a n ∧ h.afterRead a n = h ∧
      ∀ k < n, ((h.readValue a n).extractLsb' (8 * k) 8) = Memory.read h.mem (byteAddr a k)) ∧
    (touchesIo c a n = true → (h.afterRead a n).ioOut = h.ioOut ++ [.read a.toNat n]) ∧
    (∀ v : BitVec 64, touchesIo c a n = false → Memory.wf h.mem = true → ∀ k < n,
      Memory.read (h.writeMem a n v).mem (byteAddr a k) = v.extractLsb' (8 * k) 8)

/-- The conditional branches. For every state, registers and offset: beq, bne, blt, bge, bltu, bgeu, c.beqz and c.bnez
jump to pc + offset when their condition on the full registers holds and go on to the next instruction when it does
not; no register and no memory changes.
(R300, R301, R302, R303, R304, R305, R306, R361, R362, R148, R166) -/
def Obligations.Branches : Prop :=
  ∀ (s : State) (rs1 rs2 : BitVec 5) (off : BitVec 12) (d : BitVec 3) (coff : BitVec 8),
    let a := s.hart.getX rs1
    let b := s.hart.getX rs2
    let o := BitVec.ofInt s.cfg.xlen (2 * off.toInt)
    let co := BitVec.ofInt s.cfg.xlen (2 * coff.toInt)
    let z := s.hart.getX (BitVec.ofNat 5 (8 + d.toNat))
    s.BranchRule (.beq rs1 rs2 off) (a = b) o ∧
    s.BranchRule (.bne rs1 rs2 off) (a ≠ b) o ∧
    s.BranchRule (.blt rs1 rs2 off) (a.toInt < b.toInt) o ∧
    s.BranchRule (.bge rs1 rs2 off) (b.toInt ≤ a.toInt) o ∧
    s.BranchRule (.bltu rs1 rs2 off) (a.toNat < b.toNat) o ∧
    s.BranchRule (.bgeu rs1 rs2 off) (b.toNat ≤ a.toNat) o ∧
    s.BranchRule (.cBeqz d coff) (z = 0) co ∧
    s.BranchRule (.cBnez d coff) (z ≠ 0) co

/-- The jumps. For every state and operands: jal, jalr, c.j, c.jr, c.jal and c.jalr complete with pc the target, its
bit 0 cleared where it comes from a register; the linking forms leave the address of the next instruction in x[rd] or
x1, the target taken from the old registers; nothing else changes.
(R41, R300, R307, R308, R363, R364, R365, R366) -/
def Obligations.Jumps : Prop :=
  ∀ (s : State) (rd rs1 : BitVec 5) (o20 : BitVec 20) (o12 : BitVec 12) (o11 : BitVec 11),
    let num := fun v : Int => BitVec.ofInt s.cfg.xlen v
    let even := fun v : Nat => BitVec.ofNat s.cfg.xlen (v / 2 * 2)
    let a := s.hart.getX rs1
    s.LinksTo (.jal rd o20) rd (s.hart.pc + num (2 * o20.toInt)) ∧
    s.LinksTo (.jalr rd rs1 o12) rd (even (a + num o12.toInt).toNat) ∧
    s.JumpsTo (.cJ o11) (s.hart.pc + num (2 * o11.toInt)) ∧
    s.JumpsTo (.cJr rs1) (even a.toNat) ∧
    s.LinksTo (.cJal o11) 1 (s.hart.pc + num (2 * o11.toInt)) ∧
    s.LinksTo (.cJalr rs1) 1 (even a.toNat)

/-- The fences, and wfi. In every state fence completes and changes nothing but pc and the counters, and fence.i
completes and empties stale_code besides. Where S-mode exists, in M-mode, or in S-mode with TVM = 0, sfence.vma
completes and changes nothing else; otherwise it raises IllegalInstruction. In M-mode, or below it with TW = 0, wfi
completes: it changes nothing else when an interrupt is pending and enabled in mie, and may wait from then on when
none is (free); below M-mode with TW = 1 it raises IllegalInstruction.
(R126, R127, R128, R320, R321, R322, R334, R736, R745) -/
def Obligations.FencesAndWait : Prop :=
  ∀ (s : State) (pred succ : BitVec 4) (rs1 rs2 : BitVec 5),
    let vmaOk := s.cfg.hasS = true ∧ s.hart.priv ≠ .u ∧ ¬(s.hart.priv = .s ∧ s.hart.mstatus.tvm = true)
    let wfiOk := s.hart.priv = .m ∨ s.hart.mstatus.tw = false
    s.OnlyPasses (.fence pred succ) ∧
    (∃ t : Hart s.cfg, exec .fenceI s = .next (s.withHart t) ∧ t.stale = [] ∧ s.hart.Passes t .fenceI ∧
      t = { s.hart with stale := t.stale, pc := t.pc, minstret := t.minstret, mcycle := t.mcycle, draws := t.draws }) ∧
    (vmaOk → s.OnlyPasses (.sfenceVma rs1 rs2)) ∧ (¬vmaOk → s.RaisesIllegal (.sfenceVma rs1 rs2)) ∧
    (wfiOk → ∃ t : Hart s.cfg, exec .wfi s = .next (s.withHart t) ∧ s.hart.Passes t .wfi ∧
      (s.hart.mip &&& s.hart.mie ≠ 0 → t.waiting = false) ∧
      t = { s.hart with waiting := t.waiting, pc := t.pc, minstret := t.minstret, mcycle := t.mcycle,
                        draws := t.draws }) ∧
    (¬wfiOk → s.RaisesIllegal .wfi)

/-- The six CSR instructions. When the access check passes, csrrw, csrrs, csrrc and their immediate forms complete:
the old value in x[rd] (csrrw and csrrwi read only when rd is not x0), and the CSR written with the operand, the OR,
or the AND with its complement (the set and clear forms only when their field is not 0); only that write, x[rd], pc
and the counters change. The instruction's own increment of minstret happens unless it wrote minstret; that a write of
minstreth suppresses it too is the model's choice (log 16). When the check fails they raise IllegalInstruction.
(R45, R46, R64, R323, R324, R325, R326, R327, R328, R329, R740, log 16) -/
def Obligations.CsrInstructions : Prop :=
  ∀ (s : State) (rd rs1 : BitVec 5) (csr : BitVec 12),
    let a := s.hart.getX rs1
    let z := BitVec.ofNat s.cfg.xlen rs1.toNat
    s.CsrRule (.csrrw rd csr rs1) rd csr (rd != 0) true (fun _ => a) ∧
    s.CsrRule (.csrrs rd csr rs1) rd csr true (rs1 != 0) (fun t => t ||| a) ∧
    s.CsrRule (.csrrc rd csr rs1) rd csr true (rs1 != 0) (fun t => t &&& ~~~a) ∧
    s.CsrRule (.csrrwi rd csr rs1) rd csr (rd != 0) true (fun _ => z) ∧
    s.CsrRule (.csrrsi rd csr rs1) rd csr true (rs1 != 0) (fun t => t ||| z) ∧
    s.CsrRule (.csrrci rd csr rs1) rd csr true (rs1 != 0) (fun t => t &&& ~~~z)

/-- Which CSR accesses are legal. An access names a CSR exactly when the number is of a CSR that exists in the
configuration, the mode is at least bits 9:8 of the number, a write does not go to a number with bits 11:10 = 11, and
the gates hold: fflags, frm and fcsr need FS not Off, satp in S-mode needs TVM = 0, and a counter below M-mode needs
its bit in mcounteren and, in U-mode where S-mode exists, in scounteren. Where it names none, the CSR instruction
raises IllegalInstruction with its own bits as trap value and changes nothing else; csrrw and csrrwi always write, the
other four when their rs1 or zimm field is not 0.
(R45) -/
def Obligations.CsrAccessCheck : Prop :=
  ∀ (s : State) (n : BitVec 12),
    let c := s.cfg
    let h := s.hart
    let level := match h.priv with | .u => 0 | .s => 1 | .m => 3
    let counter := (0xC00 ≤ n.toNat ∧ n.toNat ≤ 0xC1F) ∨ (0xC80 ≤ n.toNat ∧ n.toNat ≤ 0xC9F)
    (∀ (writes : Bool) (r : Csr), h.csrAccess n writes = some r ↔
      csrOf n = some r ∧ r.present c = true ∧ n.toNat / 256 % 4 ≤ level ∧ (writes = true → n.toNat / 1024 ≠ 3) ∧
      (n.toNat ∈ [1, 2, 3] → h.mstatus.fs ≠ 0) ∧
      (n.toNat = 0x180 → ¬(h.priv = .s ∧ h.mstatus.tvm = true)) ∧
      (counter → h.priv = .m ∨ (h.mcounteren.getLsbD (n.toNat % 32) = true ∧
        (h.priv = .u → c.hasS = true → h.scounteren.getLsbD (n.toNat % 32) = true)))) ∧
    ∀ rd rs1 : BitVec 5,
      (h.csrAccess n true = none → s.RaisesIllegal (.csrrw rd n rs1) ∧ s.RaisesIllegal (.csrrwi rd n rs1)) ∧
      (h.csrAccess n (rs1 != 0) = none → s.RaisesIllegal (.csrrs rd n rs1) ∧ s.RaisesIllegal (.csrrc rd n rs1) ∧
        s.RaisesIllegal (.csrrsi rd n rs1) ∧ s.RaisesIllegal (.csrrci rd n rs1))

/-- What mstatus reads after a write. After a write of v, mstatus reads v in MIE and MPIE, in the bits of the modes
and units that exist, and in MPP when v names an existing mode (else MPP as before); 0 in the bits of those that do
not exist and in every reserved bit; UXL = SXL = 2 in RV64; SD exactly when FS is Dirty; and nothing but mstatus
changes.
(R53) -/
def Obligations.MstatusWriteRead : Prop :=
  ∀ (c : Config) (h : Hart c) (v : BitVec c.xlen),
    let r := (h.writeCsr .mstatus v).readCsr .mstatus
    let old := h.readCsr .mstatus
    let bit := fun (i : Nat) (writable : Bool) => r.getLsbD i = (writable && v.getLsbD i)
    let mode := fun k : Nat => (k = 0 ∧ c.hasU = true) ∨ (k = 1 ∧ c.hasS = true) ∨ k = 3
    bit 1 c.hasS ∧ bit 3 true ∧ bit 5 c.hasS ∧ bit 7 true ∧ bit 8 c.hasS ∧ bit 13 c.hasF ∧ bit 14 c.hasF ∧
    bit 17 c.hasU ∧ bit 18 c.hasS ∧ bit 19 c.hasS ∧ bit 20 c.hasS ∧ bit 21 (c.hasS || c.hasU) ∧ bit 22 c.hasS ∧
    (mode (v.toNat / 2 ^ 11 % 4) → r.toNat / 2 ^ 11 % 4 = v.toNat / 2 ^ 11 % 4) ∧
    (¬mode (v.toNat / 2 ^ 11 % 4) → r.toNat / 2 ^ 11 % 4 = old.toNat / 2 ^ 11 % 4) ∧
    (∀ i ∈ [0, 2, 4, 6, 9, 10, 15, 16, 23, 24, 25, 26, 27, 28, 29, 30], r.getLsbD i = false) ∧
    (c.rv64 = true → ∀ i, 31 ≤ i → i < 63 → r.getLsbD i = decide (i = 33 ∨ i = 35)) ∧
    r.getLsbD (c.xlen - 1) = (r.getLsbD 13 && r.getLsbD 14) ∧
    h.writeCsr .mstatus v = { h with mstatus := (h.writeCsr .mstatus v).mstatus }

/-- sstatus is a restricted view of mstatus. sstatus reads as mstatus with every bit cleared except SIE, SPIE, SPP,
FS, XS, SUM, MXR, UXL and SD; a write of it leaves in mstatus exactly what writing mstatus would leave in SIE, SPIE,
SPP, FS, SUM and MXR, every other field as it was, and changes nothing else.
(R54) -/
def Obligations.SstatusIsAView : Prop :=
  ∀ (c : Config) (h : Hart c) (v : BitVec c.xlen),
    (∀ i < c.xlen, (h.readCsr .sstatus).getLsbD i =
      ((h.readCsr .mstatus).getLsbD i && (decide (i ∈ [1, 5, 8, 13, 14, 15, 16, 18, 19, c.xlen - 1]) ||
        (c.rv64 && decide (i ∈ [32, 33]))))) ∧
    let t := h.writeCsr .sstatus v
    let m := (h.writeCsr .mstatus v).mstatus
    t.mstatus = { h.mstatus with sie := m.sie, spie := m.spie, spp := m.spp, fs := m.fs, sum := m.sum, mxr := m.mxr } ∧
    t = { h with mstatus := t.mstatus }

/-- The fields of the trap registers. mtvec and stvec keep a written value whose MODE is 0 or 1 and are unchanged by
any other; mepc and sepc hold a written value with bit 0 cleared; medeleg, mideleg and mie keep the writable bits and
0 elsewhere; the scratch, cause and value registers hold what is written; each write changes only its register. That
the model also records that mtvec, stvec, mepc or sepc has been written, for mtvec and stvec only by a value it keeps,
is the model's choice (log 11).
(R55, R56, R57, R58, R59, R60, log 11) -/
def Obligations.TrapCsrFields : Prop :=
  ∀ (c : Config) (h : Hart c) (v : BitVec c.xlen),
    (v.toNat % 4 < 2 → h.writeCsr .mtvec v = { h with mtvec := v, mtvecSet := true } ∧
      h.writeCsr .stvec v = { h with stvec := v, stvecSet := true }) ∧
    (2 ≤ v.toNat % 4 → h.writeCsr .mtvec v = h ∧ h.writeCsr .stvec v = h) ∧
    h.writeCsr .mepc v = { h with mepc := BitVec.ofNat c.xlen (v.toNat / 2 * 2), mepcSet := true } ∧
    h.writeCsr .sepc v = { h with sepc := BitVec.ofNat c.xlen (v.toNat / 2 * 2), sepcSet := true } ∧
    h.writeCsr .mscratch v = { h with mscratch := v } ∧ h.writeCsr .sscratch v = { h with sscratch := v } ∧
    h.writeCsr .mcause v = { h with mcause := v } ∧ h.writeCsr .scause v = { h with scause := v } ∧
    h.writeCsr .mtval v = { h with mtval := v } ∧ h.writeCsr .stval v = { h with stval := v } ∧
    let e := h.writeCsr .medeleg v
    let d := h.writeCsr .mideleg v
    let m := h.writeCsr .mie v
    e = { h with medeleg := e.medeleg } ∧ d = { h with mideleg := d.mideleg } ∧ m = { h with mie := m.mie } ∧
    ∀ i < c.xlen,
      e.medeleg.getLsbD i = (v.getLsbD i && decide (i ∈ [0, 1, 2, 3, 4, 5, 6, 7, 8, 9, 12, 13, 15])) ∧
      d.mideleg.getLsbD i = (v.getLsbD i && decide (i ∈ [1, 5, 9])) ∧
      m.mie.getLsbD i = (v.getLsbD i && (decide (i ∈ [3, 7, 11]) || (c.hasS && decide (i ∈ [1, 5, 9]))))

/-- mip and the supervisor views of mip and mie. mip reads MSIP, MTIP and MEIP from the input lines, SSIP and STIP
from storage, SEIP as its software bit OR its line (1, 5, 9 only with S-mode), 0 elsewhere; a read-modify-write of mip
takes only the software bit of SEIP; sip and sie read mip and mie AND mideleg; a write of sie changes exactly the bits
of mie that mideleg has; a write of sip changes SSIP alone, and only when mideleg has bit 1; a write of mip changes
the three supervisor bits alone, and nothing without S-mode.
(R57, R721) -/
def Obligations.InterruptCsrFields : Prop :=
  ∀ (c : Config) (h : Hart c) (v : BitVec c.xlen),
    let soft := fun i : Nat => (i = 1 ∧ h.ssip = true) ∨ (i = 5 ∧ h.stip = true) ∨ (i = 9 ∧ h.seip = true)
    let line := fun i : Nat => (i = 3 ∧ h.lines.msip = true) ∨ (i = 7 ∧ h.lines.mtip = true) ∨
      (i = 11 ∧ h.lines.meip = true)
    (∀ i < c.xlen, (h.readCsr .mip).getLsbD i = true ↔
      line i ∨ (c.hasS = true ∧ (soft i ∨ (i = 9 ∧ h.lines.seip = true)))) ∧
    (∀ i < c.xlen, (h.csrOld .mip).getLsbD i = true ↔ line i ∨ (c.hasS = true ∧ soft i)) ∧
    h.readCsr .sip = h.readCsr .mip &&& h.mideleg ∧ h.readCsr .sie = h.mie &&& h.mideleg ∧
    (∀ i < c.xlen, (h.writeCsr .sie v).mie.getLsbD i = if h.mideleg.getLsbD i then v.getLsbD i else h.mie.getLsbD i) ∧
    h.writeCsr .sie v = { h with mie := (h.writeCsr .sie v).mie } ∧
    h.writeCsr .sip v = { h with ssip := if h.mideleg.getLsbD 1 then v.getLsbD 1 else h.ssip } ∧
    (c.hasS = true → h.writeCsr .mip v =
      { h with ssip := v.getLsbD 1, stip := v.getLsbD 5, seip := v.getLsbD 9 }) ∧
    (c.hasS = false → h.writeCsr .mip v = h)

/-- The fields of fcsr, vcsr, vstart and the counters. fcsr reads as frm above fflags, vcsr as vxrm above vxsat; a
write of the whole writes both halves, a write of a half leaves the other; every write of fflags, frm or fcsr makes FS
Dirty; vstart keeps the low bits that can name an element. minstret and mcycle, written through the plain CSR and, in
RV32, through its upper half, read back what was written, the other half and everything else unchanged; cycle, instret
and time and their upper halves read mcycle, minstret and the time input, which no CSR write changes.
(R50, R51, R52, R64, R71, R72, R73, R74, R741) -/
def Obligations.OtherCsrFields : Prop :=
  ∀ (c : Config) (h : Hart c) (v : BitVec c.xlen),
    let dirty : Status := { h.mstatus with fs := 3 }
    (h.readCsr .fcsr).toNat = 32 * h.frm.toNat + h.fflags.toNat ∧
    (h.readCsr .vcsr).toNat = 2 * h.vxrm.toNat + h.vxsat.toNat ∧
    h.writeCsr .fcsr v =
      { h with fflags := BitVec.ofNat 5 v.toNat, frm := BitVec.ofNat 3 (v.toNat / 32), mstatus := dirty } ∧
    h.writeCsr .fflags v = { h with fflags := BitVec.ofNat 5 v.toNat, mstatus := dirty } ∧
    h.writeCsr .frm v = { h with frm := BitVec.ofNat 3 v.toNat, mstatus := dirty } ∧
    h.writeCsr .vcsr v = { h with vxsat := BitVec.ofNat 1 v.toNat, vxrm := BitVec.ofNat 2 (v.toNat / 2) } ∧
    h.writeCsr .vxsat v = { h with vxsat := BitVec.ofNat 1 v.toNat } ∧
    h.writeCsr .vxrm v = { h with vxrm := BitVec.ofNat 2 v.toNat } ∧
    (h.writeCsr .vstart v).vstart.toNat = v.toNat % c.vlen ∧
    h.writeCsr .vstart v = { h with vstart := (h.writeCsr .vstart v).vstart } ∧
    (h.writeCsr .minstret v).readCsr .minstret = v ∧ (h.writeCsr .mcycle v).readCsr .mcycle = v ∧
    (∀ r ∈ [Csr.minstret, .minstreth], h.writeCsr r v = { h with minstret := (h.writeCsr r v).minstret }) ∧
    (∀ r ∈ [Csr.mcycle, .mcycleh], h.writeCsr r v = { h with mcycle := (h.writeCsr r v).mcycle }) ∧
    (c.rv64 = true → (h.writeCsr .minstret v).minstret.toNat = v.toNat) ∧
    (c.rv64 = false →
      (h.writeCsr .minstreth v).readCsr .minstreth = v ∧
      (h.writeCsr .minstreth v).readCsr .minstret = h.readCsr .minstret ∧
      (h.writeCsr .minstret v).readCsr .minstreth = h.readCsr .minstreth ∧
      (h.writeCsr .mcycleh v).readCsr .mcycleh = v ∧
      (h.writeCsr .mcycleh v).readCsr .mcycle = h.readCsr .mcycle ∧
      (h.writeCsr .mcycle v).readCsr .mcycleh = h.readCsr .mcycleh) ∧
    h.readCsr .instret = h.readCsr .minstret ∧ h.readCsr .cycle = h.readCsr .mcycle ∧
    h.readCsr .instreth = h.readCsr .minstreth ∧ h.readCsr .cycleh = h.readCsr .mcycleh ∧
    (h.readCsr .time).toNat = h.time.toNat % 2 ^ c.xlen ∧ (h.readCsr .timeh).toNat = h.time.toNat / 2 ^ 32 ∧
    ∀ r, (h.writeCsr r v).time = h.time

/-- Every CSR number, the CSR it names, when that exists, and what it reads as. The CSR numbers are those of the table
of R49: each row names its CSR, which exists in the configurations that the table says, and reads as given here: a
register with storage as its field, fcsr, vcsr and the views as their parts, mstatus as the bits of its fields, misa
as MXL and the letters of the configuration, the identity registers as their parameters, vlenb as VLEN/8, and 0 for
satp, the pmp, trigger and performance-monitoring registers. Every other number names none: the user trap CSRs,
sedeleg, sideleg and the debug-mode CSRs among them. mcounteren and scounteren keep the 32 bits written; a write of
misa or of a hardwired zero changes nothing. (mip and sstatus: InterruptCsrFields and SstatusIsAView.)
(R48, R49, R53, R61, R62, R63, R65, R66, R67, R68, R69, R80) -/
def Obligations.CsrTable : Prop :=
  ∀ (c : Config) (h : Hart c) (v : BitVec c.xlen),
    let num := fun k : Nat => BitVec.ofNat c.xlen k
    let bit := fun (i : Nat) (b : Bool) => if b then 2 ^ i else 0
    let row := fun (n : Nat) (r : Csr) (ex : Bool) (value : BitVec c.xlen) =>
      csrOf (BitVec.ofNat 12 n) = some r ∧ r.present c = ex ∧ h.readCsr r = value
    let m := h.mstatus
    let status := bit 1 m.sie + bit 3 m.mie + bit 5 m.spie + bit 7 m.mpie + bit 8 m.spp +
      2 ^ 11 * (match m.mpp with | .u => 0 | .s => 1 | .m => 3) + 2 ^ 13 * m.fs.toNat + bit 17 m.mprv + bit 18 m.sum +
      bit 19 m.mxr + bit 20 m.tvm + bit 21 m.tw + bit 22 m.tsr + bit 33 c.rv64 + bit 35 c.rv64 +
      bit (c.xlen - 1) (m.fs == 3)
    let isa := 2 ^ (c.xlen - 2) * (if c.rv64 then 2 else 1) + bit 0 true + bit 2 true + bit 3 c.hasD + bit 5 c.hasF +
      bit 8 true + bit 12 true + bit 18 c.hasS + bit 20 c.hasU + bit 21 c.hasV
    row 0x001 .fflags c.hasF (num h.fflags.toNat) ∧
    row 0x002 .frm c.hasF (num h.frm.toNat) ∧
    row 0x003 .fcsr c.hasF (num (32 * h.frm.toNat + h.fflags.toNat)) ∧
    row 0xC00 .cycle true (num h.mcycle.toNat) ∧
    row 0xC01 .time true (num h.time.toNat) ∧
    row 0xC02 .instret true (num h.minstret.toNat) ∧
    row 0xC80 .cycleh (!c.rv64) (num (h.mcycle.toNat / 2 ^ 32)) ∧
    row 0xC81 .timeh (!c.rv64) (num (h.time.toNat / 2 ^ 32)) ∧
    row 0xC82 .instreth (!c.rv64) (num (h.minstret.toNat / 2 ^ 32)) ∧
    row 0x100 .sstatus c.hasS (h.readCsr .sstatus) ∧
    row 0x104 .sie c.hasS (h.mie &&& h.mideleg) ∧
    row 0x105 .stvec c.hasS h.stvec ∧
    row 0x106 .scounteren c.hasS (num h.scounteren.toNat) ∧
    row 0x140 .sscratch c.hasS h.sscratch ∧
    row 0x141 .sepc c.hasS h.sepc ∧
    row 0x142 .scause c.hasS h.scause ∧
    row 0x143 .stval c.hasS h.stval ∧
    row 0x144 .sip c.hasS (h.readCsr .mip &&& h.mideleg) ∧
    row 0x180 .satp c.hasS 0 ∧
    row 0xF11 .mvendorid true (num c.mvendorid.toNat) ∧
    row 0xF12 .marchid true (num c.marchid.toNat) ∧
    row 0xF13 .mimpid true (num c.mimpid.toNat) ∧
    row 0xF14 .mhartid true (num c.mhartid.toNat) ∧
    row 0x300 .mstatus true (num status) ∧
    row 0x301 .misa true (num isa) ∧
    row 0x302 .medeleg c.hasS h.medeleg ∧
    row 0x303 .mideleg c.hasS h.mideleg ∧
    row 0x304 .mie true h.mie ∧
    row 0x305 .mtvec true h.mtvec ∧
    row 0x306 .mcounteren c.hasU (num h.mcounteren.toNat) ∧
    row 0x340 .mscratch true h.mscratch ∧
    row 0x341 .mepc true h.mepc ∧
    row 0x342 .mcause true h.mcause ∧
    row 0x343 .mtval true h.mtval ∧
    row 0x344 .mip true (h.readCsr .mip) ∧
    row 0x3A0 .pmpcfg0 true 0 ∧
    row 0x3A1 .pmpcfg1 (!c.rv64) 0 ∧
    row 0x3A2 .pmpcfg2 true 0 ∧
    row 0x3A3 .pmpcfg3 (!c.rv64) 0 ∧
    row 0xB00 .mcycle true (num h.mcycle.toNat) ∧
    row 0xB02 .minstret true (num h.minstret.toNat) ∧
    row 0xB80 .mcycleh (!c.rv64) (num (h.mcycle.toNat / 2 ^ 32)) ∧
    row 0xB82 .minstreth (!c.rv64) (num (h.minstret.toNat / 2 ^ 32)) ∧
    row 0x7A0 .tselect true 0 ∧
    row 0x7A1 .tdata1 true 0 ∧
    row 0x7A2 .tdata2 true 0 ∧
    row 0x7A3 .tdata3 true 0 ∧
    row 0x008 .vstart c.hasV h.vstart ∧
    row 0x009 .vxsat c.hasV (num h.vxsat.toNat) ∧
    row 0x00A .vxrm c.hasV (num h.vxrm.toNat) ∧
    row 0x00F .vcsr c.hasV (num (2 * h.vxrm.toNat + h.vxsat.toNat)) ∧
    row 0xC20 .vl c.hasV h.vl ∧
    row 0xC21 .vtype c.hasV h.vtype ∧
    row 0xC22 .vlenb c.hasV (num (c.vlen / 8)) ∧
    (∀ k, 3 ≤ k → k ≤ 31 → row (0xC00 + k) (.hpmcounter k) true 0 ∧ row (0xC80 + k) (.hpmcounterh k) (!c.rv64) 0 ∧
      row (0xB00 + k) (.mhpmcounter k) true 0 ∧ row (0xB80 + k) (.mhpmcounterh k) (!c.rv64) 0 ∧
      row (0x320 + k) (.mhpmevent k) true 0) ∧
    (∀ k < 16, row (0x3B0 + k) (.pmpaddr k) true 0) ∧
    (∀ n : BitVec 12, csrOf n ≠ none → n.toNat ∈
      [0x1, 0x2, 0x3, 0x8, 0x9, 0xA, 0xF, 0x100, 0x104, 0x105, 0x106, 0x140, 0x141, 0x142, 0x143, 0x144,
      0x180, 0x300, 0x301, 0x302, 0x303, 0x304, 0x305, 0x306, 0x340, 0x341, 0x342, 0x343, 0x344,
      0x3A0, 0x3A1, 0x3A2, 0x3A3, 0x7A0, 0x7A1, 0x7A2, 0x7A3, 0xB00, 0xB02, 0xB80, 0xB82, 0xC00,
      0xC01, 0xC02, 0xC20, 0xC21, 0xC22, 0xC80, 0xC81, 0xC82, 0xF11, 0xF12, 0xF13, 0xF14] ∨
      (∃ k, 3 ≤ k ∧ k ≤ 31 ∧ n.toNat ∈ [0xC00 + k, 0xC80 + k, 0xB00 + k, 0xB80 + k, 0x320 + k]) ∨
      ∃ k < 16, n.toNat = 0x3B0 + k) ∧
    h.writeCsr .mcounteren v = { h with mcounteren := BitVec.ofNat 32 v.toNat } ∧
    h.writeCsr .scounteren v = { h with scounteren := BitVec.ofNat 32 v.toNat } ∧
    (∀ r ∈ [Csr.misa, .satp, .pmpcfg0, .pmpcfg1, .pmpcfg2, .pmpcfg3, .tselect, .tdata1, .tdata2, .tdata3],
      h.writeCsr r v = h) ∧
    ∀ k, h.writeCsr (.pmpaddr k) v = h ∧ h.writeCsr (.mhpmcounter k) v = h ∧ h.writeCsr (.mhpmcounterh k) v = h ∧
      h.writeCsr (.mhpmevent k) v = h

/-- mcycle never decreases but by a CSR write, and minstret counts what retires. In every step that answers a next
state mcycle is at least what it was, unless the instruction at pc is one that writes mcycle or mcycleh. An
instruction that takes no exception and writes neither increases mcycle (unless it is 2^64 - 1, where it stays: log
7), and one that takes no exception and writes neither minstret nor minstreth adds 1 to minstret, modulo 2^64; an
exception leaves minstret as it was.
(R64, R740, R745, log 7) -/
def Obligations.Counters : Prop :=
  ∀ s : State,
    (∀ t, step s = .next t → s.hart.mcycle.toNat ≤ t.hart.mcycle.toNat ∨
      ∃ code h i, (s.withHart { s.hart with waiting := false }).Fetches code h ∧ decode s.cfg code = some i ∧
        (writtenCsr i = some 0xB00 ∨ writtenCsr i = some 0xB80)) ∧
    ∀ (i : Instr) (t : Hart s.cfg), exec i s = .next (s.withHart t) →
      (s.Traps i → t.minstret = s.hart.minstret) ∧
      (¬s.Traps i → writtenCsr i ≠ some 0xB02 → writtenCsr i ≠ some 0xB82 → t.minstret = s.hart.minstret + 1) ∧
      (writtenCsr i ≠ some 0xB00 → writtenCsr i ≠ some 0xB80 → s.hart.mcycle.toNat ≤ t.mcycle.toNat ∧
        (¬s.Traps i → s.hart.mcycle.toNat < t.mcycle.toNat ∨ t.mcycle.toNat = 2 ^ 64 - 1))

/-- The atomic memory operations. In a state whose memory is in canonical form, where the address is aligned and the
region allows reads, writes and atomics: each AMO leaves the old memory value in x[rd] (sign-extended for amominu.w)
and the sum, AND, OR, XOR, swap, minimum or maximum of it and x[rs2] in memory, both operands read before x[rd] is
written; every other byte and register and the reservation are unchanged. A misaligned address raises
StoreAddressMisaligned and one that is not allowed StoreAccessFault. That an AMO with any byte in an io region is the
device's whole, recorded as a read and a write and leaving all of memory as it was, is the model's choice (log 10).
(R33, R119, R460, R464, R465, R466, R468, R470, R471, R472, R473, log 10) -/
def Obligations.AtomicOperations : Prop :=
  ∀ (s : State) (rd rs2 rs1 : BitVec 5) (aq rl : BitVec 1), Memory.wf s.hart.mem = true →
    let a := s.hart.getX rs1
    let b := (s.hart.getX rs2).toNat
    let sg := fun v : Nat => (BitVec.ofNat 64 v).toInt
    let num := fun v : Nat => BitVec.ofNat s.cfg.xlen v
    s.AmoRule (.amoaddD rd rs2 rs1 aq rl) rd a 8 (fun t => (t + b) % 2 ^ 64) num ∧
    s.AmoRule (.amoandD rd rs2 rs1 aq rl) rd a 8 (fun t => t &&& b) num ∧
    s.AmoRule (.amoorD rd rs2 rs1 aq rl) rd a 8 (fun t => t ||| b) num ∧
    s.AmoRule (.amoxorD rd rs2 rs1 aq rl) rd a 8 (fun t => t ^^^ b) num ∧
    s.AmoRule (.amoswapD rd rs2 rs1 aq rl) rd a 8 (fun _ => b) num ∧
    s.AmoRule (.amomaxD rd rs2 rs1 aq rl) rd a 8 (fun t => if sg t < sg b then b else t) num ∧
    s.AmoRule (.amomaxuD rd rs2 rs1 aq rl) rd a 8 (fun t => max t b) num ∧
    s.AmoRule (.amominD rd rs2 rs1 aq rl) rd a 8 (fun t => if sg b < sg t then b else t) num ∧
    s.AmoRule (.amominuD rd rs2 rs1 aq rl) rd a 8 (fun t => min t b) num ∧
    s.AmoRule (.amominuW rd rs2 rs1 aq rl) rd a 4 (fun t => min t (b % 2 ^ 32)) (signedX s.cfg 32)

/-- lr.d and sc.d. Where the address is aligned and allowed, lr.d loads the doubleword into x[rd] and registers the
address. sc.d, where the address is aligned and allowed: with a reservation of that address and no failure supplied it
stores x[rs2], x[rd] becomes 0; otherwise it stores nothing and x[rd] becomes 1; the reservation ends either way, and
nothing else changes. Addresses that are misaligned or not allowed raise the load or the store exception. That an
access with any byte in an io region is the device's whole, recorded and leaving all of memory as it was, is the
model's choice (log 10).
(R33, R119, R461, R463, log 10) -/
def Obligations.LoadReservedStoreConditional : Prop :=
  ∀ (s : State) (rd rs2 rs1 : BitVec 5) (aq rl : BitVec 1), Memory.wf s.hart.mem = true →
    let a := s.hart.getX rs1
    let fails := s.cfg.scMayFail = true ∧ s.hart.scFail = true
    (AccessOk s.cfg .lr a 8 → ∃ (t : Hart s.cfg) (v : BitVec s.cfg.xlen),
      exec (.lrD rd rs1 aq rl) s = .next (s.withHart t) ∧
      (touchesIo s.cfg a 8 = false → v = BitVec.ofNat s.cfg.xlen (Memory.nat s.hart.mem a 8)) ∧
      s.hart.XBecomes t rd v ∧ t.reservation = some a ∧ s.hart.Passes t (.lrD rd rs1 aq rl) ∧ s.hart.ReadTrace t a 8 ∧
      t = { s.hart with x := t.x, reservation := t.reservation, pc := t.pc, minstret := t.minstret,
                        mcycle := t.mcycle, draws := t.draws, ioOut := t.ioOut }) ∧
    s.AccessTraps (.lrD rd rs1 aq rl) .lr a 8 ∧
    (AccessOk s.cfg .sc a 8 → s.hart.reservation = some a → ¬fails → ∃ t : Hart s.cfg,
      exec (.scD rd rs2 rs1 aq rl) s = .next (s.withHart t) ∧ s.hart.Stored t a 8 (s.hart.getX rs2).toNat ∧
      s.hart.XBecomes t rd 0 ∧ t.reservation = none ∧ s.hart.Passes t (.scD rd rs2 rs1 aq rl) ∧
      t = { s.hart with x := t.x, mem := t.mem, stale := t.stale, ioOut := t.ioOut, reservation := t.reservation,
                        pc := t.pc, minstret := t.minstret, mcycle := t.mcycle, draws := t.draws }) ∧
    (AccessOk s.cfg .sc a 8 → s.hart.reservation ≠ some a ∨ fails → ∃ t : Hart s.cfg,
      exec (.scD rd rs2 rs1 aq rl) s = .next (s.withHart t) ∧ s.hart.XBecomes t rd 1 ∧ t.reservation = none ∧
      s.hart.Passes t (.scD rd rs2 rs1 aq rl) ∧
      t = { s.hart with x := t.x, reservation := t.reservation, pc := t.pc, minstret := t.minstret,
                        mcycle := t.mcycle, draws := t.draws }) ∧
    s.AccessTraps (.scD rd rs2 rs1 aq rl) .sc a 8

/-- What ends a reservation. Every sc.d that passes its address checks, every trap entry, mret, sret and reset leave
no reservation; every other instruction but lr.d that takes no exception leaves the reservation as it was.
(R462) -/
def Obligations.ReservationRule : Prop :=
  ∀ s : State,
    (∀ (rd rs2 rs1 : BitVec 5) (aq rl : BitVec 1) (t : Hart s.cfg),
      exec (.scD rd rs2 rs1 aq rl) s = .next (s.withHart t) → t.reservation = none) ∧
    (∀ (intr : Bool) (code : Nat) (tval : BitVec s.cfg.xlen), (s.hart.trap intr code tval).reservation = none) ∧
    (∀ t : Hart s.cfg, exec .mret s = .next (s.withHart t) ∨ exec .sret s = .next (s.withHart t) →
      t.reservation = none) ∧
    (State.resetOf s.cfg).hart.reservation = none ∧ s.resetEvent.hart.reservation = none ∧
    ∀ (i : Instr) (t : Hart s.cfg), exec i s = .next (s.withHart t) → ¬s.Traps i →
      (∀ rd rs1 aq rl, i ≠ .lrD rd rs1 aq rl) → (∀ rd rs2 rs1 aq rl, i ≠ .scD rd rs2 rs1 aq rl) →
      i ≠ .mret → i ≠ .sret → t.reservation = s.hart.reservation

/-- The floating-point loads and stores. In a state whose memory is in canonical form: with FS not Off, where the
access is aligned and allowed, flw, c.flw and c.flwsp load a boxed single, fld, c.fld and c.fldsp a double, setting FS
Dirty; fsw, fsd and their compressed forms store the low bytes of the register as they are, without touching FS;
nothing else changes. A misaligned or disallowed address raises its exception; with FS Off all raise
IllegalInstruction. That an access with any byte in an io region is the device's whole, recorded and leaving all of
memory as it was, is the model's choice (log 10).
(R36, R384, R385, R404, R409, R410, R411, R481, R482, R533, R535, log 10) -/
def Obligations.FloatLoadsAndStores : Prop :=
  ∀ (s : State) (r rs1 : BitVec 5) (off : BitVec 12) (d b : BitVec 3) (u5 : BitVec 5) (u6 : BitVec 6),
    Memory.wf s.hart.mem = true →
    let x := s.hart.getX
    let num := fun v : Nat => BitVec.ofNat s.cfg.xlen v
    let a := x rs1 + BitVec.ofInt s.cfg.xlen off.toInt
    let d5 := BitVec.ofNat 5 (8 + d.toNat)
    let b5 := BitVec.ofNat 5 (8 + b.toNat)
    let single := fun v : Nat => box32 s.cfg (BitVec.ofNat 32 v)
    let double := fun v : Nat => BitVec.ofNat s.cfg.flen v
    let bits := fun f : BitVec 5 => (s.hart.getF f).toNat
    s.LoadFRule (.flw r rs1 off) r a 4 single ∧
    s.LoadFRule (.cFlw d b u5) d5 (x b5 + num (4 * u5.toNat)) 4 single ∧
    s.LoadFRule (.cFlwsp r u6) r (x 2 + num (4 * u6.toNat)) 4 single ∧
    s.LoadFRule (.fld r rs1 off) r a 8 double ∧
    s.LoadFRule (.cFld d b u5) d5 (x b5 + num (8 * u5.toNat)) 8 double ∧
    s.LoadFRule (.cFldsp r u6) r (x 2 + num (8 * u6.toNat)) 8 double ∧
    s.FpGated (.fsw r rs1 off) (s.StoreRule (.fsw r rs1 off) a 4 (bits r)) ∧
    s.FpGated (.cFsw d b u5) (s.StoreRule (.cFsw d b u5) (x b5 + num (4 * u5.toNat)) 4 (bits d5)) ∧
    s.FpGated (.cFswsp r u6) (s.StoreRule (.cFswsp r u6) (x 2 + num (4 * u6.toNat)) 4 (bits r)) ∧
    s.FpGated (.fsd r rs1 off) (s.StoreRule (.fsd r rs1 off) a 8 (bits r)) ∧
    s.FpGated (.cFsd d b u5) (s.StoreRule (.cFsd d b u5) (x b5 + num (8 * u5.toNat)) 8 (bits d5)) ∧
    s.FpGated (.cFsdsp r u6) (s.StoreRule (.cFsdsp r u6) (x 2 + num (8 * u6.toNat)) 8 (bits r))

/-- The rounding instructions with a single-precision result. With FS not Off and a legal rounding mode (the rm field,
or frm), fadd.s, fsub.s, fmul.s, fdiv.s, fsqrt.s, the four fused forms (fmsub: a*b-d, fnmadd: -(a*b)-d, fnmsub:
-(a*b)+d) and the conversions to single complete with the rounded result of their unboxed operands, boxed, in f[rd],
the flags accrued and FS Dirty, and nothing else changed; with FS Off or an illegal mode they raise
IllegalInstruction. What the rounded results are is said by FloatResultsAreRounded and FloatSpecialResults.
(R401, R402, R403, R404, R409, R412, R414, R416, R419, R420, R425, R497) -/
def Obligations.FloatArithmeticSingle : Prop :=
  ∀ (s : State) (rd rs1 rs2 rs3 : BitVec 5) (rm : BitVec 3),
    let a := s.hart.getS rs1
    let b := s.hart.getS rs2
    let d := s.hart.getS rs3
    let l := s.hart.getX rs1
    let w := BitVec.ofNat 32 l.toNat
    s.RoundsS (.faddS rd rs1 rs2 rm) rd rm (fun m => fpAdd .s m a b) ∧
    s.RoundsS (.fsubS rd rs1 rs2 rm) rd rm (fun m => fpSub .s m a b) ∧
    s.RoundsS (.fmulS rd rs1 rs2 rm) rd rm (fun m => fpMul .s m a b) ∧
    s.RoundsS (.fdivS rd rs1 rs2 rm) rd rm (fun m => fpDiv .s m a b) ∧
    s.RoundsS (.fsqrtS rd rs1 rm) rd rm (fun m => fpSqrt .s m a) ∧
    s.RoundsS (.fmaddS rd rs1 rs2 rs3 rm) rd rm (fun m => fpFma .s m false false a b d) ∧
    s.RoundsS (.fmsubS rd rs1 rs2 rs3 rm) rd rm (fun m => fpFma .s m false true a b d) ∧
    s.RoundsS (.fnmaddS rd rs1 rs2 rs3 rm) rd rm (fun m => fpFma .s m true true a b d) ∧
    s.RoundsS (.fnmsubS rd rs1 rs2 rs3 rm) rd rm (fun m => fpFma .s m true false a b d) ∧
    s.RoundsS (.fcvtSW rd rs1 rm) rd rm (fun m => intToFp .s m w.toInt) ∧
    s.RoundsS (.fcvtSWu rd rs1 rm) rd rm (fun m => intToFp .s m w.toNat) ∧
    s.RoundsS (.fcvtSL rd rs1 rm) rd rm (fun m => intToFp .s m l.toInt) ∧
    s.RoundsS (.fcvtSLu rd rs1 rm) rd rm (fun m => intToFp .s m l.toNat) ∧
    s.RoundsS (.fcvtSD rd rs1 rm) rd rm (fun m => fpToFp .d .s m (s.hart.getD rs1))

/-- The rounding instructions with a double-precision result. The same for fadd.d, fsub.d, fmul.d, fdiv.d, fsqrt.d,
the four fused forms and the conversions to double.
(R401, R402, R409, R480, R483, R486, R487, R490, R491, R498, R501, R508) -/
def Obligations.FloatArithmeticDouble : Prop :=
  ∀ (s : State) (rd rs1 rs2 rs3 : BitVec 5) (rm : BitVec 3),
    let a := s.hart.getD rs1
    let b := s.hart.getD rs2
    let d := s.hart.getD rs3
    let l := s.hart.getX rs1
    let w := BitVec.ofNat 32 l.toNat
    s.RoundsD (.faddD rd rs1 rs2 rm) rd rm (fun m => fpAdd .d m a b) ∧
    s.RoundsD (.fsubD rd rs1 rs2 rm) rd rm (fun m => fpSub .d m a b) ∧
    s.RoundsD (.fmulD rd rs1 rs2 rm) rd rm (fun m => fpMul .d m a b) ∧
    s.RoundsD (.fdivD rd rs1 rs2 rm) rd rm (fun m => fpDiv .d m a b) ∧
    s.RoundsD (.fsqrtD rd rs1 rm) rd rm (fun m => fpSqrt .d m a) ∧
    s.RoundsD (.fmaddD rd rs1 rs2 rs3 rm) rd rm (fun m => fpFma .d m false false a b d) ∧
    s.RoundsD (.fmsubD rd rs1 rs2 rs3 rm) rd rm (fun m => fpFma .d m false true a b d) ∧
    s.RoundsD (.fnmaddD rd rs1 rs2 rs3 rm) rd rm (fun m => fpFma .d m true true a b d) ∧
    s.RoundsD (.fnmsubD rd rs1 rs2 rs3 rm) rd rm (fun m => fpFma .d m true false a b d) ∧
    s.RoundsD (.fcvtDW rd rs1 rm) rd rm (fun m => intToFp .d m w.toInt) ∧
    s.RoundsD (.fcvtDWu rd rs1 rm) rd rm (fun m => intToFp .d m w.toNat) ∧
    s.RoundsD (.fcvtDL rd rs1 rm) rd rm (fun m => intToFp .d m l.toInt) ∧
    s.RoundsD (.fcvtDLu rd rs1 rm) rd rm (fun m => intToFp .d m l.toNat) ∧
    s.RoundsD (.fcvtDS rd rs1 rm) rd rm (fun m => fpToFp .s .d m (s.hart.getS rs1))

/-- The conversions to an integer register. With FS not Off and a legal rounding mode, fcvt.w, fcvt.wu, fcvt.l and
fcvt.lu from single and double complete with the converted integer, as 32 or 64 bits sign-extended to XLEN (the
unsigned 32-bit forms too), in x[rd]; the flags accrue and FS is Dirty only when a flag was raised; nothing else
changes. Otherwise they raise IllegalInstruction. What the integer is is said by ConversionToInteger.
(R401, R402, R406, R409, R423, R424, R499, R500, R510, R511, R512, R513) -/
def Obligations.FloatToInteger : Prop :=
  ∀ (s : State) (rd rs1 : BitVec 5) (rm : BitVec 3),
    s.ConvertsX (.fcvtWS rd rs1 rm) rd rm 32 (fun m => fpToInt .s m true 32 (s.hart.getS rs1)) ∧
    s.ConvertsX (.fcvtWuS rd rs1 rm) rd rm 32 (fun m => fpToInt .s m false 32 (s.hart.getS rs1)) ∧
    s.ConvertsX (.fcvtLS rd rs1 rm) rd rm 64 (fun m => fpToInt .s m true 64 (s.hart.getS rs1)) ∧
    s.ConvertsX (.fcvtLuS rd rs1 rm) rd rm 64 (fun m => fpToInt .s m false 64 (s.hart.getS rs1)) ∧
    s.ConvertsX (.fcvtWD rd rs1 rm) rd rm 32 (fun m => fpToInt .d m true 32 (s.hart.getD rs1)) ∧
    s.ConvertsX (.fcvtWuD rd rs1 rm) rd rm 32 (fun m => fpToInt .d m false 32 (s.hart.getD rs1)) ∧
    s.ConvertsX (.fcvtLD rd rs1 rm) rd rm 64 (fun m => fpToInt .d m true 64 (s.hart.getD rs1)) ∧
    s.ConvertsX (.fcvtLuD rd rs1 rm) rd rm 64 (fun m => fpToInt .d m false 64 (s.hart.getD rs1))

/-- Sign injection, min and max, comparisons, classification and moves, single and double. With FS not Off: fsgnj,
fsgnjn and fsgnjx write the first operand with the sign of the second, its complement, or the exclusive or; fmin and
fmax the chosen operand with its flags; feq, flt and fle 1 or 0 into x[rd] with their flags; fclass the bit of the
class; fmv the register bits as they are; a write of f makes FS Dirty, and nothing else changes. With FS Off each
raises IllegalInstruction. What is chosen, compared and classified is said by FloatOrderAndClass.
(R36, R402, R404, R407, R408, R409, R427, R430, R431, R435, R492, R507) -/
def Obligations.FloatMovesAndComparisons : Prop :=
  ∀ (s : State) (rd rs1 rs2 : BitVec 5),
    let single := fun v : Nat => box32 s.cfg (BitVec.ofNat 32 v)
    let double := fun v : Nat => BitVec.ofNat s.cfg.flen v
    s.FpGated (.fsgnjS rd rs1 rs2)
      (s.WritesF (.fsgnjS rd rs1 rs2) rd (single ((s.hart.getS rs1).toNat % 2 ^ 31 + if signOf .s (s.hart.getS rs2) then 2 ^ 31 else 0)) 0) ∧
    s.FpGated (.fsgnjnS rd rs1 rs2)
      (s.WritesF (.fsgnjnS rd rs1 rs2) rd (single ((s.hart.getS rs1).toNat % 2 ^ 31 + if !signOf .s (s.hart.getS rs2) then 2 ^ 31 else 0)) 0) ∧
    s.FpGated (.fsgnjxS rd rs1 rs2)
      (s.WritesF (.fsgnjxS rd rs1 rs2) rd (single ((s.hart.getS rs1).toNat % 2 ^ 31 + if signOf .s (s.hart.getS rs1) ^^ signOf .s (s.hart.getS rs2) then 2 ^ 31 else 0)) 0) ∧
    s.FpGated (.fminS rd rs1 rs2)
      (s.WritesF (.fminS rd rs1 rs2) rd (single (fpPick .s false (s.hart.getS rs1) (s.hart.getS rs2)).1) (fpPick .s false (s.hart.getS rs1) (s.hart.getS rs2)).2) ∧
    s.FpGated (.fmaxS rd rs1 rs2)
      (s.WritesF (.fmaxS rd rs1 rs2) rd (single (fpPick .s true (s.hart.getS rs1) (s.hart.getS rs2)).1) (fpPick .s true (s.hart.getS rs1) (s.hart.getS rs2)).2) ∧
    s.ComparesX (.feqS rd rs1 rs2) rd (fpEq .s (s.hart.getS rs1) (s.hart.getS rs2)) ∧
    s.ComparesX (.fltS rd rs1 rs2) rd (fpLt .s (s.hart.getS rs1) (s.hart.getS rs2)) ∧
    s.ComparesX (.fleS rd rs1 rs2) rd (fpLe .s (s.hart.getS rs1) (s.hart.getS rs2)) ∧
    s.FpGated (.fclassS rd rs1) (s.WritesX (.fclassS rd rs1) rd (BitVec.ofNat s.cfg.xlen (2 ^ fpClass .s (s.hart.getS rs1)))) ∧
    s.FpGated (.fsgnjD rd rs1 rs2)
      (s.WritesF (.fsgnjD rd rs1 rs2) rd (double ((s.hart.getD rs1).toNat % 2 ^ 63 + if signOf .d (s.hart.getD rs2) then 2 ^ 63 else 0)) 0) ∧
    s.FpGated (.fsgnjnD rd rs1 rs2)
      (s.WritesF (.fsgnjnD rd rs1 rs2) rd (double ((s.hart.getD rs1).toNat % 2 ^ 63 + if !signOf .d (s.hart.getD rs2) then 2 ^ 63 else 0)) 0) ∧
    s.FpGated (.fsgnjxD rd rs1 rs2)
      (s.WritesF (.fsgnjxD rd rs1 rs2) rd (double ((s.hart.getD rs1).toNat % 2 ^ 63 + if signOf .d (s.hart.getD rs1) ^^ signOf .d (s.hart.getD rs2) then 2 ^ 63 else 0)) 0) ∧
    s.FpGated (.fminD rd rs1 rs2)
      (s.WritesF (.fminD rd rs1 rs2) rd (double (fpPick .d false (s.hart.getD rs1) (s.hart.getD rs2)).1) (fpPick .d false (s.hart.getD rs1) (s.hart.getD rs2)).2) ∧
    s.FpGated (.fmaxD rd rs1 rs2)
      (s.WritesF (.fmaxD rd rs1 rs2) rd (double (fpPick .d true (s.hart.getD rs1) (s.hart.getD rs2)).1) (fpPick .d true (s.hart.getD rs1) (s.hart.getD rs2)).2) ∧
    s.ComparesX (.feqD rd rs1 rs2) rd (fpEq .d (s.hart.getD rs1) (s.hart.getD rs2)) ∧
    s.ComparesX (.fltD rd rs1 rs2) rd (fpLt .d (s.hart.getD rs1) (s.hart.getD rs2)) ∧
    s.ComparesX (.fleD rd rs1 rs2) rd (fpLe .d (s.hart.getD rs1) (s.hart.getD rs2)) ∧
    s.FpGated (.fclassD rd rs1) (s.WritesX (.fclassD rd rs1) rd (BitVec.ofNat s.cfg.xlen (2 ^ fpClass .d (s.hart.getD rs1)))) ∧
    s.FpGated (.fmvXW rd rs1)
      (s.WritesX (.fmvXW rd rs1) rd ((BitVec.ofNat 32 (s.hart.getF rs1).toNat).signExtend s.cfg.xlen)) ∧
    s.FpGated (.fmvXD rd rs1) (s.WritesX (.fmvXD rd rs1) rd (BitVec.ofNat s.cfg.xlen (s.hart.getF rs1).toNat)) ∧
    s.FpGated (.fmvWX rd rs1) (s.WritesF (.fmvWX rd rs1) rd (single (s.hart.getX rs1).toNat) 0) ∧
    s.FpGated (.fmvDX rd rs1) (s.WritesF (.fmvDX rd rs1) rd (double (s.hart.getX rs1).toNat) 0)

/-- Boxing and unboxing of singles. A register written with box32 of a pattern has the pattern in its low 32 bits and,
when FLEN is 64, ones above; it reads back as that pattern. When FLEN is 64 a register whose upper 32 bits are not all
ones reads as the canonical NaN, and otherwise as its low 32 bits; when FLEN is 32 as it is. A write of an f register
sets FS to Dirty.
(R36, R403, R404) -/
def Obligations.SinglesAreBoxed : Prop :=
  ∀ (c : Config) (h : Hart c) (r : BitVec 5) (w : BitVec 32),
    (h.setS r w).getS r = w ∧ (h.setS r w).mstatus.fs = 3 ∧
    ((h.setS r w).getF r).toNat = w.toNat + (if c.hasD then 2 ^ 64 - 2 ^ 32 else 0) ∧
    (c.hasD = true → (h.getF r).toNat / 2 ^ 32 ≠ 2 ^ 32 - 1 → (h.getS r).toNat = 0x7FC00000) ∧
    (c.hasD = true → (h.getF r).toNat / 2 ^ 32 = 2 ^ 32 - 1 → (h.getS r).toNat = (h.getF r).toNat % 2 ^ 32) ∧
    (c.hasD = false → (h.getS r).toNat = (h.getF r).toNat) ∧
    (c.hasD = true → ∀ v : BitVec 64, (h.setD r v).getD r = v)

/-- Every floating-point result is the exact one, rounded once. In both formats and every rounding mode, for finite
operands: the sum, difference, product, quotient, square root and the four fused results, where the exact result is
not 0, and the conversions from an integer and between the formats of a number that is not 0, are the exact real
number rounded once to the format, with the flags of that rounding: NX when it is not exact, OF when it exceeds the
largest finite number (rounded as if the exponent had no upper bound), UF when it is not exact and is tiny after
rounding.
(R400, R401, R405, R416, R418, R419, R420, R425, R497, R498) -/
def Obligations.FloatResultsAreRounded : Prop :=
  ∀ f ∈ [Fmt.s, Fmt.d], ∀ (rm : Rounding) (a b d : BitVec f.bits), isFinite f a → isFinite f b → isFinite f d →
    let v := fun w : BitVec f.bits => ((valueOf f w : ℚ) : ℝ)
    let sign := fun neg : Bool => if neg then (-1 : ℝ) else 1
    (v a + v b ≠ 0 → RoundsTo f rm (v a + v b) (fpAdd f rm a b)) ∧
    (v a - v b ≠ 0 → RoundsTo f rm (v a - v b) (fpSub f rm a b)) ∧
    (v a * v b ≠ 0 → RoundsTo f rm (v a * v b) (fpMul f rm a b)) ∧
    (v a ≠ 0 → v b ≠ 0 → RoundsTo f rm (v a / v b) (fpDiv f rm a b)) ∧
    (0 < v a → RoundsTo f rm (Real.sqrt (v a)) (fpSqrt f rm a)) ∧
    (∀ np na : Bool, sign np * (v a * v b) + sign na * v d ≠ 0 →
      RoundsTo f rm (sign np * (v a * v b) + sign na * v d) (fpFma f rm np na a b d)) ∧
    (∀ i : Int, i ≠ 0 → RoundsTo f rm (i : ℝ) (intToFp f rm i)) ∧
    ∀ g ∈ [Fmt.s, Fmt.d], v a ≠ 0 → RoundsTo g rm (v a) (fpToFp f g rm a)

/-- NaNs, invalid operations, division by zero, infinities and zeros. In both formats and every mode. A NaN operand
gives the canonical NaN, with NV exactly when an operand is signaling (or, fused, the product is invalid); inf - inf,
also inside a fused operation, 0 * inf, also with a NaN addend, 0 / 0, inf / inf and the root of a number below 0 give
the canonical NaN with NV. A finite number that is not 0 over 0 gives the signed infinity with DZ. An infinite operand
otherwise gives the infinity of the rule of signs (as divisor a zero), in sums, differences, products, quotients and
the four fused forms. A sum, difference or fused result that is exactly 0 has the common sign of its terms, or is -0
towards minus infinity and +0 in the other modes; a product or quotient that is 0 has the sign of the rule of signs;
the root of a zero is that zero. A conversion between the formats keeps zeros and infinities with their sign, and the
integer 0 becomes +0. None of these but the invalid ones and the division by 0 raises a flag.
(R400, R405, R412, R416, R417, R418, R419, R420, R425, R497, R498) -/
def Obligations.FloatSpecialResults : Prop :=
  ∀ f ∈ [Fmt.s, Fmt.d], ∀ (rm : Rounding) (a b d : BitVec f.bits),
    let sig := fun w : BitVec f.bits => isSNaN f w
    let nan : Nat := (2 ^ f.eb - 1) * 2 ^ f.mb + 2 ^ (f.mb - 1)
    let inf : Nat := (2 ^ f.eb - 1) * 2 ^ f.mb
    let sign := fun neg : Bool => if neg then 2 ^ (f.eb + f.mb) else 0
    let isInf := fun w : BitVec f.bits => w.toNat % 2 ^ (f.eb + f.mb) = inf
    let isZero := fun w : BitVec f.bits => w.toNat % 2 ^ (f.eb + f.mb) = 0
    let nv := fun p : Bool => if p then (0b10000 : BitVec 5) else 0
    let s1 := signOf f a
    let s2 := signOf f b
    (isNaN f a = true ∨ isNaN f b = true →
      fpAdd f rm a b = (nan, nv (sig a || sig b)) ∧ fpSub f rm a b = (nan, nv (sig a || sig b)) ∧
      fpMul f rm a b = (nan, nv (sig a || sig b)) ∧ fpDiv f rm a b = (nan, nv (sig a || sig b))) ∧
    (isNaN f a = true → fpSqrt f rm a = (nan, nv (sig a)) ∧
      ∀ g ∈ [Fmt.s, Fmt.d], fpToFp f g rm a = (g.cNaN, nv (sig a))) ∧
    (isNaN f a = true ∨ isNaN f b = true ∨ isNaN f d = true → ∀ np na,
      fpFma f rm np na a b d = (nan, nv (sig a || sig b || sig d ||
        decide ((isInf a ∧ isZero b) ∨ (isZero a ∧ isInf b))))) ∧
    (isInf a → isInf b → fpDiv f rm a b = (nan, nv true) ∧
      fpAdd f rm a b = (if s1 = s2 then (sign s1 + inf, 0) else (nan, nv true)) ∧
      fpSub f rm a b = (if s1 = s2 then (nan, nv true) else (sign s1 + inf, 0)) ∧
      fpMul f rm a b = (sign (s1 ^^ s2) + inf, 0)) ∧
    (isInf a → isFinite f b → fpAdd f rm a b = (sign s1 + inf, 0) ∧ fpSub f rm a b = (sign s1 + inf, 0) ∧
      fpDiv f rm a b = (sign (s1 ^^ s2) + inf, 0) ∧ fpDiv f rm b a = (sign (s1 ^^ s2), 0) ∧
      fpMul f rm a b = (if isZero b then (nan, nv true) else (sign (s1 ^^ s2) + inf, 0)) ∧
      fpMul f rm b a = fpMul f rm a b ∧ fpAdd f rm b a = fpAdd f rm a b ∧ fpSub f rm b a = (sign (!s1) + inf, 0)) ∧
    (isFinite f a → isZero b → fpDiv f rm a b =
      if isZero a then (nan, nv true) else (sign (s1 ^^ s2) + inf, (0b01000 : BitVec 5))) ∧
    (isFinite f a → isFinite f b → isZero a ∨ isZero b → fpMul f rm a b = (sign (s1 ^^ s2), 0)) ∧
    (isZero a → isFinite f b → ¬isZero b → fpDiv f rm a b = (sign (s1 ^^ s2), 0)) ∧
    (isFinite f a → isFinite f b → valueOf f a + valueOf f b = 0 →
      fpAdd f rm a b = (sign (if s1 = s2 then s1 else decide (rm = .rdn)), 0)) ∧
    (isFinite f a → isFinite f b → valueOf f a - valueOf f b = 0 →
      fpSub f rm a b = (sign (if s1 = s2 then decide (rm = .rdn) else s1), 0)) ∧
    (isZero a → fpSqrt f rm a = (a.toNat, 0)) ∧
    (isInf a → fpSqrt f rm a = (if s1 then (nan, nv true) else (inf, 0))) ∧
    (isFinite f a → ¬isZero a → s1 = true → fpSqrt f rm a = (nan, nv true)) ∧
    (∀ np na : Bool, let fma := fpFma f rm np na a b d
      let sp := s1 ^^ s2 ^^ np
      let sd := signOf f d ^^ na
      let infProduct := (isInf a ∧ isNaN f b = false ∧ ¬isZero b) ∨ (isInf b ∧ isNaN f a = false ∧ ¬isZero a)
      ((isInf a ∧ isZero b) ∨ (isZero a ∧ isInf b) → fma = (nan, nv true)) ∧
      (infProduct → isInf d → fma = if sp = sd then (sign sp + inf, 0) else (nan, nv true)) ∧
      (infProduct → isFinite f d → fma = (sign sp + inf, 0)) ∧
      (isFinite f a → isFinite f b → isInf d → fma = (sign sd + inf, 0)) ∧
      (isFinite f a → isFinite f b → isFinite f d →
        (if np then -1 else 1) * (valueOf f a * valueOf f b) + (if na then -1 else 1) * valueOf f d = 0 →
        fma = (sign (if sp = sd then sp else decide (rm = .rdn)), 0))) ∧
    (∀ g ∈ [Fmt.s, Fmt.d], let signG := if s1 then 2 ^ (g.eb + g.mb) else 0
      (isZero a → fpToFp f g rm a = (signG, 0)) ∧
      (isInf a → fpToFp f g rm a = (signG + (2 ^ g.eb - 1) * 2 ^ g.mb, 0))) ∧
    intToFp f rm 0 = (0, 0)

/-- What a conversion to an integer gives. In both formats, every mode and both target widths, signed and unsigned: a
finite number is rounded to an integer in the mode; inside the range it is the result, with NX exactly when it differs
from the number; below or above the range the result is the least or greatest integer, with NV alone; a NaN and +inf
give the greatest and -inf the least, with NV alone.
(R401, R406) -/
def Obligations.ConversionToInteger : Prop :=
  ∀ f ∈ [Fmt.s, Fmt.d], ∀ (rm : Rounding) (a : BitVec f.bits) (signed : Bool), ∀ n ∈ [32, 64],
    let lo : Int := if signed then -2 ^ (n - 1) else 0
    let hi : Int := if signed then 2 ^ (n - 1) - 1 else 2 ^ n - 1
    let nv : BitVec 5 := 0b10000
    let r := fpToInt f rm signed n a
    (isNaN f a = true → r = (hi, nv)) ∧
    (isNaN f a = false → ¬isFinite f a → r = (if signOf f a then lo else hi, nv)) ∧
    (isFinite f a → ∀ i : Int, RoundsToInt rm (valueOf f a) i →
      (i < lo → r = (lo, nv)) ∧ (hi < i → r = (hi, nv)) ∧
      (lo ≤ i → i ≤ hi → r = (i, if (i : ℚ) = valueOf f a then 0 else 0b00001)))

/-- Comparisons, minimum and maximum, and classes follow the numbers. In both formats: with no NaN operand feq, flt
and fle compare the numbers the patterns stand for, infinities included and +0 equal to -0; with a NaN they are 0; NV
comes from a signaling NaN, or for flt and fle from any NaN. fmin and fmax give an operand that is least or greatest,
-0 below +0, the other operand when one is a NaN and the canonical NaN when both are. fclass names the class of the
number.
(R400, R407, R408, R435) -/
def Obligations.FloatOrderAndClass : Prop :=
  ∀ f ∈ [Fmt.s, Fmt.d], ∀ a b : BitVec f.bits,
    let nan := fun w : BitVec f.bits => isNaN f w = true
    let nv := fun p : Bool => if p then (0b10000 : BitVec 5) else 0
    let x := extValue f a
    let y := extValue f b
    let least : ℚ := (2 : ℚ) ^ (f.emin + (f.mb : Int))
    (¬nan a → ¬nan b → ((fpEq f a b).1 = true ↔ x = y) ∧ ((fpLt f a b).1 = true ↔ x < y) ∧
      ((fpLe f a b).1 = true ↔ x ≤ y)) ∧
    (nan a ∨ nan b → (fpEq f a b).1 = false ∧ (fpLt f a b).1 = false ∧ (fpLe f a b).1 = false) ∧
    (fpEq f a b).2 = nv (isSNaN f a || isSNaN f b) ∧ (fpLt f a b).2 = nv (isNaN f a || isNaN f b) ∧
    (fpLe f a b).2 = nv (isNaN f a || isNaN f b) ∧
    (∀ mx, (fpPick f mx a b).2 = nv (isSNaN f a || isSNaN f b) ∧ (nan a → nan b → (fpPick f mx a b).1 = f.cNaN) ∧
      (nan a → ¬nan b → (fpPick f mx a b).1 = b.toNat) ∧ (¬nan a → nan b → (fpPick f mx a b).1 = a.toNat)) ∧
    (¬nan a → ¬nan b →
      (fpPick f false a b).1 = (if x < y ∨ (x = y ∧ signOf f a = true) then a.toNat else b.toNat) ∧
      (fpPick f true a b).1 = (if y < x ∨ (x = y ∧ signOf f a = false) then a.toNat else b.toNat)) ∧
    (fpClass f a = 0 ↔ x = ⊥) ∧ (fpClass f a = 7 ↔ x = ⊤) ∧
    (fpClass f a = 8 ↔ nan a ∧ isSNaN f a = true) ∧ (fpClass f a = 9 ↔ nan a ∧ isSNaN f a = false) ∧
    (fpClass f a = 3 ↔ isFinite f a ∧ valueOf f a = 0 ∧ signOf f a = true) ∧
    (fpClass f a = 4 ↔ isFinite f a ∧ valueOf f a = 0 ∧ signOf f a = false) ∧
    (fpClass f a = 1 ↔ isFinite f a ∧ valueOf f a ≤ -least) ∧ (fpClass f a = 6 ↔ isFinite f a ∧ least ≤ valueOf f a) ∧
    (fpClass f a = 2 ↔ isFinite f a ∧ -least < valueOf f a ∧ valueOf f a < 0) ∧
    (fpClass f a = 5 ↔ isFinite f a ∧ 0 < valueOf f a ∧ valueOf f a < least)

/-- vsetvli and vsetvl. There is one choice function of AVL and VLMAX, within ceil(AVL/2) and VLMAX where VLMAX < AVL
< 2*VLMAX, such that in every state, with a supported setting (no bit above bit 4 and SEW at most ELEN): vtype becomes
the setting, and vl and x[rd] become AVL when it is at most VLMAX, VLMAX when it is at least twice that, and the
chosen value between; AVL is x[rs1], or all ones, or the old vl, as rs1 and rd are x0 or not. With an unsupported
setting vtype becomes 2^(XLEN-1), vl and x[rd] 0. vstart becomes 0 and, but for what every completed instruction
changes, nothing else does. That one such function serves every state is the rules'; which value it takes is the
model's choice, left free (log 8).
(R543, R544, R545, R546, R547, log 8) -/
def Obligations.SetVectorLength : Prop :=
  ∃ choose : Nat → Nat → Nat,
    (∀ avl vlmax, vlmax < avl → avl < 2 * vlmax →
      (avl + 1) / 2 ≤ choose avl vlmax ∧ choose avl vlmax ≤ vlmax) ∧
    ∀ (s : State) (rd rs1 rs2 : BitVec 5) (zimm : BitVec 11),
      let rule := fun (i : Instr) (new : Nat) =>
        let sew := 8 * 2 ^ (new / 4 % 8)
        let vlmax := 2 ^ (new % 4) * s.cfg.vlen / sew
        let avl := if rs1 ≠ 0 then (s.hart.getX rs1).toNat else if rd ≠ 0 then 2 ^ s.cfg.xlen - 1 else s.hart.vl.toNat
        let vl := if avl ≤ vlmax then avl else if 2 * vlmax ≤ avl then vlmax else choose avl vlmax
        let ok := new < 32 ∧ sew ≤ s.cfg.elen
        ∃ t : Hart s.cfg, exec i s = .next (s.withHart t) ∧
          (ok → t.vtype.toNat = new ∧ t.vl.toNat = vl) ∧ (¬ok → t.vtype.toNat = 2 ^ (s.cfg.xlen - 1) ∧ t.vl = 0) ∧
          s.hart.XBecomes t rd t.vl ∧ t.vstart = 0 ∧ s.hart.Passes t i ∧
          t = { s.hart with x := t.x, vtype := t.vtype, vl := t.vl, vstart := t.vstart, pc := t.pc,
                            minstret := t.minstret, mcycle := t.mcycle, draws := t.draws }
      rule (.vsetvli rd rs1 zimm) zimm.toNat ∧ rule (.vsetvl rd rs1 rs2) (s.hart.getX rs2).toNat

/-- The vector loads: unit-stride, strided and indexed. In a configuration the spec admits and a state with a proper
vector setting: where vill = 0, the memory width is at most SEW, the register groups are aligned and v0 is no masked
destination, each vector load fills the active body elements of vd with the little-endian elements at x[rs1] +
j*width, x[rs1] + j*x[rs2] or x[rs1] + index, sign- or zero-extended to SEW; tail, inactive and prestart elements and
other registers keep their value and vstart becomes 0. The first element that may not be accessed raises its exception
with vstart = j. An element wider than 64 bits is checked as a whole before its first byte is loaded, which is the
model's choice (log 18). Otherwise it is an illegal instruction.
(R83, R92, R93, R540, R551, R552, R553, R554, R555, R556, R557, R558) -/
def Obligations.VectorLoads : Prop :=
  ∀ (s : State) (vd rs1 rs2 : BitVec 5) (vm : BitVec 1), s.cfg.wf = true → s.hart.vectorOk →
    let h := s.hart
    let sew := h.sew
    let num := fun v : Nat => BitVec.ofNat s.cfg.xlen v
    let x1 := (h.getX rs1).toNat
    let unit := fun (w j : Nat) => num (x1 + j * (w / 8))
    let strided := fun j : Nat => num (x1 + j * (h.getX rs2).toNat)
    let indexed := fun j : Nat => num (x1 + h.elem rs2.toNat j)
    s.VLoadRule (.vlbV vd rs1 vm) vd vm (h.vloadOk vd vm 8) 8 true (unit 8) ∧
    s.VLoadRule (.vlhV vd rs1 vm) vd vm (h.vloadOk vd vm 16) 16 true (unit 16) ∧
    s.VLoadRule (.vlwV vd rs1 vm) vd vm (h.vloadOk vd vm 32) 32 true (unit 32) ∧
    s.VLoadRule (.vlbuV vd rs1 vm) vd vm (h.vloadOk vd vm 8) 8 false (unit 8) ∧
    s.VLoadRule (.vlhuV vd rs1 vm) vd vm (h.vloadOk vd vm 16) 16 false (unit 16) ∧
    s.VLoadRule (.vlwuV vd rs1 vm) vd vm (h.vloadOk vd vm 32) 32 false (unit 32) ∧
    s.VLoadRule (.vleV vd rs1 vm) vd vm (h.vloadOk vd vm sew) sew false (unit sew) ∧
    s.VLoadRule (.vlsbV vd rs1 rs2 vm) vd vm (h.vloadOk vd vm 8) 8 true strided ∧
    s.VLoadRule (.vlshV vd rs1 rs2 vm) vd vm (h.vloadOk vd vm 16) 16 true strided ∧
    s.VLoadRule (.vlswV vd rs1 rs2 vm) vd vm (h.vloadOk vd vm 32) 32 true strided ∧
    s.VLoadRule (.vlsbuV vd rs1 rs2 vm) vd vm (h.vloadOk vd vm 8) 8 false strided ∧
    s.VLoadRule (.vlshuV vd rs1 rs2 vm) vd vm (h.vloadOk vd vm 16) 16 false strided ∧
    s.VLoadRule (.vlswuV vd rs1 rs2 vm) vd vm (h.vloadOk vd vm 32) 32 false strided ∧
    s.VLoadRule (.vlseV vd rs1 rs2 vm) vd vm (h.vloadOk vd vm sew) sew false strided ∧
    s.VLoadRule (.vlxbV vd rs1 rs2 vm) vd vm (h.vloadOk vd vm 8 && h.groupOk rs2) 8 true indexed ∧
    s.VLoadRule (.vlxhV vd rs1 rs2 vm) vd vm (h.vloadOk vd vm 16 && h.groupOk rs2) 16 true indexed ∧
    s.VLoadRule (.vlxwV vd rs1 rs2 vm) vd vm (h.vloadOk vd vm 32 && h.groupOk rs2) 32 true indexed ∧
    s.VLoadRule (.vlxbuV vd rs1 rs2 vm) vd vm (h.vloadOk vd vm 8 && h.groupOk rs2) 8 false indexed ∧
    s.VLoadRule (.vlxhuV vd rs1 rs2 vm) vd vm (h.vloadOk vd vm 16 && h.groupOk rs2) 16 false indexed ∧
    s.VLoadRule (.vlxwuV vd rs1 rs2 vm) vd vm (h.vloadOk vd vm 32 && h.groupOk rs2) 32 false indexed ∧
    s.VLoadRule (.vlxeV vd rs1 rs2 vm) vd vm (h.vloadOk vd vm sew && h.groupOk rs2) sew false indexed

/-- The vector stores: unit-stride, strided and indexed. With the same checks, and memory in canonical form, each
vector store writes the low bits of the active body elements at their addresses in increasing order of j, little-
endian, adds exactly those addresses to stale_code, and leaves every other byte and every register but vstart (0)
unchanged. The first element that may not be accessed raises its exception with vstart = j and its address as trap
value: the active elements before it have been stored and only their addresses added to stale_code, and every other
byte is unchanged. An element wider than 64 bits is checked as a whole before its first byte is stored, which is the
model's choice (log 18). Otherwise it is an illegal instruction.
(R83, R92, R131, R540, R551, R552, R553, R554, R555, R556, R557, R558) -/
def Obligations.VectorStores : Prop :=
  ∀ (s : State) (vs3 rs1 rs2 : BitVec 5) (vm : BitVec 1), s.cfg.wf = true → s.hart.vectorOk → Memory.wf s.hart.mem = true →
    let h := s.hart
    let sew := h.sew
    let num := fun v : Nat => BitVec.ofNat s.cfg.xlen v
    let x1 := (h.getX rs1).toNat
    let unit := fun (w j : Nat) => num (x1 + j * (w / 8))
    let strided := fun j : Nat => num (x1 + j * (h.getX rs2).toNat)
    let indexed := fun j : Nat => num (x1 + h.elem rs2.toNat j)
    s.VStoreRule (.vsbV vs3 rs1 vm) vs3 vm (h.vstoreOk vs3 8) 8 (unit 8) ∧
    s.VStoreRule (.vshV vs3 rs1 vm) vs3 vm (h.vstoreOk vs3 16) 16 (unit 16) ∧
    s.VStoreRule (.vswV vs3 rs1 vm) vs3 vm (h.vstoreOk vs3 32) 32 (unit 32) ∧
    s.VStoreRule (.vseV vs3 rs1 vm) vs3 vm (h.vstoreOk vs3 sew) sew (unit sew) ∧
    s.VStoreRule (.vssbV vs3 rs1 rs2 vm) vs3 vm (h.vstoreOk vs3 8) 8 strided ∧
    s.VStoreRule (.vsshV vs3 rs1 rs2 vm) vs3 vm (h.vstoreOk vs3 16) 16 strided ∧
    s.VStoreRule (.vsswV vs3 rs1 rs2 vm) vs3 vm (h.vstoreOk vs3 32) 32 strided ∧
    s.VStoreRule (.vsseV vs3 rs1 rs2 vm) vs3 vm (h.vstoreOk vs3 sew) sew strided ∧
    s.VStoreRule (.vsxbV vs3 rs1 rs2 vm) vs3 vm (h.vstoreOk vs3 8 && h.groupOk rs2) 8 indexed ∧
    s.VStoreRule (.vsxhV vs3 rs1 rs2 vm) vs3 vm (h.vstoreOk vs3 16 && h.groupOk rs2) 16 indexed ∧
    s.VStoreRule (.vsxwV vs3 rs1 rs2 vm) vs3 vm (h.vstoreOk vs3 32 && h.groupOk rs2) 32 indexed ∧
    s.VStoreRule (.vsxeV vs3 rs1 rs2 vm) vs3 vm (h.vstoreOk vs3 sew && h.groupOk rs2) sew indexed

/-- The vector additions, subtractions, logic and shifts. In a configuration the spec admits and a state with a proper
vector setting: where vill = 0, the groups are aligned and v0 is no masked destination, each .vv, .vx and .vi form of
vadd, vsub, vrsub, vand, vor, vxor, vsll, vsrl and vsra writes the SEW-bit result of the vs2 element and the second
operand (element, scalar cut or sign-extended, immediate sign-extended, or for shifts zero-extended; shift amounts
modulo SEW) into each active body element of vd; nothing else changes and vstart becomes 0. Otherwise it is an illegal
instruction.
(R83, R91, R92, R93, R540, R600, R601, R602, R603, R605, R608, R621) -/
def Obligations.VectorAddLogicShift : Prop :=
  ∀ (s : State) (vd vs2 r : BitVec 5) (vm : BitVec 1), s.cfg.wf = true → s.hart.vectorOk →
    s.VvRule .vaddVv vd vs2 r vm (fun {n} a b => BitVec.ofInt n (a.toInt + b.toInt)) ∧
    s.VxRule .vaddVx vd vs2 r vm (fun {n} a b => BitVec.ofInt n (a.toInt + b.toInt)) ∧
    s.ViRule .vaddVi vd vs2 r vm (fun {n} a b => BitVec.ofInt n (a.toInt + b.toInt)) ∧
    s.VvRule .vsubVv vd vs2 r vm (fun {n} a b => BitVec.ofInt n (a.toInt - b.toInt)) ∧
    s.VxRule .vsubVx vd vs2 r vm (fun {n} a b => BitVec.ofInt n (a.toInt - b.toInt)) ∧
    s.VxRule .vrsubVx vd vs2 r vm (fun {n} a b => BitVec.ofInt n (b.toInt - a.toInt)) ∧
    s.ViRule .vrsubVi vd vs2 r vm (fun {n} a b => BitVec.ofInt n (b.toInt - a.toInt)) ∧
    s.VvRule .vandVv vd vs2 r vm (fun a b => a &&& b) ∧
    s.VxRule .vandVx vd vs2 r vm (fun a b => a &&& b) ∧
    s.ViRule .vandVi vd vs2 r vm (fun a b => a &&& b) ∧
    s.VvRule .vorVv vd vs2 r vm (fun a b => a ||| b) ∧
    s.VxRule .vorVx vd vs2 r vm (fun a b => a ||| b) ∧
    s.ViRule .vorVi vd vs2 r vm (fun a b => a ||| b) ∧
    s.VvRule .vxorVv vd vs2 r vm (fun a b => a ^^^ b) ∧
    s.VxRule .vxorVx vd vs2 r vm (fun a b => a ^^^ b) ∧
    s.ViRule .vxorVi vd vs2 r vm (fun a b => a ^^^ b) ∧
    s.VvRule .vsllVv vd vs2 r vm (fun {n} a b => BitVec.ofNat n (a.toNat * 2 ^ (b.toNat % n))) ∧
    s.VxRule .vsllVx vd vs2 r vm (fun {n} a b => BitVec.ofNat n (a.toNat * 2 ^ (b.toNat % n))) ∧
    s.VuRule .vsllVi vd vs2 r vm (fun {n} a b => BitVec.ofNat n (a.toNat * 2 ^ (b.toNat % n))) ∧
    s.VvRule .vsrlVv vd vs2 r vm (fun {n} a b => BitVec.ofNat n (a.toNat / 2 ^ (b.toNat % n))) ∧
    s.VxRule .vsrlVx vd vs2 r vm (fun {n} a b => BitVec.ofNat n (a.toNat / 2 ^ (b.toNat % n))) ∧
    s.VuRule .vsrlVi vd vs2 r vm (fun {n} a b => BitVec.ofNat n (a.toNat / 2 ^ (b.toNat % n))) ∧
    s.VvRule .vsraVv vd vs2 r vm (fun {n} a b => BitVec.ofInt n (a.toInt / 2 ^ (b.toNat % n))) ∧
    s.VxRule .vsraVx vd vs2 r vm (fun {n} a b => BitVec.ofInt n (a.toInt / 2 ^ (b.toNat % n))) ∧
    s.VuRule .vsraVi vd vs2 r vm (fun {n} a b => BitVec.ofInt n (a.toInt / 2 ^ (b.toNat % n)))

/-- The vector minima, maxima, multiplications and multiply-adds. With the same checks: vminu, vmin, vmaxu, vmax give
the smaller or larger element, vmul, vmulh, vmulhu and vmulhsu (vs2 signed, second operand unsigned) the low or high
SEW bits of the exact product, vmacc, vnmsac, vmadd and vnmsub the low SEW bits of the product added to or subtracted
from the third operand, with the old vd element as addend or factor; nothing else changes and vstart becomes 0.
(R92, R600, R601, R603, R671, R673, R679, R680, R682, R688, R689, R693) -/
def Obligations.VectorMinMaxMultiply : Prop :=
  ∀ (s : State) (vd vs2 r : BitVec 5) (vm : BitVec 1), s.cfg.wf = true → s.hart.vectorOk →
    s.VvRule .vminuVv vd vs2 r vm (fun a b => if a.toNat ≤ b.toNat then a else b) ∧
    s.VxRule .vminuVx vd vs2 r vm (fun a b => if a.toNat ≤ b.toNat then a else b) ∧
    s.VvRule .vminVv vd vs2 r vm (fun a b => if a.toInt ≤ b.toInt then a else b) ∧
    s.VxRule .vminVx vd vs2 r vm (fun a b => if a.toInt ≤ b.toInt then a else b) ∧
    s.VvRule .vmaxuVv vd vs2 r vm (fun a b => if b.toNat ≤ a.toNat then a else b) ∧
    s.VxRule .vmaxuVx vd vs2 r vm (fun a b => if b.toNat ≤ a.toNat then a else b) ∧
    s.VvRule .vmaxVv vd vs2 r vm (fun a b => if b.toInt ≤ a.toInt then a else b) ∧
    s.VxRule .vmaxVx vd vs2 r vm (fun a b => if b.toInt ≤ a.toInt then a else b) ∧
    s.VvRule .vmulVv vd vs2 r vm (fun {n} a b => BitVec.ofInt n (a.toInt * b.toInt)) ∧
    s.VxRule .vmulVx vd vs2 r vm (fun {n} a b => BitVec.ofInt n (a.toInt * b.toInt)) ∧
    s.VvRule .vmulhVv vd vs2 r vm (fun {n} a b => BitVec.ofInt n (a.toInt * b.toInt / 2 ^ n)) ∧
    s.VxRule .vmulhVx vd vs2 r vm (fun {n} a b => BitVec.ofInt n (a.toInt * b.toInt / 2 ^ n)) ∧
    s.VvRule .vmulhuVv vd vs2 r vm (fun {n} a b => BitVec.ofNat n (a.toNat * b.toNat / 2 ^ n)) ∧
    s.VxRule .vmulhuVx vd vs2 r vm (fun {n} a b => BitVec.ofNat n (a.toNat * b.toNat / 2 ^ n)) ∧
    s.VvRule .vmulhsuVv vd vs2 r vm (fun {n} a b => BitVec.ofInt n (a.toInt * b.toNat / 2 ^ n)) ∧
    s.VxRule .vmulhsuVx vd vs2 r vm (fun {n} a b => BitVec.ofInt n (a.toInt * b.toNat / 2 ^ n)) ∧
    s.VvRule3 .vmaccVv vd vs2 r vm (fun {n} d a b => BitVec.ofInt n (b.toInt * a.toInt + d.toInt)) ∧
    s.VxRule3 .vmaccVx vd vs2 r vm (fun {n} d a b => BitVec.ofInt n (b.toInt * a.toInt + d.toInt)) ∧
    s.VvRule3 .vnmsacVv vd vs2 r vm (fun {n} d a b => BitVec.ofInt n (d.toInt - b.toInt * a.toInt)) ∧
    s.VxRule3 .vnmsacVx vd vs2 r vm (fun {n} d a b => BitVec.ofInt n (d.toInt - b.toInt * a.toInt)) ∧
    s.VvRule3 .vmaddVv vd vs2 r vm (fun {n} d a b => BitVec.ofInt n (b.toInt * d.toInt + a.toInt)) ∧
    s.VxRule3 .vmaddVx vd vs2 r vm (fun {n} d a b => BitVec.ofInt n (b.toInt * d.toInt + a.toInt)) ∧
    s.VvRule3 .vnmsubVv vd vs2 r vm (fun {n} d a b => BitVec.ofInt n (a.toInt - b.toInt * d.toInt)) ∧
    s.VxRule3 .vnmsubVx vd vs2 r vm (fun {n} d a b => BitVec.ofInt n (a.toInt - b.toInt * d.toInt))

/-- The vector comparisons write masks. In a configuration the spec admits and a state with a proper vector setting:
where vill = 0, the sources are aligned groups and, with LMUL > 1, vd is no register of a source group, each
comparison sets mask element j of vd (MLEN bits) to 1 where the vs2 element stands in the named relation to the second
operand and to 0 where not, for the active body elements; the other mask elements and registers keep their value and
vstart becomes 0. Otherwise it is an illegal instruction. The immediate of vmsleu.vi and vmsgtu.vi is extended as
VMS_UIMM_ZEXT says.
(R88, R89, R90, R92, R540, R603, R639, R640, R650, R651, R657, R667) -/
def Obligations.VectorComparisons : Prop :=
  ∀ (s : State) (vd vs2 r : BitVec 5) (vm : BitVec 1), s.cfg.wf = true → s.hart.vectorOk →
    let h := s.hart
    let scalar : BitVec h.sew := (h.getX r).signExtend h.sew
    let simm : BitVec h.sew := r.signExtend h.sew
    let uimm : BitVec h.sew := if s.cfg.vmsUimmZext then r.setWidth h.sew else simm
    s.VMaskRule (.vmseqVv vd vs2 r vm) vd vm [vs2, r] (fun j => (h.velem vs2.toNat j) = (h.velem r.toNat j)) ∧
    s.VMaskRule (.vmseqVx vd vs2 r vm) vd vm [vs2] (fun j => (h.velem vs2.toNat j) = scalar) ∧
    s.VMaskRule (.vmseqVi vd vs2 r vm) vd vm [vs2] (fun j => (h.velem vs2.toNat j) = simm) ∧
    s.VMaskRule (.vmsneVv vd vs2 r vm) vd vm [vs2, r] (fun j => (h.velem vs2.toNat j) ≠ (h.velem r.toNat j)) ∧
    s.VMaskRule (.vmsneVx vd vs2 r vm) vd vm [vs2] (fun j => (h.velem vs2.toNat j) ≠ scalar) ∧
    s.VMaskRule (.vmsneVi vd vs2 r vm) vd vm [vs2] (fun j => (h.velem vs2.toNat j) ≠ simm) ∧
    s.VMaskRule (.vmsltuVv vd vs2 r vm) vd vm [vs2, r] (fun j => (h.velem vs2.toNat j).toNat < (h.velem r.toNat j).toNat) ∧
    s.VMaskRule (.vmsltuVx vd vs2 r vm) vd vm [vs2] (fun j => (h.velem vs2.toNat j).toNat < scalar.toNat) ∧
    s.VMaskRule (.vmsltVv vd vs2 r vm) vd vm [vs2, r] (fun j => (h.velem vs2.toNat j).toInt < (h.velem r.toNat j).toInt) ∧
    s.VMaskRule (.vmsltVx vd vs2 r vm) vd vm [vs2] (fun j => (h.velem vs2.toNat j).toInt < scalar.toInt) ∧
    s.VMaskRule (.vmsleuVv vd vs2 r vm) vd vm [vs2, r] (fun j => (h.velem vs2.toNat j).toNat ≤ (h.velem r.toNat j).toNat) ∧
    s.VMaskRule (.vmsleuVx vd vs2 r vm) vd vm [vs2] (fun j => (h.velem vs2.toNat j).toNat ≤ scalar.toNat) ∧
    s.VMaskRule (.vmsleuVi vd vs2 r vm) vd vm [vs2] (fun j => (h.velem vs2.toNat j).toNat ≤ uimm.toNat) ∧
    s.VMaskRule (.vmsleVv vd vs2 r vm) vd vm [vs2, r] (fun j => (h.velem vs2.toNat j).toInt ≤ (h.velem r.toNat j).toInt) ∧
    s.VMaskRule (.vmsleVx vd vs2 r vm) vd vm [vs2] (fun j => (h.velem vs2.toNat j).toInt ≤ scalar.toInt) ∧
    s.VMaskRule (.vmsleVi vd vs2 r vm) vd vm [vs2] (fun j => (h.velem vs2.toNat j).toInt ≤ simm.toInt) ∧
    s.VMaskRule (.vmsgtuVx vd vs2 r vm) vd vm [vs2] (fun j => scalar.toNat < (h.velem vs2.toNat j).toNat) ∧
    s.VMaskRule (.vmsgtuVi vd vs2 r vm) vd vm [vs2] (fun j => uimm.toNat < (h.velem vs2.toNat j).toNat) ∧
    s.VMaskRule (.vmsgtVx vd vs2 r vm) vd vm [vs2] (fun j => scalar.toInt < (h.velem vs2.toNat j).toInt) ∧
    s.VMaskRule (.vmsgtVi vd vs2 r vm) vd vm [vs2] (fun j => simm.toInt < (h.velem vs2.toNat j).toInt)

/-- Only stores write memory, and only where the map allows writes. Whatever instruction is executed in whatever
state: if it is no store, AMO, sc.d or vector store, memory is unchanged, and stale_code too unless it is fence.i; and
if it is, in a state whose memory is in canonical form, every byte that lies where the map does not allow writes is
unchanged. The record of device accesses only grows.
(R106, R111, R119, R131) -/
def Obligations.MemoryIsWrittenByStoresOnly : Prop :=
  ∀ (i : Instr) (s : State) (t : Hart s.cfg), exec i s = .next (s.withHart t) →
    (¬StoresToMemory i → t.mem = s.hart.mem ∧ (i ≠ .fenceI → t.stale = s.hart.stale)) ∧
    (Memory.wf s.hart.mem = true → ∀ a, byteAllowed s.cfg .store a = false →
      Memory.read t.mem a = Memory.read s.hart.mem a) ∧
    ∃ l, t.ioOut = s.hart.ioOut ++ l

/-- User mode changes no machine or supervisor register. Whatever instruction is executed in U-mode, with whatever
operands: it takes an exception, or the hart stays in U-mode and every machine and supervisor CSR, every interrupt
bit, the time input and every field of mstatus but FS are unchanged; only x, f, v, pc, memory, stale_code, the
floating-point and vector CSRs, the counters, the reservation and the waiting can change.
(R45, R332, R333, R706, R735, R736) -/
def Obligations.UserIsolation : Prop :=
  ∀ (i : Instr) (s : State) (t : Hart s.cfg), s.hart.priv = .u → exec i s = .next (s.withHart t) →
    s.Traps i ∨
    (t.minstret = s.hart.minstret + 1 ∧
      t = { s.hart with x := t.x, f := t.f, v := t.v, pc := t.pc, fflags := t.fflags, frm := t.frm,
                        vstart := t.vstart, vl := t.vl, vtype := t.vtype, vxsat := t.vxsat, vxrm := t.vxrm,
                        mem := t.mem, stale := t.stale, ioOut := t.ioOut, reservation := t.reservation,
                        minstret := t.minstret, mcycle := t.mcycle, draws := t.draws, waiting := t.waiting,
                        mstatus := { s.hart.mstatus with fs := t.mstatus.fs } })

/-- Below machine mode no instruction changes a machine register, and privilege rises only by a trap. Whatever
instruction is executed: the mode changes only by an exception, mret or sret, and rises only by an exception. Executed
below M-mode it takes an exception, or it leaves the hart below M-mode and unchanged: every machine trap register, the
delegation and counter-enable registers, the machine fields of mstatus (MPRV can only be cleared), the enables of
interrupts that are not delegated, STIP and the software bit of SEIP, and every input: the interrupt lines, the time,
the failure input of sc.d and the samples to come.
(R45, R54, R57, R332, R333, R706, R713, R735) -/
def Obligations.SupervisorIsolation : Prop :=
  ∀ (i : Instr) (s : State) (t : Hart s.cfg), exec i s = .next (s.withHart t) →
    (t.priv ≠ s.hart.priv → s.Traps i ∨ i = .mret ∨ i = .sret) ∧
    (s.hart.priv.level < t.priv.level → s.Traps i) ∧
    (s.hart.priv ≠ .m → s.Traps i ∨
      (t.priv ≠ .m ∧ t.mtvec = s.hart.mtvec ∧ t.mepc = s.hart.mepc ∧ t.mcause = s.hart.mcause ∧
        t.mtval = s.hart.mtval ∧ t.mscratch = s.hart.mscratch ∧ t.medeleg = s.hart.medeleg ∧
        t.mideleg = s.hart.mideleg ∧ t.mcounteren = s.hart.mcounteren ∧
        t.mstatus = { s.hart.mstatus with
          sie := t.mstatus.sie, spie := t.mstatus.spie, spp := t.mstatus.spp, fs := t.mstatus.fs,
          mprv := t.mstatus.mprv, sum := t.mstatus.sum, mxr := t.mstatus.mxr } ∧
        (t.mstatus.mprv = true → s.hart.mstatus.mprv = true) ∧
        (∀ k, s.hart.mideleg.getLsbD k = false → t.mie.getLsbD k = s.hart.mie.getLsbD k) ∧
        t.stip = s.hart.stip ∧ t.seip = s.hart.seip ∧ t.lines = s.hart.lines ∧ t.time = s.hart.time ∧
        t.scFail = s.hart.scFail ∧ t.samples = s.hart.samples))
end

