-- ==== Sys2Proof/Laws/Arith.lean ====
section
/-! SUPPORT. The arithmetic of the meanings as exact integer arithmetic cut to the width: what claims say in numbers, the
model computes in bit vectors. -/

namespace Sys2Proof.Machine

open Sys2Proof

theorem xlen_cases (c : Config) : c.xlen = 32 ∨ c.xlen = 64 := by unfold Config.xlen; split <;> simp

theorem xlen_pos (c : Config) : 0 < c.xlen := by rcases xlen_cases c with h | h <;> omega

theorem xlen_le (c : Config) : c.xlen ≤ 64 := by rcases xlen_cases c with h | h <;> omega

theorem flen_cases (c : Config) : c.flen = 32 ∨ c.flen = 64 := by unfold Config.flen; split <;> simp

variable {n : Nat}

theorem ofInt_natCast (v : Nat) : BitVec.ofInt n (v : Int) = BitVec.ofNat n v := by simp

theorem ofInt_congr {x y : Int} (h : x % (2 : Int) ^ n = y % (2 : Int) ^ n) : BitVec.ofInt n x = BitVec.ofInt n y := by
  apply BitVec.eq_of_toInt_eq
  rw [BitVec.toInt_ofInt, BitVec.toInt_ofInt, Int.bmod_def, Int.bmod_def]
  push_cast
  rw [h]

theorem toInt_emod (a : BitVec n) : a.toInt % (2 : Int) ^ n = a.toNat := by
  have h := Int.bmod_emod (x := (a.toNat : Int)) (m := 2 ^ n)
  push_cast at h
  rw [BitVec.toInt_eq_toNat_bmod, h]
  exact Int.emod_eq_of_lt (by omega) (by exact_mod_cast a.isLt)

theorem add_eq_ofInt (a b : BitVec n) : a + b = BitVec.ofInt n (a.toInt + b.toInt) := by
  apply BitVec.eq_of_toInt_eq; simp [BitVec.toInt_add]

theorem sub_eq_ofInt (a b : BitVec n) : a - b = BitVec.ofInt n (a.toInt - b.toInt) := by
  apply BitVec.eq_of_toInt_eq; simp [BitVec.toInt_sub]

theorem mul_eq_ofInt (a b : BitVec n) : a * b = BitVec.ofInt n (a.toInt * b.toInt) := by
  apply BitVec.eq_of_toInt_eq; simp [BitVec.toInt_mul]

theorem add_eq_ofInt_toNat (a b : BitVec n) : a + b = BitVec.ofInt n (a.toNat + b.toNat) := by
  rw [add_eq_ofInt]; apply ofInt_congr; rw [Int.add_emod, toInt_emod, toInt_emod]

theorem sub_eq_ofInt_toNat (a b : BitVec n) : a - b = BitVec.ofInt n ((a.toNat : Int) - b.toNat) := by
  rw [sub_eq_ofInt]; apply ofInt_congr; rw [Int.sub_emod, toInt_emod, toInt_emod]

theorem add_ofInt (a : BitVec n) (k : Int) : a + BitVec.ofInt n k = BitVec.ofInt n (a.toInt + k) := by
  apply BitVec.eq_of_toInt_eq; simp [BitVec.toInt_add]

theorem add_ofInt_toNat (a : BitVec n) (k : Int) : a + BitVec.ofInt n k = BitVec.ofInt n (a.toNat + k) := by
  rw [add_ofInt]; apply ofInt_congr; rw [Int.add_emod, toInt_emod, Int.add_emod (a.toNat : Int), ← toInt_emod]; simp

theorem shiftLeft_eq_ofNat (a : BitVec n) (k : Nat) : a <<< k = BitVec.ofNat n (a.toNat * 2 ^ k) := by
  apply BitVec.eq_of_toNat_eq; simp [Nat.shiftLeft_eq]

theorem shiftRight_eq_ofNat (a : BitVec n) (k : Nat) : a >>> k = BitVec.ofNat n (a.toNat / 2 ^ k) := by
  apply BitVec.eq_of_toNat_eq
  rw [BitVec.toNat_ushiftRight, BitVec.toNat_ofNat, Nat.shiftRight_eq_div_pow, Nat.mod_eq_of_lt]
  exact lt_of_le_of_lt (Nat.div_le_self _ _) a.isLt

theorem shiftLeft_eq_ofInt (a : BitVec n) (k : Nat) : a <<< k = BitVec.ofInt n (a.toNat * 2 ^ k) := by
  rw [shiftLeft_eq_ofNat, ← ofInt_natCast]; push_cast; rfl

theorem shiftRight_eq_ofInt (a : BitVec n) (k : Nat) : a >>> k = BitVec.ofInt n (a.toNat / 2 ^ k) := by
  rw [shiftRight_eq_ofNat, ← ofInt_natCast]; push_cast; rfl

theorem sshiftRight_eq_ofInt (a : BitVec n) (k : Nat) : a.sshiftRight k = BitVec.ofInt n (a.toInt / 2 ^ k) := by
  rw [BitVec.sshiftRight, Int.shiftRight_eq_div_pow]; push_cast; rfl

theorem signExtend_eq_ofInt {m : Nat} (a : BitVec m) : a.signExtend n = BitVec.ofInt n a.toInt := rfl

theorem setWidth_eq_ofNat {m : Nat} (a : BitVec m) : a.setWidth n = BitVec.ofNat n a.toNat := by
  apply BitVec.eq_of_toNat_eq; simp

/-- A signed value has the bits above it of its sign. -/
theorem append_zeros_toInt {m : Nat} (a : BitVec m) (k : Nat) : (a ++ 0#k).toInt = a.toInt * 2 ^ k := by
  rcases Nat.eq_zero_or_pos m with h0 | hm
  · subst h0; simp [BitVec.eq_nil a]
  have hnat : (a ++ 0#k).toNat = a.toNat * 2 ^ k := by simp [BitVec.toNat_append, Nat.shiftLeft_eq]
  rw [BitVec.toInt_eq_toNat_cond, BitVec.toInt_eq_toNat_cond, hnat, pow_add]
  have hp : 0 < 2 ^ k := by positivity
  have e : (2 * (a.toNat * 2 ^ k) < 2 ^ m * 2 ^ k) ↔ 2 * a.toNat < 2 ^ m := by
    rw [← mul_assoc]; exact Nat.mul_lt_mul_right hp
  simp only [e]
  split <;> push_cast <;> ring

theorem immX_eq (c : Config) (imm : BitVec 12) : immX c imm = BitVec.ofInt c.xlen imm.toInt := rfl

theorem upperX_eq (c : Config) (imm : BitVec 20) : upperX c imm = BitVec.ofInt c.xlen (imm.toInt * 4096) := by
  unfold upperX; rw [signExtend_eq_ofInt, append_zeros_toInt]; norm_num

theorem offsetX_eq (c : Config) {m : Nat} (off : BitVec m) : offsetX c off = BitVec.ofInt c.xlen (2 * off.toInt) := by
  unfold offsetX; rw [signExtend_eq_ofInt, append_zeros_toInt]; congr 1; ring

theorem scaledX_eq (c : Config) {m : Nat} (u : BitVec m) (k : Nat) :
    scaledX c u k = BitVec.ofNat c.xlen (2 ^ k * u.toNat) := by
  unfold scaledX
  apply BitVec.eq_of_toNat_eq
  simp [Nat.shiftLeft_eq, mul_comm]

theorem allOnes_eq_ofInt : BitVec.allOnes n = BitVec.ofInt n (-1) := by
  apply BitVec.eq_of_toNat_eq
  rw [BitVec.toNat_allOnes, BitVec.toNat_ofInt]
  have h : (0 : Int) < 2 ^ n := by positivity
  push_cast
  rw [Int.emod_def]
  have : (-1 : Int) / 2 ^ n = -1 := by
    rw [Int.ediv_eq_iff_of_pos h]; constructor <;> linarith
  rw [this]
  zify [Nat.one_le_two_pow]
  rw [Int.toNat_of_nonneg] <;> linarith

theorem divSigned_eq (a b : BitVec n) :
    divSigned a b = if b = 0 then BitVec.ofInt n (-1) else BitVec.ofInt n (a.toInt.tdiv b.toInt) := by
  unfold divSigned
  split
  · exact allOnes_eq_ofInt
  · apply BitVec.eq_of_toInt_eq; simp [BitVec.toInt_sdiv]

theorem divUnsigned_eq (a b : BitVec n) :
    divUnsigned a b = if b = 0 then BitVec.ofInt n (-1) else BitVec.ofInt n (a.toNat / b.toNat) := by
  unfold divUnsigned
  split
  · exact allOnes_eq_ofInt
  · rw [show ((a.toNat : Int) / b.toNat) = ((a.toNat / b.toNat : Nat) : Int) by push_cast; rfl, ofInt_natCast]
    apply BitVec.eq_of_toNat_eq
    rw [BitVec.udiv_eq, BitVec.toNat_udiv, BitVec.toNat_ofNat, Nat.mod_eq_of_lt]
    exact lt_of_le_of_lt (Nat.div_le_self _ _) a.isLt

theorem remSigned_eq (a b : BitVec n) :
    remSigned a b = if b = 0 then a else BitVec.ofInt n (a.toInt.tmod b.toInt) := by
  unfold remSigned
  split
  · rfl
  · rw [← BitVec.toInt_srem, BitVec.ofInt_toInt]

theorem remUnsigned_eq (a b : BitVec n) :
    remUnsigned a b = if b = 0 then a else BitVec.ofInt n (a.toNat % b.toNat) := by
  unfold remUnsigned
  split
  · rfl
  · rw [show ((a.toNat : Int) % b.toNat) = ((a.toNat % b.toNat : Nat) : Int) by push_cast; rfl, ofInt_natCast]
    apply BitVec.eq_of_toNat_eq
    rw [BitVec.umod_eq, BitVec.toNat_umod, BitVec.toNat_ofNat]
    exact (Nat.mod_eq_of_lt (lt_of_le_of_lt (Nat.mod_le _ _) a.isLt)).symm

/-- The low 32 bits of a sum with an immediate. -/
theorem low32_add_ofInt (c : Config) (a : BitVec c.xlen) (k : Int) :
    low32 (a + BitVec.ofInt c.xlen k) = BitVec.ofInt 32 ((low32 a).toInt + k) := by
  have h : 32 ≤ c.xlen := by rcases xlen_cases c with h | h <;> omega
  have e : low32 (BitVec.ofInt c.xlen k) = BitVec.ofInt 32 k := by
    apply BitVec.eq_of_toNat_eq
    unfold low32
    rw [BitVec.toNat_setWidth, BitVec.toNat_ofInt, BitVec.toNat_ofInt]
    zify
    rw [Int.toNat_of_nonneg (Int.emod_nonneg _ (by positivity)), Int.toNat_of_nonneg (Int.emod_nonneg _ (by positivity))]
    push_cast
    exact Int.emod_emod_of_dvd k (pow_dvd_pow 2 h)
  rw [← add_ofInt, ← e]
  unfold low32
  rw [BitVec.setWidth_add _ _ h]

/-- The register of a 3-bit field is 8 more than the field (R158). -/
theorem creg_eq (r : BitVec 3) : creg r = BitVec.ofNat 5 (8 + r.toNat) := by revert r; decide

theorem evenAddr_eq (a : BitVec n) : evenAddr a = BitVec.ofNat n (a.toNat / 2 * 2) := by
  apply BitVec.eq_of_getLsbD_eq
  intro i hi
  unfold evenAddr
  simp only [BitVec.getLsbD_and, BitVec.getLsbD_not, BitVec.getLsbD_ofNat]
  rw [show a.toNat / 2 * 2 = (a.toNat >>> 1) <<< 1 by simp [Nat.shiftLeft_eq, Nat.shiftRight_eq_div_pow]]
  rcases i with _ | i
  · simp
  · have h1 : Nat.testBit 1 (i + 1) = false := by simp [Nat.testBit_succ]
    simp [hi, BitVec.getLsbD, h1, Nat.add_comm]

theorem highProduct_eq (sa sb : Bool) (a b : BitVec n) :
    highProduct sa sb a b =
      BitVec.ofInt n ((if sa then a.toInt else a.toNat) * (if sb then b.toInt else b.toNat) / 2 ^ n) := by
  have key : ∀ (p : Int) (w : BitVec (2 * n)), w = BitVec.ofInt (2 * n) p →
      w.extractLsb' n n = BitVec.ofInt n (p / 2 ^ n) := by
    intro p w hw
    apply BitVec.eq_of_toNat_eq
    rw [BitVec.extractLsb'_toNat, hw, Nat.shiftRight_eq_div_pow]
    zify
    rw [BitVec.toNat_ofInt, BitVec.toNat_ofInt]
    rw [Int.toNat_of_nonneg (Int.emod_nonneg _ (by positivity)), Int.toNat_of_nonneg (Int.emod_nonneg _ (by positivity))]
    push_cast
    have hm : (0 : Int) < 2 ^ n := by positivity
    have hp : p % (2 ^ n * 2 ^ n) = p + 2 ^ n * (2 ^ n * -(p / (2 ^ n * 2 ^ n))) := by rw [Int.emod_def]; ring
    rw [two_mul, pow_add, hp, Int.add_mul_ediv_left _ _ hm.ne', Int.add_mul_emod_self_left]
  have hw : ∀ (s : Bool) (x : BitVec n), widen s x = BitVec.ofInt (2 * n) (if s then x.toInt else x.toNat) := by
    intro s x
    cases s
    · exact (setWidth_eq_ofNat x).trans (ofInt_natCast x.toNat).symm
    · rfl
  unfold highProduct
  apply key
  rw [hw, hw, BitVec.ofInt_mul]

end Sys2Proof.Machine
end

