-- ==== Sys2Proof/Laws/State.lean ====
section
/-! SUPPORT. The small lemmas of the state: what each update leaves of each field, and what register reads give after
register writes, so that no proof unfolds an update. -/

namespace Sys2Proof.Machine

open Sys2Proof

variable {c : Config}

/-! ## The machine and its hart -/

@[simp] theorem State.withHart_cfg (s : State) (h : Hart s.cfg) : (s.withHart h).cfg = s.cfg := rfl

@[simp] theorem State.withHart_hart (s : State) (h : Hart s.cfg) : (s.withHart h).hart = h := rfl

@[simp] theorem State.withHart_self (s : State) : s.withHart s.hart = s := rfl

@[simp] theorem State.withHart_withHart (s : State) (h k : Hart s.cfg) : (s.withHart h).withHart k = s.withHart k := rfl

/-! ## Fields after `x[r] <- v` -/

@[simp] theorem Hart.setX_f (h : Hart c) (r : BitVec 5) (v : BitVec c.xlen) : (h.setX r v).f = h.f := by unfold Hart.setX; split <;> rfl
@[simp] theorem Hart.setX_v (h : Hart c) (r : BitVec 5) (v : BitVec c.xlen) : (h.setX r v).v = h.v := by unfold Hart.setX; split <;> rfl
@[simp] theorem Hart.setX_pc (h : Hart c) (r : BitVec 5) (v : BitVec c.xlen) : (h.setX r v).pc = h.pc := by unfold Hart.setX; split <;> rfl
@[simp] theorem Hart.setX_priv (h : Hart c) (r : BitVec 5) (v : BitVec c.xlen) : (h.setX r v).priv = h.priv := by unfold Hart.setX; split <;> rfl
@[simp] theorem Hart.setX_mstatus (h : Hart c) (r : BitVec 5) (v : BitVec c.xlen) : (h.setX r v).mstatus = h.mstatus := by unfold Hart.setX; split <;> rfl
@[simp] theorem Hart.setX_fflags (h : Hart c) (r : BitVec 5) (v : BitVec c.xlen) : (h.setX r v).fflags = h.fflags := by unfold Hart.setX; split <;> rfl
@[simp] theorem Hart.setX_frm (h : Hart c) (r : BitVec 5) (v : BitVec c.xlen) : (h.setX r v).frm = h.frm := by unfold Hart.setX; split <;> rfl
@[simp] theorem Hart.setX_mtvec (h : Hart c) (r : BitVec 5) (v : BitVec c.xlen) : (h.setX r v).mtvec = h.mtvec := by unfold Hart.setX; split <;> rfl
@[simp] theorem Hart.setX_stvec (h : Hart c) (r : BitVec 5) (v : BitVec c.xlen) : (h.setX r v).stvec = h.stvec := by unfold Hart.setX; split <;> rfl
@[simp] theorem Hart.setX_mscratch (h : Hart c) (r : BitVec 5) (v : BitVec c.xlen) : (h.setX r v).mscratch = h.mscratch := by unfold Hart.setX; split <;> rfl
@[simp] theorem Hart.setX_sscratch (h : Hart c) (r : BitVec 5) (v : BitVec c.xlen) : (h.setX r v).sscratch = h.sscratch := by unfold Hart.setX; split <;> rfl
@[simp] theorem Hart.setX_mepc (h : Hart c) (r : BitVec 5) (v : BitVec c.xlen) : (h.setX r v).mepc = h.mepc := by unfold Hart.setX; split <;> rfl
@[simp] theorem Hart.setX_sepc (h : Hart c) (r : BitVec 5) (v : BitVec c.xlen) : (h.setX r v).sepc = h.sepc := by unfold Hart.setX; split <;> rfl
@[simp] theorem Hart.setX_mcause (h : Hart c) (r : BitVec 5) (v : BitVec c.xlen) : (h.setX r v).mcause = h.mcause := by unfold Hart.setX; split <;> rfl
@[simp] theorem Hart.setX_scause (h : Hart c) (r : BitVec 5) (v : BitVec c.xlen) : (h.setX r v).scause = h.scause := by unfold Hart.setX; split <;> rfl
@[simp] theorem Hart.setX_mtval (h : Hart c) (r : BitVec 5) (v : BitVec c.xlen) : (h.setX r v).mtval = h.mtval := by unfold Hart.setX; split <;> rfl
@[simp] theorem Hart.setX_stval (h : Hart c) (r : BitVec 5) (v : BitVec c.xlen) : (h.setX r v).stval = h.stval := by unfold Hart.setX; split <;> rfl
@[simp] theorem Hart.setX_medeleg (h : Hart c) (r : BitVec 5) (v : BitVec c.xlen) : (h.setX r v).medeleg = h.medeleg := by unfold Hart.setX; split <;> rfl
@[simp] theorem Hart.setX_mideleg (h : Hart c) (r : BitVec 5) (v : BitVec c.xlen) : (h.setX r v).mideleg = h.mideleg := by unfold Hart.setX; split <;> rfl
@[simp] theorem Hart.setX_mie (h : Hart c) (r : BitVec 5) (v : BitVec c.xlen) : (h.setX r v).mie = h.mie := by unfold Hart.setX; split <;> rfl
@[simp] theorem Hart.setX_ssip (h : Hart c) (r : BitVec 5) (v : BitVec c.xlen) : (h.setX r v).ssip = h.ssip := by unfold Hart.setX; split <;> rfl
@[simp] theorem Hart.setX_stip (h : Hart c) (r : BitVec 5) (v : BitVec c.xlen) : (h.setX r v).stip = h.stip := by unfold Hart.setX; split <;> rfl
@[simp] theorem Hart.setX_seip (h : Hart c) (r : BitVec 5) (v : BitVec c.xlen) : (h.setX r v).seip = h.seip := by unfold Hart.setX; split <;> rfl
@[simp] theorem Hart.setX_mcounteren (h : Hart c) (r : BitVec 5) (v : BitVec c.xlen) : (h.setX r v).mcounteren = h.mcounteren := by unfold Hart.setX; split <;> rfl
@[simp] theorem Hart.setX_scounteren (h : Hart c) (r : BitVec 5) (v : BitVec c.xlen) : (h.setX r v).scounteren = h.scounteren := by unfold Hart.setX; split <;> rfl
@[simp] theorem Hart.setX_mcycle (h : Hart c) (r : BitVec 5) (v : BitVec c.xlen) : (h.setX r v).mcycle = h.mcycle := by unfold Hart.setX; split <;> rfl
@[simp] theorem Hart.setX_minstret (h : Hart c) (r : BitVec 5) (v : BitVec c.xlen) : (h.setX r v).minstret = h.minstret := by unfold Hart.setX; split <;> rfl
@[simp] theorem Hart.setX_vstart (h : Hart c) (r : BitVec 5) (v : BitVec c.xlen) : (h.setX r v).vstart = h.vstart := by unfold Hart.setX; split <;> rfl
@[simp] theorem Hart.setX_vl (h : Hart c) (r : BitVec 5) (v : BitVec c.xlen) : (h.setX r v).vl = h.vl := by unfold Hart.setX; split <;> rfl
@[simp] theorem Hart.setX_vtype (h : Hart c) (r : BitVec 5) (v : BitVec c.xlen) : (h.setX r v).vtype = h.vtype := by unfold Hart.setX; split <;> rfl
@[simp] theorem Hart.setX_vxsat (h : Hart c) (r : BitVec 5) (v : BitVec c.xlen) : (h.setX r v).vxsat = h.vxsat := by unfold Hart.setX; split <;> rfl
@[simp] theorem Hart.setX_vxrm (h : Hart c) (r : BitVec 5) (v : BitVec c.xlen) : (h.setX r v).vxrm = h.vxrm := by unfold Hart.setX; split <;> rfl
@[simp] theorem Hart.setX_reservation (h : Hart c) (r : BitVec 5) (v : BitVec c.xlen) : (h.setX r v).reservation = h.reservation := by unfold Hart.setX; split <;> rfl
@[simp] theorem Hart.setX_waiting (h : Hart c) (r : BitVec 5) (v : BitVec c.xlen) : (h.setX r v).waiting = h.waiting := by unfold Hart.setX; split <;> rfl
@[simp] theorem Hart.setX_stale (h : Hart c) (r : BitVec 5) (v : BitVec c.xlen) : (h.setX r v).stale = h.stale := by unfold Hart.setX; split <;> rfl
@[simp] theorem Hart.setX_mem (h : Hart c) (r : BitVec 5) (v : BitVec c.xlen) : (h.setX r v).mem = h.mem := by unfold Hart.setX; split <;> rfl
@[simp] theorem Hart.setX_lines (h : Hart c) (r : BitVec 5) (v : BitVec c.xlen) : (h.setX r v).lines = h.lines := by unfold Hart.setX; split <;> rfl
@[simp] theorem Hart.setX_time (h : Hart c) (r : BitVec 5) (v : BitVec c.xlen) : (h.setX r v).time = h.time := by unfold Hart.setX; split <;> rfl
@[simp] theorem Hart.setX_scFail (h : Hart c) (r : BitVec 5) (v : BitVec c.xlen) : (h.setX r v).scFail = h.scFail := by unfold Hart.setX; split <;> rfl
@[simp] theorem Hart.setX_samples (h : Hart c) (r : BitVec 5) (v : BitVec c.xlen) : (h.setX r v).samples = h.samples := by unfold Hart.setX; split <;> rfl
@[simp] theorem Hart.setX_ioOut (h : Hart c) (r : BitVec 5) (v : BitVec c.xlen) : (h.setX r v).ioOut = h.ioOut := by unfold Hart.setX; split <;> rfl
@[simp] theorem Hart.setX_draws (h : Hart c) (r : BitVec 5) (v : BitVec c.xlen) : (h.setX r v).draws = h.draws := by unfold Hart.setX; split <;> rfl
@[simp] theorem Hart.setX_mtvecSet (h : Hart c) (r : BitVec 5) (v : BitVec c.xlen) : (h.setX r v).mtvecSet = h.mtvecSet := by unfold Hart.setX; split <;> rfl
@[simp] theorem Hart.setX_stvecSet (h : Hart c) (r : BitVec 5) (v : BitVec c.xlen) : (h.setX r v).stvecSet = h.stvecSet := by unfold Hart.setX; split <;> rfl
@[simp] theorem Hart.setX_mepcSet (h : Hart c) (r : BitVec 5) (v : BitVec c.xlen) : (h.setX r v).mepcSet = h.mepcSet := by unfold Hart.setX; split <;> rfl
@[simp] theorem Hart.setX_sepcSet (h : Hart c) (r : BitVec 5) (v : BitVec c.xlen) : (h.setX r v).sepcSet = h.sepcSet := by unfold Hart.setX; split <;> rfl
@[simp] theorem Hart.setX_pcUnspecified (h : Hart c) (r : BitVec 5) (v : BitVec c.xlen) : (h.setX r v).pcUnspecified = h.pcUnspecified := by unfold Hart.setX; split <;> rfl

/-! ## Fields after `f[r] <- v` -/

@[simp] theorem Hart.setF_x (h : Hart c) (r : BitVec 5) (v : BitVec c.flen) : (h.setF r v).x = h.x := rfl
@[simp] theorem Hart.setF_v (h : Hart c) (r : BitVec 5) (v : BitVec c.flen) : (h.setF r v).v = h.v := rfl
@[simp] theorem Hart.setF_pc (h : Hart c) (r : BitVec 5) (v : BitVec c.flen) : (h.setF r v).pc = h.pc := rfl
@[simp] theorem Hart.setF_priv (h : Hart c) (r : BitVec 5) (v : BitVec c.flen) : (h.setF r v).priv = h.priv := rfl
@[simp] theorem Hart.setF_fflags (h : Hart c) (r : BitVec 5) (v : BitVec c.flen) : (h.setF r v).fflags = h.fflags := rfl
@[simp] theorem Hart.setF_frm (h : Hart c) (r : BitVec 5) (v : BitVec c.flen) : (h.setF r v).frm = h.frm := rfl
@[simp] theorem Hart.setF_mtvec (h : Hart c) (r : BitVec 5) (v : BitVec c.flen) : (h.setF r v).mtvec = h.mtvec := rfl
@[simp] theorem Hart.setF_stvec (h : Hart c) (r : BitVec 5) (v : BitVec c.flen) : (h.setF r v).stvec = h.stvec := rfl
@[simp] theorem Hart.setF_mscratch (h : Hart c) (r : BitVec 5) (v : BitVec c.flen) : (h.setF r v).mscratch = h.mscratch := rfl
@[simp] theorem Hart.setF_sscratch (h : Hart c) (r : BitVec 5) (v : BitVec c.flen) : (h.setF r v).sscratch = h.sscratch := rfl
@[simp] theorem Hart.setF_mepc (h : Hart c) (r : BitVec 5) (v : BitVec c.flen) : (h.setF r v).mepc = h.mepc := rfl
@[simp] theorem Hart.setF_sepc (h : Hart c) (r : BitVec 5) (v : BitVec c.flen) : (h.setF r v).sepc = h.sepc := rfl
@[simp] theorem Hart.setF_mcause (h : Hart c) (r : BitVec 5) (v : BitVec c.flen) : (h.setF r v).mcause = h.mcause := rfl
@[simp] theorem Hart.setF_scause (h : Hart c) (r : BitVec 5) (v : BitVec c.flen) : (h.setF r v).scause = h.scause := rfl
@[simp] theorem Hart.setF_mtval (h : Hart c) (r : BitVec 5) (v : BitVec c.flen) : (h.setF r v).mtval = h.mtval := rfl
@[simp] theorem Hart.setF_stval (h : Hart c) (r : BitVec 5) (v : BitVec c.flen) : (h.setF r v).stval = h.stval := rfl
@[simp] theorem Hart.setF_medeleg (h : Hart c) (r : BitVec 5) (v : BitVec c.flen) : (h.setF r v).medeleg = h.medeleg := rfl
@[simp] theorem Hart.setF_mideleg (h : Hart c) (r : BitVec 5) (v : BitVec c.flen) : (h.setF r v).mideleg = h.mideleg := rfl
@[simp] theorem Hart.setF_mie (h : Hart c) (r : BitVec 5) (v : BitVec c.flen) : (h.setF r v).mie = h.mie := rfl
@[simp] theorem Hart.setF_ssip (h : Hart c) (r : BitVec 5) (v : BitVec c.flen) : (h.setF r v).ssip = h.ssip := rfl
@[simp] theorem Hart.setF_stip (h : Hart c) (r : BitVec 5) (v : BitVec c.flen) : (h.setF r v).stip = h.stip := rfl
@[simp] theorem Hart.setF_seip (h : Hart c) (r : BitVec 5) (v : BitVec c.flen) : (h.setF r v).seip = h.seip := rfl
@[simp] theorem Hart.setF_mcounteren (h : Hart c) (r : BitVec 5) (v : BitVec c.flen) : (h.setF r v).mcounteren = h.mcounteren := rfl
@[simp] theorem Hart.setF_scounteren (h : Hart c) (r : BitVec 5) (v : BitVec c.flen) : (h.setF r v).scounteren = h.scounteren := rfl
@[simp] theorem Hart.setF_mcycle (h : Hart c) (r : BitVec 5) (v : BitVec c.flen) : (h.setF r v).mcycle = h.mcycle := rfl
@[simp] theorem Hart.setF_minstret (h : Hart c) (r : BitVec 5) (v : BitVec c.flen) : (h.setF r v).minstret = h.minstret := rfl
@[simp] theorem Hart.setF_vstart (h : Hart c) (r : BitVec 5) (v : BitVec c.flen) : (h.setF r v).vstart = h.vstart := rfl
@[simp] theorem Hart.setF_vl (h : Hart c) (r : BitVec 5) (v : BitVec c.flen) : (h.setF r v).vl = h.vl := rfl
@[simp] theorem Hart.setF_vtype (h : Hart c) (r : BitVec 5) (v : BitVec c.flen) : (h.setF r v).vtype = h.vtype := rfl
@[simp] theorem Hart.setF_vxsat (h : Hart c) (r : BitVec 5) (v : BitVec c.flen) : (h.setF r v).vxsat = h.vxsat := rfl
@[simp] theorem Hart.setF_vxrm (h : Hart c) (r : BitVec 5) (v : BitVec c.flen) : (h.setF r v).vxrm = h.vxrm := rfl
@[simp] theorem Hart.setF_reservation (h : Hart c) (r : BitVec 5) (v : BitVec c.flen) : (h.setF r v).reservation = h.reservation := rfl
@[simp] theorem Hart.setF_waiting (h : Hart c) (r : BitVec 5) (v : BitVec c.flen) : (h.setF r v).waiting = h.waiting := rfl
@[simp] theorem Hart.setF_stale (h : Hart c) (r : BitVec 5) (v : BitVec c.flen) : (h.setF r v).stale = h.stale := rfl
@[simp] theorem Hart.setF_mem (h : Hart c) (r : BitVec 5) (v : BitVec c.flen) : (h.setF r v).mem = h.mem := rfl
@[simp] theorem Hart.setF_lines (h : Hart c) (r : BitVec 5) (v : BitVec c.flen) : (h.setF r v).lines = h.lines := rfl
@[simp] theorem Hart.setF_time (h : Hart c) (r : BitVec 5) (v : BitVec c.flen) : (h.setF r v).time = h.time := rfl
@[simp] theorem Hart.setF_scFail (h : Hart c) (r : BitVec 5) (v : BitVec c.flen) : (h.setF r v).scFail = h.scFail := rfl
@[simp] theorem Hart.setF_samples (h : Hart c) (r : BitVec 5) (v : BitVec c.flen) : (h.setF r v).samples = h.samples := rfl
@[simp] theorem Hart.setF_ioOut (h : Hart c) (r : BitVec 5) (v : BitVec c.flen) : (h.setF r v).ioOut = h.ioOut := rfl
@[simp] theorem Hart.setF_draws (h : Hart c) (r : BitVec 5) (v : BitVec c.flen) : (h.setF r v).draws = h.draws := rfl
@[simp] theorem Hart.setF_mtvecSet (h : Hart c) (r : BitVec 5) (v : BitVec c.flen) : (h.setF r v).mtvecSet = h.mtvecSet := rfl
@[simp] theorem Hart.setF_stvecSet (h : Hart c) (r : BitVec 5) (v : BitVec c.flen) : (h.setF r v).stvecSet = h.stvecSet := rfl
@[simp] theorem Hart.setF_mepcSet (h : Hart c) (r : BitVec 5) (v : BitVec c.flen) : (h.setF r v).mepcSet = h.mepcSet := rfl
@[simp] theorem Hart.setF_sepcSet (h : Hart c) (r : BitVec 5) (v : BitVec c.flen) : (h.setF r v).sepcSet = h.sepcSet := rfl
@[simp] theorem Hart.setF_pcUnspecified (h : Hart c) (r : BitVec 5) (v : BitVec c.flen) : (h.setF r v).pcUnspecified = h.pcUnspecified := rfl

/-! ## Fields after `v[n] <- e` -/

@[simp] theorem Hart.setV_x (h : Hart c) (n : Nat) (e : BitVec c.vlen) : (h.setV n e).x = h.x := rfl
@[simp] theorem Hart.setV_f (h : Hart c) (n : Nat) (e : BitVec c.vlen) : (h.setV n e).f = h.f := rfl
@[simp] theorem Hart.setV_pc (h : Hart c) (n : Nat) (e : BitVec c.vlen) : (h.setV n e).pc = h.pc := rfl
@[simp] theorem Hart.setV_priv (h : Hart c) (n : Nat) (e : BitVec c.vlen) : (h.setV n e).priv = h.priv := rfl
@[simp] theorem Hart.setV_mstatus (h : Hart c) (n : Nat) (e : BitVec c.vlen) : (h.setV n e).mstatus = h.mstatus := rfl
@[simp] theorem Hart.setV_fflags (h : Hart c) (n : Nat) (e : BitVec c.vlen) : (h.setV n e).fflags = h.fflags := rfl
@[simp] theorem Hart.setV_frm (h : Hart c) (n : Nat) (e : BitVec c.vlen) : (h.setV n e).frm = h.frm := rfl
@[simp] theorem Hart.setV_mtvec (h : Hart c) (n : Nat) (e : BitVec c.vlen) : (h.setV n e).mtvec = h.mtvec := rfl
@[simp] theorem Hart.setV_stvec (h : Hart c) (n : Nat) (e : BitVec c.vlen) : (h.setV n e).stvec = h.stvec := rfl
@[simp] theorem Hart.setV_mscratch (h : Hart c) (n : Nat) (e : BitVec c.vlen) : (h.setV n e).mscratch = h.mscratch := rfl
@[simp] theorem Hart.setV_sscratch (h : Hart c) (n : Nat) (e : BitVec c.vlen) : (h.setV n e).sscratch = h.sscratch := rfl
@[simp] theorem Hart.setV_mepc (h : Hart c) (n : Nat) (e : BitVec c.vlen) : (h.setV n e).mepc = h.mepc := rfl
@[simp] theorem Hart.setV_sepc (h : Hart c) (n : Nat) (e : BitVec c.vlen) : (h.setV n e).sepc = h.sepc := rfl
@[simp] theorem Hart.setV_mcause (h : Hart c) (n : Nat) (e : BitVec c.vlen) : (h.setV n e).mcause = h.mcause := rfl
@[simp] theorem Hart.setV_scause (h : Hart c) (n : Nat) (e : BitVec c.vlen) : (h.setV n e).scause = h.scause := rfl
@[simp] theorem Hart.setV_mtval (h : Hart c) (n : Nat) (e : BitVec c.vlen) : (h.setV n e).mtval = h.mtval := rfl
@[simp] theorem Hart.setV_stval (h : Hart c) (n : Nat) (e : BitVec c.vlen) : (h.setV n e).stval = h.stval := rfl
@[simp] theorem Hart.setV_medeleg (h : Hart c) (n : Nat) (e : BitVec c.vlen) : (h.setV n e).medeleg = h.medeleg := rfl
@[simp] theorem Hart.setV_mideleg (h : Hart c) (n : Nat) (e : BitVec c.vlen) : (h.setV n e).mideleg = h.mideleg := rfl
@[simp] theorem Hart.setV_mie (h : Hart c) (n : Nat) (e : BitVec c.vlen) : (h.setV n e).mie = h.mie := rfl
@[simp] theorem Hart.setV_ssip (h : Hart c) (n : Nat) (e : BitVec c.vlen) : (h.setV n e).ssip = h.ssip := rfl
@[simp] theorem Hart.setV_stip (h : Hart c) (n : Nat) (e : BitVec c.vlen) : (h.setV n e).stip = h.stip := rfl
@[simp] theorem Hart.setV_seip (h : Hart c) (n : Nat) (e : BitVec c.vlen) : (h.setV n e).seip = h.seip := rfl
@[simp] theorem Hart.setV_mcounteren (h : Hart c) (n : Nat) (e : BitVec c.vlen) : (h.setV n e).mcounteren = h.mcounteren := rfl
@[simp] theorem Hart.setV_scounteren (h : Hart c) (n : Nat) (e : BitVec c.vlen) : (h.setV n e).scounteren = h.scounteren := rfl
@[simp] theorem Hart.setV_mcycle (h : Hart c) (n : Nat) (e : BitVec c.vlen) : (h.setV n e).mcycle = h.mcycle := rfl
@[simp] theorem Hart.setV_minstret (h : Hart c) (n : Nat) (e : BitVec c.vlen) : (h.setV n e).minstret = h.minstret := rfl
@[simp] theorem Hart.setV_vstart (h : Hart c) (n : Nat) (e : BitVec c.vlen) : (h.setV n e).vstart = h.vstart := rfl
@[simp] theorem Hart.setV_vl (h : Hart c) (n : Nat) (e : BitVec c.vlen) : (h.setV n e).vl = h.vl := rfl
@[simp] theorem Hart.setV_vtype (h : Hart c) (n : Nat) (e : BitVec c.vlen) : (h.setV n e).vtype = h.vtype := rfl
@[simp] theorem Hart.setV_vxsat (h : Hart c) (n : Nat) (e : BitVec c.vlen) : (h.setV n e).vxsat = h.vxsat := rfl
@[simp] theorem Hart.setV_vxrm (h : Hart c) (n : Nat) (e : BitVec c.vlen) : (h.setV n e).vxrm = h.vxrm := rfl
@[simp] theorem Hart.setV_reservation (h : Hart c) (n : Nat) (e : BitVec c.vlen) : (h.setV n e).reservation = h.reservation := rfl
@[simp] theorem Hart.setV_waiting (h : Hart c) (n : Nat) (e : BitVec c.vlen) : (h.setV n e).waiting = h.waiting := rfl
@[simp] theorem Hart.setV_stale (h : Hart c) (n : Nat) (e : BitVec c.vlen) : (h.setV n e).stale = h.stale := rfl
@[simp] theorem Hart.setV_mem (h : Hart c) (n : Nat) (e : BitVec c.vlen) : (h.setV n e).mem = h.mem := rfl
@[simp] theorem Hart.setV_lines (h : Hart c) (n : Nat) (e : BitVec c.vlen) : (h.setV n e).lines = h.lines := rfl
@[simp] theorem Hart.setV_time (h : Hart c) (n : Nat) (e : BitVec c.vlen) : (h.setV n e).time = h.time := rfl
@[simp] theorem Hart.setV_scFail (h : Hart c) (n : Nat) (e : BitVec c.vlen) : (h.setV n e).scFail = h.scFail := rfl
@[simp] theorem Hart.setV_samples (h : Hart c) (n : Nat) (e : BitVec c.vlen) : (h.setV n e).samples = h.samples := rfl
@[simp] theorem Hart.setV_ioOut (h : Hart c) (n : Nat) (e : BitVec c.vlen) : (h.setV n e).ioOut = h.ioOut := rfl
@[simp] theorem Hart.setV_draws (h : Hart c) (n : Nat) (e : BitVec c.vlen) : (h.setV n e).draws = h.draws := rfl
@[simp] theorem Hart.setV_mtvecSet (h : Hart c) (n : Nat) (e : BitVec c.vlen) : (h.setV n e).mtvecSet = h.mtvecSet := rfl
@[simp] theorem Hart.setV_stvecSet (h : Hart c) (n : Nat) (e : BitVec c.vlen) : (h.setV n e).stvecSet = h.stvecSet := rfl
@[simp] theorem Hart.setV_mepcSet (h : Hart c) (n : Nat) (e : BitVec c.vlen) : (h.setV n e).mepcSet = h.mepcSet := rfl
@[simp] theorem Hart.setV_sepcSet (h : Hart c) (n : Nat) (e : BitVec c.vlen) : (h.setV n e).sepcSet = h.sepcSet := rfl
@[simp] theorem Hart.setV_pcUnspecified (h : Hart c) (n : Nat) (e : BitVec c.vlen) : (h.setV n e).pcUnspecified = h.pcUnspecified := rfl

/-! ## Fields after accruing flags -/

@[simp] theorem Hart.setFlags_x (h : Hart c) (fl : BitVec 5) : (h.setFlags fl).x = h.x := by unfold Hart.setFlags; split <;> rfl
@[simp] theorem Hart.setFlags_f (h : Hart c) (fl : BitVec 5) : (h.setFlags fl).f = h.f := by unfold Hart.setFlags; split <;> rfl
@[simp] theorem Hart.setFlags_v (h : Hart c) (fl : BitVec 5) : (h.setFlags fl).v = h.v := by unfold Hart.setFlags; split <;> rfl
@[simp] theorem Hart.setFlags_pc (h : Hart c) (fl : BitVec 5) : (h.setFlags fl).pc = h.pc := by unfold Hart.setFlags; split <;> rfl
@[simp] theorem Hart.setFlags_priv (h : Hart c) (fl : BitVec 5) : (h.setFlags fl).priv = h.priv := by unfold Hart.setFlags; split <;> rfl
@[simp] theorem Hart.setFlags_frm (h : Hart c) (fl : BitVec 5) : (h.setFlags fl).frm = h.frm := by unfold Hart.setFlags; split <;> rfl
@[simp] theorem Hart.setFlags_mtvec (h : Hart c) (fl : BitVec 5) : (h.setFlags fl).mtvec = h.mtvec := by unfold Hart.setFlags; split <;> rfl
@[simp] theorem Hart.setFlags_stvec (h : Hart c) (fl : BitVec 5) : (h.setFlags fl).stvec = h.stvec := by unfold Hart.setFlags; split <;> rfl
@[simp] theorem Hart.setFlags_mscratch (h : Hart c) (fl : BitVec 5) : (h.setFlags fl).mscratch = h.mscratch := by unfold Hart.setFlags; split <;> rfl
@[simp] theorem Hart.setFlags_sscratch (h : Hart c) (fl : BitVec 5) : (h.setFlags fl).sscratch = h.sscratch := by unfold Hart.setFlags; split <;> rfl
@[simp] theorem Hart.setFlags_mepc (h : Hart c) (fl : BitVec 5) : (h.setFlags fl).mepc = h.mepc := by unfold Hart.setFlags; split <;> rfl
@[simp] theorem Hart.setFlags_sepc (h : Hart c) (fl : BitVec 5) : (h.setFlags fl).sepc = h.sepc := by unfold Hart.setFlags; split <;> rfl
@[simp] theorem Hart.setFlags_mcause (h : Hart c) (fl : BitVec 5) : (h.setFlags fl).mcause = h.mcause := by unfold Hart.setFlags; split <;> rfl
@[simp] theorem Hart.setFlags_scause (h : Hart c) (fl : BitVec 5) : (h.setFlags fl).scause = h.scause := by unfold Hart.setFlags; split <;> rfl
@[simp] theorem Hart.setFlags_mtval (h : Hart c) (fl : BitVec 5) : (h.setFlags fl).mtval = h.mtval := by unfold Hart.setFlags; split <;> rfl
@[simp] theorem Hart.setFlags_stval (h : Hart c) (fl : BitVec 5) : (h.setFlags fl).stval = h.stval := by unfold Hart.setFlags; split <;> rfl
@[simp] theorem Hart.setFlags_medeleg (h : Hart c) (fl : BitVec 5) : (h.setFlags fl).medeleg = h.medeleg := by unfold Hart.setFlags; split <;> rfl
@[simp] theorem Hart.setFlags_mideleg (h : Hart c) (fl : BitVec 5) : (h.setFlags fl).mideleg = h.mideleg := by unfold Hart.setFlags; split <;> rfl
@[simp] theorem Hart.setFlags_mie (h : Hart c) (fl : BitVec 5) : (h.setFlags fl).mie = h.mie := by unfold Hart.setFlags; split <;> rfl
@[simp] theorem Hart.setFlags_ssip (h : Hart c) (fl : BitVec 5) : (h.setFlags fl).ssip = h.ssip := by unfold Hart.setFlags; split <;> rfl
@[simp] theorem Hart.setFlags_stip (h : Hart c) (fl : BitVec 5) : (h.setFlags fl).stip = h.stip := by unfold Hart.setFlags; split <;> rfl
@[simp] theorem Hart.setFlags_seip (h : Hart c) (fl : BitVec 5) : (h.setFlags fl).seip = h.seip := by unfold Hart.setFlags; split <;> rfl
@[simp] theorem Hart.setFlags_mcounteren (h : Hart c) (fl : BitVec 5) : (h.setFlags fl).mcounteren = h.mcounteren := by unfold Hart.setFlags; split <;> rfl
@[simp] theorem Hart.setFlags_scounteren (h : Hart c) (fl : BitVec 5) : (h.setFlags fl).scounteren = h.scounteren := by unfold Hart.setFlags; split <;> rfl
@[simp] theorem Hart.setFlags_mcycle (h : Hart c) (fl : BitVec 5) : (h.setFlags fl).mcycle = h.mcycle := by unfold Hart.setFlags; split <;> rfl
@[simp] theorem Hart.setFlags_minstret (h : Hart c) (fl : BitVec 5) : (h.setFlags fl).minstret = h.minstret := by unfold Hart.setFlags; split <;> rfl
@[simp] theorem Hart.setFlags_vstart (h : Hart c) (fl : BitVec 5) : (h.setFlags fl).vstart = h.vstart := by unfold Hart.setFlags; split <;> rfl
@[simp] theorem Hart.setFlags_vl (h : Hart c) (fl : BitVec 5) : (h.setFlags fl).vl = h.vl := by unfold Hart.setFlags; split <;> rfl
@[simp] theorem Hart.setFlags_vtype (h : Hart c) (fl : BitVec 5) : (h.setFlags fl).vtype = h.vtype := by unfold Hart.setFlags; split <;> rfl
@[simp] theorem Hart.setFlags_vxsat (h : Hart c) (fl : BitVec 5) : (h.setFlags fl).vxsat = h.vxsat := by unfold Hart.setFlags; split <;> rfl
@[simp] theorem Hart.setFlags_vxrm (h : Hart c) (fl : BitVec 5) : (h.setFlags fl).vxrm = h.vxrm := by unfold Hart.setFlags; split <;> rfl
@[simp] theorem Hart.setFlags_reservation (h : Hart c) (fl : BitVec 5) : (h.setFlags fl).reservation = h.reservation := by unfold Hart.setFlags; split <;> rfl
@[simp] theorem Hart.setFlags_waiting (h : Hart c) (fl : BitVec 5) : (h.setFlags fl).waiting = h.waiting := by unfold Hart.setFlags; split <;> rfl
@[simp] theorem Hart.setFlags_stale (h : Hart c) (fl : BitVec 5) : (h.setFlags fl).stale = h.stale := by unfold Hart.setFlags; split <;> rfl
@[simp] theorem Hart.setFlags_mem (h : Hart c) (fl : BitVec 5) : (h.setFlags fl).mem = h.mem := by unfold Hart.setFlags; split <;> rfl
@[simp] theorem Hart.setFlags_lines (h : Hart c) (fl : BitVec 5) : (h.setFlags fl).lines = h.lines := by unfold Hart.setFlags; split <;> rfl
@[simp] theorem Hart.setFlags_time (h : Hart c) (fl : BitVec 5) : (h.setFlags fl).time = h.time := by unfold Hart.setFlags; split <;> rfl
@[simp] theorem Hart.setFlags_scFail (h : Hart c) (fl : BitVec 5) : (h.setFlags fl).scFail = h.scFail := by unfold Hart.setFlags; split <;> rfl
@[simp] theorem Hart.setFlags_samples (h : Hart c) (fl : BitVec 5) : (h.setFlags fl).samples = h.samples := by unfold Hart.setFlags; split <;> rfl
@[simp] theorem Hart.setFlags_ioOut (h : Hart c) (fl : BitVec 5) : (h.setFlags fl).ioOut = h.ioOut := by unfold Hart.setFlags; split <;> rfl
@[simp] theorem Hart.setFlags_draws (h : Hart c) (fl : BitVec 5) : (h.setFlags fl).draws = h.draws := by unfold Hart.setFlags; split <;> rfl
@[simp] theorem Hart.setFlags_mtvecSet (h : Hart c) (fl : BitVec 5) : (h.setFlags fl).mtvecSet = h.mtvecSet := by unfold Hart.setFlags; split <;> rfl
@[simp] theorem Hart.setFlags_stvecSet (h : Hart c) (fl : BitVec 5) : (h.setFlags fl).stvecSet = h.stvecSet := by unfold Hart.setFlags; split <;> rfl
@[simp] theorem Hart.setFlags_mepcSet (h : Hart c) (fl : BitVec 5) : (h.setFlags fl).mepcSet = h.mepcSet := by unfold Hart.setFlags; split <;> rfl
@[simp] theorem Hart.setFlags_sepcSet (h : Hart c) (fl : BitVec 5) : (h.setFlags fl).sepcSet = h.sepcSet := by unfold Hart.setFlags; split <;> rfl
@[simp] theorem Hart.setFlags_pcUnspecified (h : Hart c) (fl : BitVec 5) : (h.setFlags fl).pcUnspecified = h.pcUnspecified := by unfold Hart.setFlags; split <;> rfl

/-! ## Fields after mcycle advancing -/

@[simp] theorem Hart.tick_x (h : Hart c) (k : Nat) : (h.tick k).x = h.x := rfl
@[simp] theorem Hart.tick_f (h : Hart c) (k : Nat) : (h.tick k).f = h.f := rfl
@[simp] theorem Hart.tick_v (h : Hart c) (k : Nat) : (h.tick k).v = h.v := rfl
@[simp] theorem Hart.tick_pc (h : Hart c) (k : Nat) : (h.tick k).pc = h.pc := rfl
@[simp] theorem Hart.tick_priv (h : Hart c) (k : Nat) : (h.tick k).priv = h.priv := rfl
@[simp] theorem Hart.tick_mstatus (h : Hart c) (k : Nat) : (h.tick k).mstatus = h.mstatus := rfl
@[simp] theorem Hart.tick_fflags (h : Hart c) (k : Nat) : (h.tick k).fflags = h.fflags := rfl
@[simp] theorem Hart.tick_frm (h : Hart c) (k : Nat) : (h.tick k).frm = h.frm := rfl
@[simp] theorem Hart.tick_mtvec (h : Hart c) (k : Nat) : (h.tick k).mtvec = h.mtvec := rfl
@[simp] theorem Hart.tick_stvec (h : Hart c) (k : Nat) : (h.tick k).stvec = h.stvec := rfl
@[simp] theorem Hart.tick_mscratch (h : Hart c) (k : Nat) : (h.tick k).mscratch = h.mscratch := rfl
@[simp] theorem Hart.tick_sscratch (h : Hart c) (k : Nat) : (h.tick k).sscratch = h.sscratch := rfl
@[simp] theorem Hart.tick_mepc (h : Hart c) (k : Nat) : (h.tick k).mepc = h.mepc := rfl
@[simp] theorem Hart.tick_sepc (h : Hart c) (k : Nat) : (h.tick k).sepc = h.sepc := rfl
@[simp] theorem Hart.tick_mcause (h : Hart c) (k : Nat) : (h.tick k).mcause = h.mcause := rfl
@[simp] theorem Hart.tick_scause (h : Hart c) (k : Nat) : (h.tick k).scause = h.scause := rfl
@[simp] theorem Hart.tick_mtval (h : Hart c) (k : Nat) : (h.tick k).mtval = h.mtval := rfl
@[simp] theorem Hart.tick_stval (h : Hart c) (k : Nat) : (h.tick k).stval = h.stval := rfl
@[simp] theorem Hart.tick_medeleg (h : Hart c) (k : Nat) : (h.tick k).medeleg = h.medeleg := rfl
@[simp] theorem Hart.tick_mideleg (h : Hart c) (k : Nat) : (h.tick k).mideleg = h.mideleg := rfl
@[simp] theorem Hart.tick_mie (h : Hart c) (k : Nat) : (h.tick k).mie = h.mie := rfl
@[simp] theorem Hart.tick_ssip (h : Hart c) (k : Nat) : (h.tick k).ssip = h.ssip := rfl
@[simp] theorem Hart.tick_stip (h : Hart c) (k : Nat) : (h.tick k).stip = h.stip := rfl
@[simp] theorem Hart.tick_seip (h : Hart c) (k : Nat) : (h.tick k).seip = h.seip := rfl
@[simp] theorem Hart.tick_mcounteren (h : Hart c) (k : Nat) : (h.tick k).mcounteren = h.mcounteren := rfl
@[simp] theorem Hart.tick_scounteren (h : Hart c) (k : Nat) : (h.tick k).scounteren = h.scounteren := rfl
@[simp] theorem Hart.tick_minstret (h : Hart c) (k : Nat) : (h.tick k).minstret = h.minstret := rfl
@[simp] theorem Hart.tick_vstart (h : Hart c) (k : Nat) : (h.tick k).vstart = h.vstart := rfl
@[simp] theorem Hart.tick_vl (h : Hart c) (k : Nat) : (h.tick k).vl = h.vl := rfl
@[simp] theorem Hart.tick_vtype (h : Hart c) (k : Nat) : (h.tick k).vtype = h.vtype := rfl
@[simp] theorem Hart.tick_vxsat (h : Hart c) (k : Nat) : (h.tick k).vxsat = h.vxsat := rfl
@[simp] theorem Hart.tick_vxrm (h : Hart c) (k : Nat) : (h.tick k).vxrm = h.vxrm := rfl
@[simp] theorem Hart.tick_reservation (h : Hart c) (k : Nat) : (h.tick k).reservation = h.reservation := rfl
@[simp] theorem Hart.tick_waiting (h : Hart c) (k : Nat) : (h.tick k).waiting = h.waiting := rfl
@[simp] theorem Hart.tick_stale (h : Hart c) (k : Nat) : (h.tick k).stale = h.stale := rfl
@[simp] theorem Hart.tick_mem (h : Hart c) (k : Nat) : (h.tick k).mem = h.mem := rfl
@[simp] theorem Hart.tick_lines (h : Hart c) (k : Nat) : (h.tick k).lines = h.lines := rfl
@[simp] theorem Hart.tick_time (h : Hart c) (k : Nat) : (h.tick k).time = h.time := rfl
@[simp] theorem Hart.tick_scFail (h : Hart c) (k : Nat) : (h.tick k).scFail = h.scFail := rfl
@[simp] theorem Hart.tick_samples (h : Hart c) (k : Nat) : (h.tick k).samples = h.samples := rfl
@[simp] theorem Hart.tick_ioOut (h : Hart c) (k : Nat) : (h.tick k).ioOut = h.ioOut := rfl
@[simp] theorem Hart.tick_mtvecSet (h : Hart c) (k : Nat) : (h.tick k).mtvecSet = h.mtvecSet := rfl
@[simp] theorem Hart.tick_stvecSet (h : Hart c) (k : Nat) : (h.tick k).stvecSet = h.stvecSet := rfl
@[simp] theorem Hart.tick_mepcSet (h : Hart c) (k : Nat) : (h.tick k).mepcSet = h.mepcSet := rfl
@[simp] theorem Hart.tick_sepcSet (h : Hart c) (k : Nat) : (h.tick k).sepcSet = h.sepcSet := rfl
@[simp] theorem Hart.tick_pcUnspecified (h : Hart c) (k : Nat) : (h.tick k).pcUnspecified = h.pcUnspecified := rfl

/-! ## Fields after a memory read -/

@[simp] theorem Hart.afterRead_x (h : Hart c) (a : BitVec c.xlen) (n : Nat) : (h.afterRead a n).x = h.x := by unfold Hart.afterRead; split <;> rfl
@[simp] theorem Hart.afterRead_f (h : Hart c) (a : BitVec c.xlen) (n : Nat) : (h.afterRead a n).f = h.f := by unfold Hart.afterRead; split <;> rfl
@[simp] theorem Hart.afterRead_v (h : Hart c) (a : BitVec c.xlen) (n : Nat) : (h.afterRead a n).v = h.v := by unfold Hart.afterRead; split <;> rfl
@[simp] theorem Hart.afterRead_pc (h : Hart c) (a : BitVec c.xlen) (n : Nat) : (h.afterRead a n).pc = h.pc := by unfold Hart.afterRead; split <;> rfl
@[simp] theorem Hart.afterRead_priv (h : Hart c) (a : BitVec c.xlen) (n : Nat) : (h.afterRead a n).priv = h.priv := by unfold Hart.afterRead; split <;> rfl
@[simp] theorem Hart.afterRead_mstatus (h : Hart c) (a : BitVec c.xlen) (n : Nat) : (h.afterRead a n).mstatus = h.mstatus := by unfold Hart.afterRead; split <;> rfl
@[simp] theorem Hart.afterRead_fflags (h : Hart c) (a : BitVec c.xlen) (n : Nat) : (h.afterRead a n).fflags = h.fflags := by unfold Hart.afterRead; split <;> rfl
@[simp] theorem Hart.afterRead_frm (h : Hart c) (a : BitVec c.xlen) (n : Nat) : (h.afterRead a n).frm = h.frm := by unfold Hart.afterRead; split <;> rfl
@[simp] theorem Hart.afterRead_mtvec (h : Hart c) (a : BitVec c.xlen) (n : Nat) : (h.afterRead a n).mtvec = h.mtvec := by unfold Hart.afterRead; split <;> rfl
@[simp] theorem Hart.afterRead_stvec (h : Hart c) (a : BitVec c.xlen) (n : Nat) : (h.afterRead a n).stvec = h.stvec := by unfold Hart.afterRead; split <;> rfl
@[simp] theorem Hart.afterRead_mscratch (h : Hart c) (a : BitVec c.xlen) (n : Nat) : (h.afterRead a n).mscratch = h.mscratch := by unfold Hart.afterRead; split <;> rfl
@[simp] theorem Hart.afterRead_sscratch (h : Hart c) (a : BitVec c.xlen) (n : Nat) : (h.afterRead a n).sscratch = h.sscratch := by unfold Hart.afterRead; split <;> rfl
@[simp] theorem Hart.afterRead_mepc (h : Hart c) (a : BitVec c.xlen) (n : Nat) : (h.afterRead a n).mepc = h.mepc := by unfold Hart.afterRead; split <;> rfl
@[simp] theorem Hart.afterRead_sepc (h : Hart c) (a : BitVec c.xlen) (n : Nat) : (h.afterRead a n).sepc = h.sepc := by unfold Hart.afterRead; split <;> rfl
@[simp] theorem Hart.afterRead_mcause (h : Hart c) (a : BitVec c.xlen) (n : Nat) : (h.afterRead a n).mcause = h.mcause := by unfold Hart.afterRead; split <;> rfl
@[simp] theorem Hart.afterRead_scause (h : Hart c) (a : BitVec c.xlen) (n : Nat) : (h.afterRead a n).scause = h.scause := by unfold Hart.afterRead; split <;> rfl
@[simp] theorem Hart.afterRead_mtval (h : Hart c) (a : BitVec c.xlen) (n : Nat) : (h.afterRead a n).mtval = h.mtval := by unfold Hart.afterRead; split <;> rfl
@[simp] theorem Hart.afterRead_stval (h : Hart c) (a : BitVec c.xlen) (n : Nat) : (h.afterRead a n).stval = h.stval := by unfold Hart.afterRead; split <;> rfl
@[simp] theorem Hart.afterRead_medeleg (h : Hart c) (a : BitVec c.xlen) (n : Nat) : (h.afterRead a n).medeleg = h.medeleg := by unfold Hart.afterRead; split <;> rfl
@[simp] theorem Hart.afterRead_mideleg (h : Hart c) (a : BitVec c.xlen) (n : Nat) : (h.afterRead a n).mideleg = h.mideleg := by unfold Hart.afterRead; split <;> rfl
@[simp] theorem Hart.afterRead_mie (h : Hart c) (a : BitVec c.xlen) (n : Nat) : (h.afterRead a n).mie = h.mie := by unfold Hart.afterRead; split <;> rfl
@[simp] theorem Hart.afterRead_ssip (h : Hart c) (a : BitVec c.xlen) (n : Nat) : (h.afterRead a n).ssip = h.ssip := by unfold Hart.afterRead; split <;> rfl
@[simp] theorem Hart.afterRead_stip (h : Hart c) (a : BitVec c.xlen) (n : Nat) : (h.afterRead a n).stip = h.stip := by unfold Hart.afterRead; split <;> rfl
@[simp] theorem Hart.afterRead_seip (h : Hart c) (a : BitVec c.xlen) (n : Nat) : (h.afterRead a n).seip = h.seip := by unfold Hart.afterRead; split <;> rfl
@[simp] theorem Hart.afterRead_mcounteren (h : Hart c) (a : BitVec c.xlen) (n : Nat) : (h.afterRead a n).mcounteren = h.mcounteren := by unfold Hart.afterRead; split <;> rfl
@[simp] theorem Hart.afterRead_scounteren (h : Hart c) (a : BitVec c.xlen) (n : Nat) : (h.afterRead a n).scounteren = h.scounteren := by unfold Hart.afterRead; split <;> rfl
@[simp] theorem Hart.afterRead_mcycle (h : Hart c) (a : BitVec c.xlen) (n : Nat) : (h.afterRead a n).mcycle = h.mcycle := by unfold Hart.afterRead; split <;> rfl
@[simp] theorem Hart.afterRead_minstret (h : Hart c) (a : BitVec c.xlen) (n : Nat) : (h.afterRead a n).minstret = h.minstret := by unfold Hart.afterRead; split <;> rfl
@[simp] theorem Hart.afterRead_vstart (h : Hart c) (a : BitVec c.xlen) (n : Nat) : (h.afterRead a n).vstart = h.vstart := by unfold Hart.afterRead; split <;> rfl
@[simp] theorem Hart.afterRead_vl (h : Hart c) (a : BitVec c.xlen) (n : Nat) : (h.afterRead a n).vl = h.vl := by unfold Hart.afterRead; split <;> rfl
@[simp] theorem Hart.afterRead_vtype (h : Hart c) (a : BitVec c.xlen) (n : Nat) : (h.afterRead a n).vtype = h.vtype := by unfold Hart.afterRead; split <;> rfl
@[simp] theorem Hart.afterRead_vxsat (h : Hart c) (a : BitVec c.xlen) (n : Nat) : (h.afterRead a n).vxsat = h.vxsat := by unfold Hart.afterRead; split <;> rfl
@[simp] theorem Hart.afterRead_vxrm (h : Hart c) (a : BitVec c.xlen) (n : Nat) : (h.afterRead a n).vxrm = h.vxrm := by unfold Hart.afterRead; split <;> rfl
@[simp] theorem Hart.afterRead_reservation (h : Hart c) (a : BitVec c.xlen) (n : Nat) : (h.afterRead a n).reservation = h.reservation := by unfold Hart.afterRead; split <;> rfl
@[simp] theorem Hart.afterRead_waiting (h : Hart c) (a : BitVec c.xlen) (n : Nat) : (h.afterRead a n).waiting = h.waiting := by unfold Hart.afterRead; split <;> rfl
@[simp] theorem Hart.afterRead_stale (h : Hart c) (a : BitVec c.xlen) (n : Nat) : (h.afterRead a n).stale = h.stale := by unfold Hart.afterRead; split <;> rfl
@[simp] theorem Hart.afterRead_mem (h : Hart c) (a : BitVec c.xlen) (n : Nat) : (h.afterRead a n).mem = h.mem := by unfold Hart.afterRead; split <;> rfl
@[simp] theorem Hart.afterRead_lines (h : Hart c) (a : BitVec c.xlen) (n : Nat) : (h.afterRead a n).lines = h.lines := by unfold Hart.afterRead; split <;> rfl
@[simp] theorem Hart.afterRead_time (h : Hart c) (a : BitVec c.xlen) (n : Nat) : (h.afterRead a n).time = h.time := by unfold Hart.afterRead; split <;> rfl
@[simp] theorem Hart.afterRead_scFail (h : Hart c) (a : BitVec c.xlen) (n : Nat) : (h.afterRead a n).scFail = h.scFail := by unfold Hart.afterRead; split <;> rfl
@[simp] theorem Hart.afterRead_samples (h : Hart c) (a : BitVec c.xlen) (n : Nat) : (h.afterRead a n).samples = h.samples := by unfold Hart.afterRead; split <;> rfl
@[simp] theorem Hart.afterRead_mtvecSet (h : Hart c) (a : BitVec c.xlen) (n : Nat) : (h.afterRead a n).mtvecSet = h.mtvecSet := by unfold Hart.afterRead; split <;> rfl
@[simp] theorem Hart.afterRead_stvecSet (h : Hart c) (a : BitVec c.xlen) (n : Nat) : (h.afterRead a n).stvecSet = h.stvecSet := by unfold Hart.afterRead; split <;> rfl
@[simp] theorem Hart.afterRead_mepcSet (h : Hart c) (a : BitVec c.xlen) (n : Nat) : (h.afterRead a n).mepcSet = h.mepcSet := by unfold Hart.afterRead; split <;> rfl
@[simp] theorem Hart.afterRead_sepcSet (h : Hart c) (a : BitVec c.xlen) (n : Nat) : (h.afterRead a n).sepcSet = h.sepcSet := by unfold Hart.afterRead; split <;> rfl
@[simp] theorem Hart.afterRead_pcUnspecified (h : Hart c) (a : BitVec c.xlen) (n : Nat) : (h.afterRead a n).pcUnspecified = h.pcUnspecified := by unfold Hart.afterRead; split <;> rfl

/-! ## Fields after a memory write -/

@[simp] theorem Hart.writeMem_x (h : Hart c) (a : BitVec c.xlen) (n : Nat) (v : BitVec 64) : (h.writeMem a n v).x = h.x := by unfold Hart.writeMem; split <;> rfl
@[simp] theorem Hart.writeMem_f (h : Hart c) (a : BitVec c.xlen) (n : Nat) (v : BitVec 64) : (h.writeMem a n v).f = h.f := by unfold Hart.writeMem; split <;> rfl
@[simp] theorem Hart.writeMem_v (h : Hart c) (a : BitVec c.xlen) (n : Nat) (v : BitVec 64) : (h.writeMem a n v).v = h.v := by unfold Hart.writeMem; split <;> rfl
@[simp] theorem Hart.writeMem_pc (h : Hart c) (a : BitVec c.xlen) (n : Nat) (v : BitVec 64) : (h.writeMem a n v).pc = h.pc := by unfold Hart.writeMem; split <;> rfl
@[simp] theorem Hart.writeMem_priv (h : Hart c) (a : BitVec c.xlen) (n : Nat) (v : BitVec 64) : (h.writeMem a n v).priv = h.priv := by unfold Hart.writeMem; split <;> rfl
@[simp] theorem Hart.writeMem_mstatus (h : Hart c) (a : BitVec c.xlen) (n : Nat) (v : BitVec 64) : (h.writeMem a n v).mstatus = h.mstatus := by unfold Hart.writeMem; split <;> rfl
@[simp] theorem Hart.writeMem_fflags (h : Hart c) (a : BitVec c.xlen) (n : Nat) (v : BitVec 64) : (h.writeMem a n v).fflags = h.fflags := by unfold Hart.writeMem; split <;> rfl
@[simp] theorem Hart.writeMem_frm (h : Hart c) (a : BitVec c.xlen) (n : Nat) (v : BitVec 64) : (h.writeMem a n v).frm = h.frm := by unfold Hart.writeMem; split <;> rfl
@[simp] theorem Hart.writeMem_mtvec (h : Hart c) (a : BitVec c.xlen) (n : Nat) (v : BitVec 64) : (h.writeMem a n v).mtvec = h.mtvec := by unfold Hart.writeMem; split <;> rfl
@[simp] theorem Hart.writeMem_stvec (h : Hart c) (a : BitVec c.xlen) (n : Nat) (v : BitVec 64) : (h.writeMem a n v).stvec = h.stvec := by unfold Hart.writeMem; split <;> rfl
@[simp] theorem Hart.writeMem_mscratch (h : Hart c) (a : BitVec c.xlen) (n : Nat) (v : BitVec 64) : (h.writeMem a n v).mscratch = h.mscratch := by unfold Hart.writeMem; split <;> rfl
@[simp] theorem Hart.writeMem_sscratch (h : Hart c) (a : BitVec c.xlen) (n : Nat) (v : BitVec 64) : (h.writeMem a n v).sscratch = h.sscratch := by unfold Hart.writeMem; split <;> rfl
@[simp] theorem Hart.writeMem_mepc (h : Hart c) (a : BitVec c.xlen) (n : Nat) (v : BitVec 64) : (h.writeMem a n v).mepc = h.mepc := by unfold Hart.writeMem; split <;> rfl
@[simp] theorem Hart.writeMem_sepc (h : Hart c) (a : BitVec c.xlen) (n : Nat) (v : BitVec 64) : (h.writeMem a n v).sepc = h.sepc := by unfold Hart.writeMem; split <;> rfl
@[simp] theorem Hart.writeMem_mcause (h : Hart c) (a : BitVec c.xlen) (n : Nat) (v : BitVec 64) : (h.writeMem a n v).mcause = h.mcause := by unfold Hart.writeMem; split <;> rfl
@[simp] theorem Hart.writeMem_scause (h : Hart c) (a : BitVec c.xlen) (n : Nat) (v : BitVec 64) : (h.writeMem a n v).scause = h.scause := by unfold Hart.writeMem; split <;> rfl
@[simp] theorem Hart.writeMem_mtval (h : Hart c) (a : BitVec c.xlen) (n : Nat) (v : BitVec 64) : (h.writeMem a n v).mtval = h.mtval := by unfold Hart.writeMem; split <;> rfl
@[simp] theorem Hart.writeMem_stval (h : Hart c) (a : BitVec c.xlen) (n : Nat) (v : BitVec 64) : (h.writeMem a n v).stval = h.stval := by unfold Hart.writeMem; split <;> rfl
@[simp] theorem Hart.writeMem_medeleg (h : Hart c) (a : BitVec c.xlen) (n : Nat) (v : BitVec 64) : (h.writeMem a n v).medeleg = h.medeleg := by unfold Hart.writeMem; split <;> rfl
@[simp] theorem Hart.writeMem_mideleg (h : Hart c) (a : BitVec c.xlen) (n : Nat) (v : BitVec 64) : (h.writeMem a n v).mideleg = h.mideleg := by unfold Hart.writeMem; split <;> rfl
@[simp] theorem Hart.writeMem_mie (h : Hart c) (a : BitVec c.xlen) (n : Nat) (v : BitVec 64) : (h.writeMem a n v).mie = h.mie := by unfold Hart.writeMem; split <;> rfl
@[simp] theorem Hart.writeMem_ssip (h : Hart c) (a : BitVec c.xlen) (n : Nat) (v : BitVec 64) : (h.writeMem a n v).ssip = h.ssip := by unfold Hart.writeMem; split <;> rfl
@[simp] theorem Hart.writeMem_stip (h : Hart c) (a : BitVec c.xlen) (n : Nat) (v : BitVec 64) : (h.writeMem a n v).stip = h.stip := by unfold Hart.writeMem; split <;> rfl
@[simp] theorem Hart.writeMem_seip (h : Hart c) (a : BitVec c.xlen) (n : Nat) (v : BitVec 64) : (h.writeMem a n v).seip = h.seip := by unfold Hart.writeMem; split <;> rfl
@[simp] theorem Hart.writeMem_mcounteren (h : Hart c) (a : BitVec c.xlen) (n : Nat) (v : BitVec 64) : (h.writeMem a n v).mcounteren = h.mcounteren := by unfold Hart.writeMem; split <;> rfl
@[simp] theorem Hart.writeMem_scounteren (h : Hart c) (a : BitVec c.xlen) (n : Nat) (v : BitVec 64) : (h.writeMem a n v).scounteren = h.scounteren := by unfold Hart.writeMem; split <;> rfl
@[simp] theorem Hart.writeMem_mcycle (h : Hart c) (a : BitVec c.xlen) (n : Nat) (v : BitVec 64) : (h.writeMem a n v).mcycle = h.mcycle := by unfold Hart.writeMem; split <;> rfl
@[simp] theorem Hart.writeMem_minstret (h : Hart c) (a : BitVec c.xlen) (n : Nat) (v : BitVec 64) : (h.writeMem a n v).minstret = h.minstret := by unfold Hart.writeMem; split <;> rfl
@[simp] theorem Hart.writeMem_vstart (h : Hart c) (a : BitVec c.xlen) (n : Nat) (v : BitVec 64) : (h.writeMem a n v).vstart = h.vstart := by unfold Hart.writeMem; split <;> rfl
@[simp] theorem Hart.writeMem_vl (h : Hart c) (a : BitVec c.xlen) (n : Nat) (v : BitVec 64) : (h.writeMem a n v).vl = h.vl := by unfold Hart.writeMem; split <;> rfl
@[simp] theorem Hart.writeMem_vtype (h : Hart c) (a : BitVec c.xlen) (n : Nat) (v : BitVec 64) : (h.writeMem a n v).vtype = h.vtype := by unfold Hart.writeMem; split <;> rfl
@[simp] theorem Hart.writeMem_vxsat (h : Hart c) (a : BitVec c.xlen) (n : Nat) (v : BitVec 64) : (h.writeMem a n v).vxsat = h.vxsat := by unfold Hart.writeMem; split <;> rfl
@[simp] theorem Hart.writeMem_vxrm (h : Hart c) (a : BitVec c.xlen) (n : Nat) (v : BitVec 64) : (h.writeMem a n v).vxrm = h.vxrm := by unfold Hart.writeMem; split <;> rfl
@[simp] theorem Hart.writeMem_reservation (h : Hart c) (a : BitVec c.xlen) (n : Nat) (v : BitVec 64) : (h.writeMem a n v).reservation = h.reservation := by unfold Hart.writeMem; split <;> rfl
@[simp] theorem Hart.writeMem_waiting (h : Hart c) (a : BitVec c.xlen) (n : Nat) (v : BitVec 64) : (h.writeMem a n v).waiting = h.waiting := by unfold Hart.writeMem; split <;> rfl
@[simp] theorem Hart.writeMem_lines (h : Hart c) (a : BitVec c.xlen) (n : Nat) (v : BitVec 64) : (h.writeMem a n v).lines = h.lines := by unfold Hart.writeMem; split <;> rfl
@[simp] theorem Hart.writeMem_time (h : Hart c) (a : BitVec c.xlen) (n : Nat) (v : BitVec 64) : (h.writeMem a n v).time = h.time := by unfold Hart.writeMem; split <;> rfl
@[simp] theorem Hart.writeMem_scFail (h : Hart c) (a : BitVec c.xlen) (n : Nat) (v : BitVec 64) : (h.writeMem a n v).scFail = h.scFail := by unfold Hart.writeMem; split <;> rfl
@[simp] theorem Hart.writeMem_samples (h : Hart c) (a : BitVec c.xlen) (n : Nat) (v : BitVec 64) : (h.writeMem a n v).samples = h.samples := by unfold Hart.writeMem; split <;> rfl
@[simp] theorem Hart.writeMem_draws (h : Hart c) (a : BitVec c.xlen) (n : Nat) (v : BitVec 64) : (h.writeMem a n v).draws = h.draws := by unfold Hart.writeMem; split <;> rfl
@[simp] theorem Hart.writeMem_mtvecSet (h : Hart c) (a : BitVec c.xlen) (n : Nat) (v : BitVec 64) : (h.writeMem a n v).mtvecSet = h.mtvecSet := by unfold Hart.writeMem; split <;> rfl
@[simp] theorem Hart.writeMem_stvecSet (h : Hart c) (a : BitVec c.xlen) (n : Nat) (v : BitVec 64) : (h.writeMem a n v).stvecSet = h.stvecSet := by unfold Hart.writeMem; split <;> rfl
@[simp] theorem Hart.writeMem_mepcSet (h : Hart c) (a : BitVec c.xlen) (n : Nat) (v : BitVec 64) : (h.writeMem a n v).mepcSet = h.mepcSet := by unfold Hart.writeMem; split <;> rfl
@[simp] theorem Hart.writeMem_sepcSet (h : Hart c) (a : BitVec c.xlen) (n : Nat) (v : BitVec 64) : (h.writeMem a n v).sepcSet = h.sepcSet := by unfold Hart.writeMem; split <;> rfl
@[simp] theorem Hart.writeMem_pcUnspecified (h : Hart c) (a : BitVec c.xlen) (n : Nat) (v : BitVec 64) : (h.writeMem a n v).pcUnspecified = h.pcUnspecified := by unfold Hart.writeMem; split <;> rfl

/-! ## Fields after sampling the inputs -/

@[simp] theorem Hart.sample_x (h : Hart c) : (h.sample).x = h.x := by unfold Hart.sample; split <;> rfl
@[simp] theorem Hart.sample_f (h : Hart c) : (h.sample).f = h.f := by unfold Hart.sample; split <;> rfl
@[simp] theorem Hart.sample_v (h : Hart c) : (h.sample).v = h.v := by unfold Hart.sample; split <;> rfl
@[simp] theorem Hart.sample_pc (h : Hart c) : (h.sample).pc = h.pc := by unfold Hart.sample; split <;> rfl
@[simp] theorem Hart.sample_priv (h : Hart c) : (h.sample).priv = h.priv := by unfold Hart.sample; split <;> rfl
@[simp] theorem Hart.sample_mstatus (h : Hart c) : (h.sample).mstatus = h.mstatus := by unfold Hart.sample; split <;> rfl
@[simp] theorem Hart.sample_fflags (h : Hart c) : (h.sample).fflags = h.fflags := by unfold Hart.sample; split <;> rfl
@[simp] theorem Hart.sample_frm (h : Hart c) : (h.sample).frm = h.frm := by unfold Hart.sample; split <;> rfl
@[simp] theorem Hart.sample_mtvec (h : Hart c) : (h.sample).mtvec = h.mtvec := by unfold Hart.sample; split <;> rfl
@[simp] theorem Hart.sample_stvec (h : Hart c) : (h.sample).stvec = h.stvec := by unfold Hart.sample; split <;> rfl
@[simp] theorem Hart.sample_mscratch (h : Hart c) : (h.sample).mscratch = h.mscratch := by unfold Hart.sample; split <;> rfl
@[simp] theorem Hart.sample_sscratch (h : Hart c) : (h.sample).sscratch = h.sscratch := by unfold Hart.sample; split <;> rfl
@[simp] theorem Hart.sample_mepc (h : Hart c) : (h.sample).mepc = h.mepc := by unfold Hart.sample; split <;> rfl
@[simp] theorem Hart.sample_sepc (h : Hart c) : (h.sample).sepc = h.sepc := by unfold Hart.sample; split <;> rfl
@[simp] theorem Hart.sample_mcause (h : Hart c) : (h.sample).mcause = h.mcause := by unfold Hart.sample; split <;> rfl
@[simp] theorem Hart.sample_scause (h : Hart c) : (h.sample).scause = h.scause := by unfold Hart.sample; split <;> rfl
@[simp] theorem Hart.sample_mtval (h : Hart c) : (h.sample).mtval = h.mtval := by unfold Hart.sample; split <;> rfl
@[simp] theorem Hart.sample_stval (h : Hart c) : (h.sample).stval = h.stval := by unfold Hart.sample; split <;> rfl
@[simp] theorem Hart.sample_medeleg (h : Hart c) : (h.sample).medeleg = h.medeleg := by unfold Hart.sample; split <;> rfl
@[simp] theorem Hart.sample_mideleg (h : Hart c) : (h.sample).mideleg = h.mideleg := by unfold Hart.sample; split <;> rfl
@[simp] theorem Hart.sample_mie (h : Hart c) : (h.sample).mie = h.mie := by unfold Hart.sample; split <;> rfl
@[simp] theorem Hart.sample_ssip (h : Hart c) : (h.sample).ssip = h.ssip := by unfold Hart.sample; split <;> rfl
@[simp] theorem Hart.sample_stip (h : Hart c) : (h.sample).stip = h.stip := by unfold Hart.sample; split <;> rfl
@[simp] theorem Hart.sample_seip (h : Hart c) : (h.sample).seip = h.seip := by unfold Hart.sample; split <;> rfl
@[simp] theorem Hart.sample_mcounteren (h : Hart c) : (h.sample).mcounteren = h.mcounteren := by unfold Hart.sample; split <;> rfl
@[simp] theorem Hart.sample_scounteren (h : Hart c) : (h.sample).scounteren = h.scounteren := by unfold Hart.sample; split <;> rfl
@[simp] theorem Hart.sample_mcycle (h : Hart c) : (h.sample).mcycle = h.mcycle := by unfold Hart.sample; split <;> rfl
@[simp] theorem Hart.sample_minstret (h : Hart c) : (h.sample).minstret = h.minstret := by unfold Hart.sample; split <;> rfl
@[simp] theorem Hart.sample_vstart (h : Hart c) : (h.sample).vstart = h.vstart := by unfold Hart.sample; split <;> rfl
@[simp] theorem Hart.sample_vl (h : Hart c) : (h.sample).vl = h.vl := by unfold Hart.sample; split <;> rfl
@[simp] theorem Hart.sample_vtype (h : Hart c) : (h.sample).vtype = h.vtype := by unfold Hart.sample; split <;> rfl
@[simp] theorem Hart.sample_vxsat (h : Hart c) : (h.sample).vxsat = h.vxsat := by unfold Hart.sample; split <;> rfl
@[simp] theorem Hart.sample_vxrm (h : Hart c) : (h.sample).vxrm = h.vxrm := by unfold Hart.sample; split <;> rfl
@[simp] theorem Hart.sample_reservation (h : Hart c) : (h.sample).reservation = h.reservation := by unfold Hart.sample; split <;> rfl
@[simp] theorem Hart.sample_waiting (h : Hart c) : (h.sample).waiting = h.waiting := by unfold Hart.sample; split <;> rfl
@[simp] theorem Hart.sample_stale (h : Hart c) : (h.sample).stale = h.stale := by unfold Hart.sample; split <;> rfl
@[simp] theorem Hart.sample_mem (h : Hart c) : (h.sample).mem = h.mem := by unfold Hart.sample; split <;> rfl
@[simp] theorem Hart.sample_ioOut (h : Hart c) : (h.sample).ioOut = h.ioOut := by unfold Hart.sample; split <;> rfl
@[simp] theorem Hart.sample_draws (h : Hart c) : (h.sample).draws = h.draws := by unfold Hart.sample; split <;> rfl
@[simp] theorem Hart.sample_mtvecSet (h : Hart c) : (h.sample).mtvecSet = h.mtvecSet := by unfold Hart.sample; split <;> rfl
@[simp] theorem Hart.sample_stvecSet (h : Hart c) : (h.sample).stvecSet = h.stvecSet := by unfold Hart.sample; split <;> rfl
@[simp] theorem Hart.sample_mepcSet (h : Hart c) : (h.sample).mepcSet = h.mepcSet := by unfold Hart.sample; split <;> rfl
@[simp] theorem Hart.sample_sepcSet (h : Hart c) : (h.sample).sepcSet = h.sepcSet := by unfold Hart.sample; split <;> rfl
@[simp] theorem Hart.sample_pcUnspecified (h : Hart c) : (h.sample).pcUnspecified = h.pcUnspecified := by unfold Hart.sample; split <;> rfl

/-! ## Registers -/

@[simp] theorem Hart.getX_zero (h : Hart c) : h.getX 0 = 0 := rfl

theorem Hart.getX_of_ne {r : BitVec 5} (hr : r ≠ 0) (h : Hart c) : h.getX r = h.x[r.toNat]'(r.isLt) := if_neg hr

theorem Hart.setX_zero (h : Hart c) (v : BitVec c.xlen) : h.setX 0 v = h := rfl

theorem Hart.getX_congr {h t : Hart c} (hx : t.x = h.x) (r : BitVec 5) : t.getX r = h.getX r := by
  unfold Hart.getX; rw [hx]

/-- Reading back the register written: x0 stays zero. -/
theorem Hart.getX_setX_same (h : Hart c) (r : BitVec 5) (v : BitVec c.xlen) :
    (h.setX r v).getX r = if r = 0 then 0 else v := by
  unfold Hart.getX Hart.setX
  split <;> simp_all

/-- Writing a register leaves the others. -/
theorem Hart.getX_setX_of_ne (h : Hart c) {r q : BitVec 5} (hq : q ≠ r) (v : BitVec c.xlen) :
    (h.setX r v).getX q = h.getX q := by
  have : r.toNat ≠ q.toNat := fun e => hq (BitVec.eq_of_toNat_eq e.symm)
  unfold Hart.getX Hart.setX
  split
  · rfl
  · split <;> simp [this]

theorem Hart.getX_setX (h : Hart c) (r q : BitVec 5) (v : BitVec c.xlen) :
    (h.setX r v).getX q = if q = 0 then 0 else if q = r then v else h.getX q := by
  by_cases hq : q = r
  · subst hq; rw [h.getX_setX_same]; simp
  · rw [h.getX_setX_of_ne hq]; split
    · next h0 => subst h0; rfl
    · simp

@[simp] theorem Hart.getF_setF_same (h : Hart c) (r : BitVec 5) (v : BitVec c.flen) : (h.setF r v).getF r = v := by
  simp [Hart.getF, Hart.setF]

theorem Hart.getF_setF_of_ne (h : Hart c) {r q : BitVec 5} (hq : q ≠ r) (v : BitVec c.flen) :
    (h.setF r v).getF q = h.getF q := by
  have : r.toNat ≠ q.toNat := fun e => hq (BitVec.eq_of_toNat_eq e.symm)
  simp [Hart.getF, Hart.setF, this]

/-- A write of an f register makes mstatus.FS Dirty (R53). -/
@[simp] theorem Hart.setF_mstatus (h : Hart c) (r : BitVec 5) (v : BitVec c.flen) :
    (h.setF r v).mstatus = { h.mstatus with fs := 3 } := rfl

@[simp] theorem Hart.setFlags_fflags (h : Hart c) (fl : BitVec 5) : (h.setFlags fl).fflags = h.fflags ||| fl := by
  unfold Hart.setFlags
  split <;> simp_all

theorem Hart.setFlags_mstatus (h : Hart c) (fl : BitVec 5) :
    (h.setFlags fl).mstatus = if fl = 0 then h.mstatus else { h.mstatus with fs := 3 } := by
  unfold Hart.setFlags
  split <;> rfl

theorem Hart.getV_setV_same (h : Hart c) {n : Nat} (hn : n < 32) (e : BitVec c.vlen) : (h.setV n e).getV n = e := by
  simp [Hart.getV, Hart.setV, hn]

theorem Hart.getV_setV_of_ne (h : Hart c) {n k : Nat} (hk : k ≠ n) (e : BitVec c.vlen) :
    (h.setV n e).getV k = h.getV k := by
  simp [Hart.getV, Hart.setV, hk.symm]

/-! ## Counters -/

@[simp] theorem Hart.tick_mcycle (h : Hart c) (k : Nat) :
    (h.tick k).mcycle = cyclesAfter h.mcycle (k + Config.cycles h.draws) := rfl

/-- What an advance makes of mcycle, as a number. -/
theorem cyclesAfter_toNat (old : BitVec 64) (n : Nat) : (cyclesAfter old n).toNat = min (old.toNat + n) (2 ^ 64 - 1) := by
  unfold cyclesAfter
  rw [BitVec.toNat_ofNat, Nat.mod_eq_of_lt]
  omega

/-- mcycle never decreases by itself (R740). -/
theorem Hart.mcycle_le_tick (h : Hart c) (k : Nat) : h.mcycle.toNat ≤ (h.tick k).mcycle.toNat := by
  rw [h.tick_mcycle, cyclesAfter_toNat]
  have := h.mcycle.isLt
  omega

/-- An advance by at least 1 increases mcycle, unless it is at its greatest value. -/
theorem Hart.mcycle_lt_tick (h : Hart c) {k : Nat} (hk : 0 < k) :
    h.mcycle.toNat < (h.tick k).mcycle.toNat ∨ (h.tick k).mcycle = BitVec.allOnes 64 := by
  rw [← BitVec.toNat_inj, h.tick_mcycle, cyclesAfter_toNat, BitVec.toNat_allOnes]
  omega

@[simp] theorem Hart.tick_draws (h : Hart c) (k : Nat) : (h.tick k).draws = h.draws + 1 := rfl

end Sys2Proof.Machine
end

