-- ==== Sys2Proof/Laws/Memory.lean ====
section
/-! SUPPORT. The laws of memory and of stale_code: a read after a write, and that every memory operation keeps the
canonical form. -/

namespace Sys2Proof.Machine

open Sys2Proof

variable {c : Config}

/-! ## The canonical form, as a proposition -/

/-- Every listed address lies above a. -/
def Memory.Above (a : Nat) (m : List Host.Cell) : Prop := ∀ p ∈ m, a < p.1

theorem Memory.wf_iff (m : List Host.Cell) :
    Memory.wf m = true ↔ (m.Pairwise fun p q => p.1 < q.1) ∧ ∀ p ∈ m, p.2 ≠ Memory.absent := by
  simp [Memory.wf]

theorem Memory.wf_cons (k : Nat) (v : Byte) (m : List Host.Cell) :
    Memory.wf ((k, v) :: m) = true ↔ Memory.Above k m ∧ v ≠ Memory.absent ∧ Memory.wf m = true := by
  rw [Memory.wf_iff, Memory.wf_iff, List.pairwise_cons]
  simp only [List.mem_cons, forall_eq_or_imp, Memory.Above]
  tauto

theorem Memory.read_of_above {a : Nat} {m : List Host.Cell} (h : Memory.Above a m) : Memory.read m a = Memory.absent := by
  induction m with
  | nil => rfl
  | cons p m ih =>
    obtain ⟨k, v⟩ := p
    have hk : a < k := h (k, v) (by simp)
    rw [Memory.read, if_neg (by omega)]
    exact ih fun q hq => h q (by simp [hq])

/-! ## One byte written -/

theorem Memory.mem_cons {p : Host.Cell} {a : Nat} {b : Byte} {m : List Host.Cell} (hp : p ∈ Memory.cons a b m) :
    p = (a, b) ∨ p ∈ m := by
  unfold Memory.cons at hp
  split at hp
  · exact .inr hp
  · simpa using hp

theorem Memory.mem_write {p : Host.Cell} {m : List Host.Cell} {a : Nat} {b : Byte} (hp : p ∈ Memory.write m a b) :
    p = (a, b) ∨ p ∈ m := by
  induction m with
  | nil => exact Memory.mem_cons hp
  | cons q m ih =>
    obtain ⟨k, v⟩ := q
    rw [Memory.write] at hp
    split at hp
    · exact Memory.mem_cons hp
    · split at hp
      · rcases Memory.mem_cons hp with h | h
        · exact .inl h
        · exact .inr (by simp [h])
      · rcases List.mem_cons.1 hp with h | h
        · exact .inr (by simp [h])
        · rcases ih h with h | h
          · exact .inl h
          · exact .inr (by simp [h])

theorem Memory.wf_mcons {a : Nat} {b : Byte} {m : List Host.Cell} (ha : Memory.Above a m) (hm : Memory.wf m = true) :
    Memory.wf (Memory.cons a b m) = true := by
  unfold Memory.cons
  split
  · exact hm
  · next hb => exact (Memory.wf_cons a b m).2 ⟨ha, hb, hm⟩

/-- A write keeps the canonical form. -/
theorem Memory.wf_write {m : List Host.Cell} (hm : Memory.wf m = true) (a : Nat) (b : Byte) :
    Memory.wf (Memory.write m a b) = true := by
  induction m with
  | nil => exact Memory.wf_mcons (fun _ h => by simp at h) rfl
  | cons q m ih =>
    obtain ⟨k, v⟩ := q
    have hq := (Memory.wf_cons k v m).1 hm
    rw [Memory.write]
    split
    · next hlt =>
      refine Memory.wf_mcons (fun p hp => ?_) hm
      rcases List.mem_cons.1 hp with h | h
      · simpa [h] using hlt
      · exact lt_trans hlt (hq.1 p h)
    · split
      · next he => exact Memory.wf_mcons (he ▸ hq.1) hq.2.2
      · refine (Memory.wf_cons k v _).2 ⟨fun p hp => ?_, hq.2.1, ih hq.2.2⟩
        rcases Memory.mem_write hp with h | h
        · subst h; simp only; omega
        · exact hq.1 p h

theorem Memory.read_mcons {a : Nat} {b : Byte} {m : List Host.Cell} (ha : Memory.Above a m) (x : Nat) :
    Memory.read (Memory.cons a b m) x = if x = a then b else Memory.read m x := by
  unfold Memory.cons
  split
  · next hb =>
    split
    · next hx => rw [hx, Memory.read_of_above ha, hb]
    · rfl
  · rw [Memory.read]
    simp only [eq_comm]

/-- Reading one byte after writing one byte. -/
theorem Memory.read_write {m : List Host.Cell} (hm : Memory.wf m = true) (a : Nat) (b : Byte) (x : Nat) :
    Memory.read (Memory.write m a b) x = if x = a then b else Memory.read m x := by
  induction m with
  | nil => exact Memory.read_mcons (fun _ h => by simp at h) x
  | cons q m ih =>
    obtain ⟨k, v⟩ := q
    have hq := (Memory.wf_cons k v m).1 hm
    rw [Memory.write]
    split
    · next hlt =>
      refine Memory.read_mcons (fun p hp => ?_) x
      rcases List.mem_cons.1 hp with h | h
      · simpa [h] using hlt
      · exact lt_trans hlt (hq.1 p h)
    · split
      · next he =>
        rw [Memory.read_mcons (he ▸ hq.1), Memory.read]
        by_cases hx : x = a
        · simp [hx]
        · simp [hx, show k ≠ x by omega]
      · next hne =>
        rw [Memory.read, Memory.read, ih hq.2.2]
        by_cases hx : k = x
        · simp [hx, show x ≠ a by omega]
        · simp [hx]

/-! ## n bytes stored -/

theorem Memory.wf_store {x : Nat} {m : List Host.Cell} (hm : Memory.wf m = true) (a : BitVec x) (v : BitVec 64) (n : Nat) :
    Memory.wf (Memory.store m a v n) = true := by
  induction n with
  | zero => exact hm
  | succ n ih => exact Memory.wf_write ih _ _

theorem Memory.mem_store {x : Nat} {p : Host.Cell} {m : List Host.Cell} {a : BitVec x} {v : BitVec 64} {n : Nat}
    (hp : p ∈ Memory.store m a v n) : (∃ k < n, p.1 = byteAddr a k) ∨ p ∈ m := by
  induction n with
  | zero => exact .inr hp
  | succ n ih =>
    rcases Memory.mem_write hp with h | h
    · exact .inl ⟨n, by omega, by rw [h]⟩
    · rcases ih h with ⟨k, hk, he⟩ | h
      · exact .inl ⟨k, by omega, he⟩
      · exact .inr h

theorem byteAddr_lt {x : Nat} (a : BitVec x) (i : Nat) : byteAddr a i < 2 ^ x := (a + BitVec.ofNat x i).isLt

/-- Bytes of one access have different addresses, as long as the access is no longer than the address space. -/
theorem byteAddr_inj {x : Nat} {a : BitVec x} {i j : Nat} (hi : i < 2 ^ x) (hj : j < 2 ^ x)
    (h : byteAddr a i = byteAddr a j) : i = j := by
  have h2 := (BitVec.add_right_inj a).1 (BitVec.eq_of_toNat_eq h)
  have h3 := congrArg BitVec.toNat h2
  simpa [Nat.mod_eq_of_lt hi, Nat.mod_eq_of_lt hj] using h3

/-- Reading one byte after storing n bytes: outside them, what was there before. -/
theorem Memory.read_store_of_ne {x : Nat} {m : List Host.Cell} (hm : Memory.wf m = true) (a : BitVec x) (v : BitVec 64)
    {n b : Nat} (hb : ∀ k < n, b ≠ byteAddr a k) : Memory.read (Memory.store m a v n) b = Memory.read m b := by
  induction n with
  | zero => rfl
  | succ n ih =>
    rw [Memory.store, Memory.read_write (Memory.wf_store hm a v n), if_neg (hb n (by omega))]
    exact ih fun k hk => hb k (by omega)

/-- Reading one of the bytes stored gives that byte of the value. -/
theorem Memory.read_store {x : Nat} {m : List Host.Cell} (hm : Memory.wf m = true) (a : BitVec x) (v : BitVec 64)
    {n k : Nat} (hn : n ≤ 2 ^ x) (hk : k < n) : Memory.read (Memory.store m a v n) (byteAddr a k) = leByte v k := by
  induction n with
  | zero => omega
  | succ n ih =>
    rw [Memory.store, Memory.read_write (Memory.wf_store hm a v n)]
    split
    · next he => rw [byteAddr_inj (by omega) (by omega) he]
    · next hne =>
      have : k ≠ n := fun e => hne (by rw [e])
      exact ih (by omega) (by omega)

/-! ## stale_code -/

theorem mem_addrInsert {l : List Nat} {a b : Nat} : b ∈ addrInsert l a ↔ b = a ∨ b ∈ l := by
  induction l with
  | nil => simp [addrInsert]
  | cons k l ih =>
    rw [addrInsert]
    split
    · simp
    · split
      · next h => subst h; simp
      · simp only [List.mem_cons, ih]; tauto

theorem addrInsert_sorted {l : List Nat} (hl : l.Pairwise (· < ·)) (a : Nat) : (addrInsert l a).Pairwise (· < ·) := by
  induction l with
  | nil => simp [addrInsert]
  | cons k l ih =>
    have hk := List.pairwise_cons.1 hl
    rw [addrInsert]
    split
    · next h => exact List.pairwise_cons.2 ⟨fun b hb => by
        rcases List.mem_cons.1 hb with e | e
        · omega
        · have := hk.1 b e; omega, hl⟩
    · split
      · exact hl
      · refine List.pairwise_cons.2 ⟨fun b hb => ?_, ih hk.2⟩
        rcases mem_addrInsert.1 hb with e | e
        · omega
        · exact hk.1 b e

theorem mem_staleStore {x : Nat} {l : List Nat} {a : BitVec x} {n b : Nat} :
    b ∈ staleStore l a n ↔ b ∈ l ∨ ∃ k < n, b = byteAddr a k := by
  induction n with
  | zero => simp [staleStore]
  | succ n ih =>
    rw [staleStore, mem_addrInsert, ih]
    constructor
    · rintro (h | h | ⟨k, hk, h⟩)
      · exact .inr ⟨n, by omega, h⟩
      · exact .inl h
      · exact .inr ⟨k, by omega, h⟩
    · rintro (h | ⟨k, hk, h⟩)
      · exact .inr (.inl h)
      · by_cases e : k = n
        · exact .inl (e ▸ h)
        · exact .inr (.inr ⟨k, by omega, h⟩)

theorem staleStore_sorted {x : Nat} {l : List Nat} (hl : l.Pairwise (· < ·)) (a : BitVec x) (n : Nat) :
    (staleStore l a n).Pairwise (· < ·) := by
  induction n with
  | zero => exact hl
  | succ n ih => exact addrInsert_sorted ih _

/-! ## Reads and writes of the hart -/

/-- Reset memory has the canonical form: nothing is listed. -/
theorem State.reset_mem_wf : Memory.wf State.reset.hart.mem = true := rfl

/-- Every write of the hart keeps the canonical form. -/
theorem Hart.writeMem_wf {h : Hart c} (hm : Memory.wf h.mem = true) (a : BitVec c.xlen) (n : Nat) (v : BitVec 64) :
    Memory.wf (h.writeMem a n v).mem = true := by
  unfold Hart.writeMem
  split
  · exact hm
  · exact Memory.wf_store hm a v n

@[simp] theorem Hart.writeMem_stale (h : Hart c) (a : BitVec c.xlen) (n : Nat) (v : BitVec 64) :
    (h.writeMem a n v).stale = staleStore h.stale a n := by
  unfold Hart.writeMem; split <;> rfl

/-- A write to memory, and what a write to a device does instead (R111). -/
theorem Hart.writeMem_mem (h : Hart c) (a : BitVec c.xlen) (n : Nat) (v : BitVec 64) :
    (h.writeMem a n v).mem = if touchesIo c a n then h.mem else Memory.store h.mem a v n := by
  unfold Hart.writeMem; split <;> rfl

end Sys2Proof.Machine
end

