-- ==== Sys2Proof/Laws/Ends.lean ====
section
/-! SUPPORT. What an instruction that ended in each way leaves: one lemma for each form of result, from the call of
`State.run` that a meaning is to the predicate of Safety.lean that claims use. -/

namespace Sys2Proof.Machine

open Sys2Proof

variable {c : Config}

/-! ## The four ways an instruction ends -/

theorem Hart.finish_next (h h' : Hart c) (code : Code) :
    h.finish code (.next h') =
      { h' with pc := h'.pc + BitVec.ofNat c.xlen code.bytes, minstret := h'.minstret + 1,
                mcycle := cyclesAfter h'.mcycle (1 + Config.cycles h'.draws), draws := h'.draws + 1 } := rfl

theorem Hart.finish_jump (h h' : Hart c) (code : Code) (target : BitVec c.xlen) :
    h.finish code (.jump h' target) =
      { h' with pc := target, minstret := h'.minstret + 1,
                mcycle := cyclesAfter h'.mcycle (1 + Config.cycles h'.draws), draws := h'.draws + 1 } := rfl

theorem Hart.finish_trap (h h' : Hart c) (code : Code) (e : Exc) (tval : BitVec c.xlen) :
    h.finish code (.trap h' e tval) = h'.raise e tval := rfl

theorem Hart.finish_illegal (h : Hart c) (code : Code) :
    h.finish code .illegal = h.raise .illegalInstruction (BitVec.ofNat c.xlen code.toNat) := rfl

/-- Every meaning answers a next state. -/
theorem State.run_next (s : State) (code : Code) (r : Res s.cfg) :
    s.run code r = .next (s.withHart (s.hart.finish code r)) := rfl

/-- Two harts of one machine are equal when the machines are. -/
theorem State.withHart_inj {s : State} {h k : Hart s.cfg} (e : s.withHart h = s.withHart k) : h = k := by
  simpa [State.withHart] using e

/-- What a meaning leaves, from an equation with a next state. -/
theorem State.next_inj {s : State} {h k : Hart s.cfg}
    (e : (Host.Outcome.next (s.withHart h) : Host.Outcome State Fault Refusal) = .next (s.withHart k)) : h = k :=
  State.withHart_inj (Host.Outcome.next.inj e)

/-! ## From a meaning to the claim's predicate -/

theorem State.writesX_of {s : State} {i : Instr} {rd : BitVec 5} {v w : BitVec s.cfg.xlen}
    (h : exec i s = s.run (encode i) (s.hart.result rd w)) (hv : w = v) : s.WritesX i rd v := by
  subst hv
  refine ⟨_, h.trans (s.run_next _ _), ⟨?_, fun r hr => ?_⟩, ⟨?_, ?_⟩, ?_⟩
  · exact (Hart.getX_congr (h := s.hart.setX rd w) rfl rd).trans (s.hart.getX_setX_same rd w)
  · exact (Hart.getX_congr (h := s.hart.setX rd w) rfl r).trans (s.hart.getX_setX_of_ne hr w)
  · simp [Hart.result, Hart.finish_next, Instr.ilen]
  · simp [Hart.result, Hart.finish_next]
  · simp only [Hart.result, Hart.finish_next]; unfold Hart.setX; split <;> rfl

theorem State.onlyPasses_of {s : State} {i : Instr} (h : exec i s = s.run (encode i) (.next s.hart)) :
    s.OnlyPasses i := ⟨_, h.trans (s.run_next _ _), ⟨rfl, rfl⟩, rfl⟩

theorem State.jumpsTo_of {s : State} {i : Instr} {target : BitVec s.cfg.xlen}
    (h : exec i s = s.run (encode i) (.jump s.hart target)) : s.JumpsTo i target :=
  ⟨_, h.trans (s.run_next _ _), rfl, rfl, rfl⟩

theorem State.linksTo_of {s : State} {i : Instr} {rd : BitVec 5} {v target : BitVec s.cfg.xlen}
    (h : exec i s = s.run (encode i) (.jump (s.hart.setX rd v) target))
    (hv : v = s.hart.pc + BitVec.ofNat s.cfg.xlen i.ilen) : s.LinksTo i rd target := by
  subst hv
  refine ⟨_, h.trans (s.run_next _ _), ⟨?_, fun r hr => ?_⟩, rfl, ?_, ?_⟩
  · exact (Hart.getX_congr (h := s.hart.setX rd _) rfl rd).trans (s.hart.getX_setX_same rd _)
  · exact (Hart.getX_congr (h := s.hart.setX rd _) rfl r).trans (s.hart.getX_setX_of_ne hr _)
  · simp [Hart.finish_jump]
  · simp only [Hart.finish_jump]; unfold Hart.setX; split <;> rfl

theorem State.raises_of {s : State} {i : Instr} {code : Code} {e : Exc} {tval : BitVec s.cfg.xlen}
    (h : exec i s = s.run code (.trap s.hart e tval)) : s.Raises i e tval := h

theorem State.raisesIllegal_of {s : State} {i : Instr} (h : exec i s = s.run (encode i) .illegal) :
    s.RaisesIllegal i := h

end Sys2Proof.Machine
end

