-- ==== Sys2Proof/Laws/Access.lean ====
section
/-! SUPPORT. What a checked memory access does: when it passes, what it reads, what it stores, and which exception it
raises. -/

namespace Sys2Proof.Machine

open Sys2Proof

variable {c : Config}

/-! ## The checks -/

theorem allAllowed_iff {k : Access} {a : BitVec c.xlen} {n : Nat} :
    allAllowed c k a n = true ↔ ∀ i < n, byteAllowed c k (byteAddr a i) = true := by
  simp [allAllowed]

/-- An access passes its checks exactly when claims call it allowed. -/
theorem accessCheck_eq_none {k : Access} {a : BitVec c.xlen} {n : Nat} :
    accessCheck c k a n = none ↔ AccessOk c k a n := by
  unfold accessCheck AccessOk
  rw [← allAllowed_iff]
  split
  · simp_all
  · split <;> simp_all

theorem accessCheck_misaligned {k : Access} {a : BitVec c.xlen} {n : Nat} (h : a.toNat % n ≠ 0) :
    accessCheck c k a n = some k.misaligned := if_pos h

theorem accessCheck_fault {k : Access} {a : BitVec c.xlen} {n : Nat} (h : a.toNat % n = 0)
    (hb : ¬∀ i < n, byteAllowed c k (byteAddr a i) = true) : accessCheck c k a n = some k.accessFault := by
  unfold accessCheck
  rw [← allAllowed_iff] at hb
  rw [if_neg (by simpa using h), if_neg hb]

/-- An instruction that raises whatever its access check gives traps as claims say. -/
theorem State.accessTraps_of {s : State} {i : Instr} {k : Access} {a : BitVec s.cfg.xlen} {n : Nat}
    (h : ∀ e, accessCheck s.cfg k a n = some e → s.Raises i e a) : s.AccessTraps i k a n :=
  ⟨fun hm => h _ (accessCheck_misaligned hm), fun h0 hb => h _ (accessCheck_fault h0 hb)⟩

/-! ## Values in memory -/

/-- The little-endian value of bytes, as a number. -/
theorem leValue_toNat (get : Nat → Byte) (n : Nat) (hn : n ≤ 8) :
    (leValue get n).toNat = (List.range n).foldl (fun v k => v + (get k).toNat * 256 ^ k) 0 ∧
      (leValue get n).toNat < 2 ^ (8 * n) := by
  induction n with
  | zero => simp [leValue]
  | succ n ih =>
    obtain ⟨h1, h2⟩ := ih (by omega)
    have hb : (get n).toNat < 256 := (get n).isLt
    have hs : ((get n).setWidth 64 <<< (8 * n)).toNat = 2 ^ (8 * n) * (get n).toNat := by
      rw [BitVec.toNat_shiftLeft, BitVec.toNat_setWidth, Nat.shiftLeft_eq, Nat.mod_eq_of_lt (a := (get n).toNat) (by omega),
        Nat.mod_eq_of_lt, mul_comm]
      calc (get n).toNat * 2 ^ (8 * n) < 2 ^ 8 * 2 ^ (8 * n) := (Nat.mul_lt_mul_right (by positivity)).2 hb
        _ = 2 ^ (8 + 8 * n) := (pow_add ..).symm
        _ ≤ 2 ^ 64 := Nat.pow_le_pow_right (by norm_num) (by omega)
    have he : (leValue get (n + 1)).toNat = 2 ^ (8 * n) * (get n).toNat + (leValue get n).toNat := by
      rw [leValue, BitVec.toNat_or, hs, Nat.two_pow_add_eq_or_of_lt h2, Nat.or_comm]
    constructor
    · rw [he, List.range_succ, List.foldl_append, ← h1]
      simp only [List.foldl_cons, List.foldl_nil]
      rw [show (256 : Nat) = 2 ^ 8 by norm_num, ← pow_mul]
      ring
    · rw [he, show 8 * (n + 1) = 8 * n + 8 by ring, pow_add]
      nlinarith [Nat.two_pow_pos (8 * n)]

theorem Memory.nat_eq_foldl {x : Nat} (m : List Host.Cell) (a : BitVec x) (n : Nat) :
    Memory.nat m a n = (List.range n).foldl (fun v k => v + (Memory.read m (byteAddr a k)).toNat * 256 ^ k) 0 := by
  induction n with
  | zero => rfl
  | succ n ih => rw [Memory.nat, ih, List.range_succ, List.foldl_append]; rfl

/-- What a read of main memory answers (R101). -/
theorem Hart.readValue_toNat (h : Hart c) (a : BitVec c.xlen) {n : Nat} (hn : n ≤ 8) (hio : touchesIo c a n = false) :
    (h.readValue a n).toNat = Memory.nat h.mem a n := by
  unfold Hart.readValue
  rw [if_neg (by simp [hio]), (leValue_toNat _ n hn).1, Memory.nat_eq_foldl]

theorem Hart.readValue_lt (h : Hart c) (a : BitVec c.xlen) {n : Nat} (hn : n ≤ 8) :
    (h.readValue a n).toNat < 256 ^ n := by
  rw [show (256 : Nat) = 2 ^ 8 by norm_num, ← pow_mul]
  unfold Hart.readValue
  split <;> exact (leValue_toNat _ n hn).2

theorem Hart.afterRead_of_memory (h : Hart c) (a : BitVec c.xlen) (n : Nat) (hio : touchesIo c a n = false) :
    h.afterRead a n = h := by
  unfold Hart.afterRead; simp [hio]

theorem Hart.afterRead_eq (h : Hart c) (a : BitVec c.xlen) (n : Nat) :
    h.afterRead a n = { h with ioOut := (h.afterRead a n).ioOut, draws := (h.afterRead a n).draws } := by
  unfold Hart.afterRead; split <;> rfl

theorem Hart.readTrace_afterRead (h : Hart c) (a : BitVec c.xlen) (n : Nat) {t : Hart c}
    (ht : t.ioOut = (h.afterRead a n).ioOut) : h.ReadTrace t a n := by
  unfold Hart.ReadTrace
  rw [ht]
  unfold Hart.afterRead
  constructor <;> intro hio <;> simp [hio]

theorem leByte_toNat (v : BitVec 64) (k : Nat) : (leByte v k).toNat = v.toNat / 256 ^ k % 256 := by
  rw [leByte, BitVec.extractLsb'_toNat, Nat.shiftRight_eq_div_pow, show (256 : Nat) = 2 ^ 8 by norm_num, ← pow_mul]

theorem Hart.writeMem_eq (h : Hart c) (a : BitVec c.xlen) (n : Nat) (v : BitVec 64) :
    h.writeMem a n v = { h with mem := (h.writeMem a n v).mem, stale := (h.writeMem a n v).stale,
                                ioOut := (h.writeMem a n v).ioOut } := by
  unfold Hart.writeMem; split <;> rfl

theorem and_ones_eq (v : BitVec 64) {n : Nat} (hn : n ≤ 8) :
    v &&& (BitVec.allOnes 64 >>> (64 - 8 * n)) = BitVec.ofNat 64 (v.toNat % 256 ^ n) := by
  rw [show (256 : Nat) = 2 ^ 8 by norm_num, ← pow_mul]
  apply BitVec.eq_of_getLsbD_eq
  intro i hi
  simp only [BitVec.getLsbD_and, BitVec.getLsbD_ushiftRight, BitVec.getLsbD_allOnes, BitVec.getLsbD_ofNat,
    Nat.testBit_mod_two_pow]
  rw [show v.toNat.testBit i = v.getLsbD i from rfl]
  have : (64 - 8 * n + i < 64) ↔ i < 8 * n := by omega
  simp [this, hi, Bool.and_comm]

/-- What a write of the hart leaves is what claims call stored. -/
theorem Hart.stored_writeMem {h : Hart c} (hm : Memory.wf h.mem = true) (a : BitVec c.xlen) {n : Nat} (hn : n ≤ 8)
    (v : BitVec 64) {t : Hart c} (h1 : t.mem = (h.writeMem a n v).mem) (h2 : t.stale = (h.writeMem a n v).stale)
    (h3 : t.ioOut = (h.writeMem a n v).ioOut) : h.Stored t a n v.toNat := by
  refine ⟨fun hio => ⟨?_, fun k hk => ?_, fun b hb => ?_⟩, fun hio => ⟨?_, ?_⟩, fun b => ?_⟩
  · rw [h3]; simp [Hart.writeMem, hio]
  · rw [h1, h.writeMem_mem, if_neg (by simp [hio]), Memory.read_store hm a v _ hk, leByte_toNat]
    have := Nat.pow_le_pow_right (show 0 < 2 by norm_num) (show 5 ≤ c.xlen by rcases xlen_cases c with e | e <;> omega)
    omega
  · rw [h1, h.writeMem_mem, if_neg (by simp [hio]), Memory.read_store_of_ne hm a v hb]
  · rw [h1, h.writeMem_mem, if_pos hio]
  · rw [h3]; simp only [Hart.writeMem, hio, if_true]; rw [and_ones_eq v hn]
  · rw [h2, h.writeMem_stale, mem_staleStore]

/-! ## Loads and stores -/

theorem State.loadRule_of {s : State} {i : Instr} {rd : BitVec 5} {a : BitVec s.cfg.xlen} {n : Nat}
    {f : BitVec 64 → BitVec s.cfg.xlen} {ext : Nat → BitVec s.cfg.xlen} (hn : n ≤ 8)
    (h : exec i s = s.run (encode i) (s.hart.loadX rd a n f)) (hf : ∀ v : BitVec 64, v.toNat < 256 ^ n → f v = ext v.toNat) :
    s.LoadRule i .load rd a n ext := by
  constructor
  · intro hok
    have hc := accessCheck_eq_none.2 hok
    unfold Hart.loadX Hart.withLoad at h
    rw [hc] at h
    simp only [] at h
    refine ⟨_, f (s.hart.readValue a n), h.trans (s.run_next _ _), fun hio => ?_, ⟨?_, fun r hr => ?_⟩, ⟨?_, ?_⟩, ?_, ?_⟩
    · rw [hf _ (s.hart.readValue_lt a hn), s.hart.readValue_toNat a hn hio]
    · exact (Hart.getX_congr (h := (s.hart.afterRead a n).setX rd _) rfl rd).trans (Hart.getX_setX_same ..)
    · refine (Hart.getX_congr (h := (s.hart.afterRead a n).setX rd _) rfl r).trans
        ((Hart.getX_setX_of_ne _ hr _).trans (Hart.getX_congr ?_ r))
      rw [Hart.afterRead_eq]
    · simp only [Hart.finish_next, Hart.setX_pc]; rw [Hart.afterRead_eq]; rfl
    · simp only [Hart.finish_next, Hart.setX_minstret]; rw [Hart.afterRead_eq]
    · apply Hart.readTrace_afterRead; simp [Hart.finish_next]
    · rw [Hart.finish_next]
      unfold Hart.setX
      rw [Hart.afterRead_eq s.hart a n]
      split <;> rfl
  · apply State.accessTraps_of
    intro e he
    unfold Hart.loadX Hart.withLoad at h
    rw [he] at h
    exact h

theorem State.storeRule_of {s : State} {i : Instr} {a : BitVec s.cfg.xlen} {n : Nat} {v : BitVec 64} {w : Nat}
    (hm : Memory.wf s.hart.mem = true) (hn : n ≤ 8) (h : exec i s = s.run (encode i) (s.hart.storeMem a n v))
    (hv : v.toNat = w) : s.StoreRule i a n w := by
  subst hv
  constructor
  · intro hok
    have hc := accessCheck_eq_none.2 hok
    unfold Hart.storeMem Hart.withStore at h
    rw [hc] at h
    simp only [] at h
    refine ⟨_, h.trans (s.run_next _ _), Hart.stored_writeMem hm a hn v rfl rfl rfl, ⟨?_, ?_⟩, ?_⟩
    · rw [Hart.finish_next, Hart.writeMem_eq]; rfl
    · rw [Hart.finish_next, Hart.writeMem_eq]
    · rw [Hart.finish_next, Hart.writeMem_eq]
  · apply State.accessTraps_of
    intro e he
    unfold Hart.storeMem Hart.withStore at h
    rw [he] at h
    exact h

/-! ## What a loaded or stored value is, as a number -/

theorem signedLoad_eq (c : Config) (k : Nat) (v : BitVec 64) : signedLoad c k v = signedX c k v.toNat := by
  unfold signedLoad signedX
  rw [setWidth_eq_ofNat]

theorem unsignedLoad_eq (c : Config) {k n : Nat} (hk : k = 8 * n) {v : BitVec 64} (hv : v.toNat < 256 ^ n) :
    unsignedLoad c k v = BitVec.ofNat c.xlen v.toNat := by
  unfold unsignedLoad
  rw [setWidth_eq_ofNat, setWidth_eq_ofNat, BitVec.toNat_ofNat, Nat.mod_eq_of_lt (b := 2 ^ k)]
  subst hk
  rwa [pow_mul]

theorem to64_toNat (c : Config) (v : BitVec c.xlen) : (to64 v).toNat = v.toNat := by
  unfold to64
  simp
  have := v.isLt
  have := Nat.pow_le_pow_right (show 0 < 2 by norm_num) (xlen_le c)
  omega

/-- What an AMO does, from the operation on the value read. -/
theorem State.amoRule_of {s : State} {i : Instr} {rd rs1 : BitVec 5} {n : Nat} {f : BitVec 64 → BitVec 64}
    {g : BitVec 64 → BitVec s.cfg.xlen} {op : Nat → Nat} {ext : Nat → BitVec s.cfg.xlen}
    (hm : Memory.wf s.hart.mem = true) (hn : n ≤ 8) (h : exec i s = s.run (encode i) (s.hart.amo rd rs1 n f g))
    (hf : ∀ v : BitVec 64, v.toNat < 256 ^ n → (f v).toNat = op v.toNat)
    (hg : ∀ v : BitVec 64, v.toNat < 256 ^ n → g v = ext v.toNat) : s.AmoRule i rd (s.hart.getX rs1) n op ext := by
  set a := s.hart.getX rs1 with ha
  constructor
  · intro hok
    have hc := accessCheck_eq_none.2 hok
    unfold Hart.amo Hart.withLoad at h
    simp only [← ha] at h
    rw [hc] at h
    simp only [] at h
    have hlt := s.hart.readValue_lt a hn
    refine ⟨_, (s.hart.readValue a n).toNat, h.trans (s.run_next _ _), fun hio => ⟨s.hart.readValue_toNat a hn hio, ?_⟩, fun hio => ⟨?_, ?_⟩, fun b => ?_, ⟨?_, fun r hr => ?_⟩, ⟨?_, ?_⟩, ?_⟩
    · rw [← hf _ hlt]
      have e := s.hart.afterRead_of_memory a n hio
      exact Hart.stored_writeMem hm a hn _ (by rw [e]; simp [Hart.finish_next]) (by rw [e]; simp [Hart.finish_next]) (by rw [e]; simp [Hart.finish_next])
    · simp [Hart.finish_next, Hart.writeMem, hio, Hart.afterRead]
    · have e := and_ones_eq (f (s.hart.readValue a n)) hn
      rw [hf _ hlt] at e
      rw [← e]
      simp [Hart.finish_next, Hart.writeMem, hio, Hart.afterRead]
    · simp [Hart.finish_next, mem_staleStore]
    · rw [← hg _ hlt]; exact (Hart.getX_congr (h := ((s.hart.afterRead a n).writeMem a n _).setX rd _) rfl rd).trans (Hart.getX_setX_same ..)
    · refine (Hart.getX_congr (h := ((s.hart.afterRead a n).writeMem a n _).setX rd _) rfl r).trans
        ((Hart.getX_setX_of_ne _ hr _).trans (Hart.getX_congr ?_ r))
      rw [Hart.writeMem_eq, Hart.afterRead_eq]
    · simp only [Hart.finish_next, Hart.setX_pc]; rw [Hart.writeMem_eq, Hart.afterRead_eq]; rfl
    · simp only [Hart.finish_next, Hart.setX_minstret]; rw [Hart.writeMem_eq, Hart.afterRead_eq]
    · rw [Hart.finish_next]
      unfold Hart.setX
      rw [Hart.writeMem_eq, Hart.afterRead_eq s.hart a n]
      split <;> rfl
  · apply State.accessTraps_of
    intro e he
    unfold Hart.amo Hart.withLoad at h
    simp only [← ha] at h
    rw [he] at h
    exact h

end Sys2Proof.Machine
end

