-- ==== Sys2Proof/Laws/PerInstr.lean ====
section
/-! SUPPORT. A statement about every instruction as syntax, made constructor by constructor: the two low bits of its
encoding say its length (R140, R141). -/

namespace Sys2Proof.Laws

open Sys2Proof

/-- The low two bits of a 16-bit encoding are not 11; those of a 32-bit encoding are 11 (R141). -/
def LengthBits.Statement (i : Instr) : Prop :=
  match encode i with
  | .half w => w.extractLsb' 0 2 ≠ 3
  | .word w => w.extractLsb' 0 2 = 3

theorem low_two_of_word (f7 : BitVec 7) (rs2 rs1 : BitVec 5) (f3 : BitVec 3) (rd : BitVec 5) (op : BitVec 7) :
    (Fields32.join ⟨f7, rs2, rs1, f3, rd, op⟩).extractLsb' 0 2 = op.extractLsb' 0 2 := by
  apply BitVec.eq_of_getLsbD_eq
  intro i hi
  rw [BitVec.getLsbD_extractLsb', BitVec.getLsbD_extractLsb']
  exact congrArg _ ((BitVec.getLsbD_append (y := op)).trans (by simp [show i < 7 by omega]))

theorem low_two_of_half (f3 : BitVec 3) (b : BitVec 1) (r1 r2 : BitVec 5) (op : BitVec 2) :
    (Fields16.join ⟨f3, b, r1, r2, op⟩).extractLsb' 0 2 = op := by
  apply BitVec.eq_of_getLsbD_eq
  intro i hi
  rw [BitVec.getLsbD_extractLsb']
  exact (congrArg _ (BitVec.getLsbD_append (y := op))).trans (by simp [hi])

theorem lengthBits_word {i : Instr} {f7 : BitVec 7} {rs2 rs1 : BitVec 5} {f3 : BitVec 3} {rd : BitVec 5}
    {op : BitVec 7} (h : encode i = .word (Fields32.join ⟨f7, rs2, rs1, f3, rd, op⟩)) (hop : op.extractLsb' 0 2 = 3) :
    LengthBits.Statement i := by
  unfold LengthBits.Statement
  rw [h]
  exact (low_two_of_word ..).trans hop

theorem lengthBits_half {i : Instr} {f3 : BitVec 3} {b : BitVec 1} {r1 r2 : BitVec 5} {op : BitVec 2}
    (h : encode i = .half (Fields16.join ⟨f3, b, r1, r2, op⟩)) (hop : op ≠ 3) : LengthBits.Statement i := by
  unfold LengthBits.Statement
  rw [h]
  exact fun e => hop ((low_two_of_half ..).symm.trans e)

theorem LengthBits.lb (rd : BitVec 5) (rs1 : BitVec 5) (offset : BitVec 12) : LengthBits.Statement (.lb rd rs1 offset) :=
  lengthBits_word rfl (by decide)
theorem LengthBits.lbu (rd : BitVec 5) (rs1 : BitVec 5) (offset : BitVec 12) : LengthBits.Statement (.lbu rd rs1 offset) :=
  lengthBits_word rfl (by decide)
theorem LengthBits.lh (rd : BitVec 5) (rs1 : BitVec 5) (offset : BitVec 12) : LengthBits.Statement (.lh rd rs1 offset) :=
  lengthBits_word rfl (by decide)
theorem LengthBits.lhu (rd : BitVec 5) (rs1 : BitVec 5) (offset : BitVec 12) : LengthBits.Statement (.lhu rd rs1 offset) :=
  lengthBits_word rfl (by decide)
theorem LengthBits.lw (rd : BitVec 5) (rs1 : BitVec 5) (offset : BitVec 12) : LengthBits.Statement (.lw rd rs1 offset) :=
  lengthBits_word rfl (by decide)
theorem LengthBits.sb (rs2 : BitVec 5) (rs1 : BitVec 5) (offset : BitVec 12) : LengthBits.Statement (.sb rs2 rs1 offset) :=
  lengthBits_word rfl (by decide)
theorem LengthBits.sh (rs2 : BitVec 5) (rs1 : BitVec 5) (offset : BitVec 12) : LengthBits.Statement (.sh rs2 rs1 offset) :=
  lengthBits_word rfl (by decide)
theorem LengthBits.sw (rs2 : BitVec 5) (rs1 : BitVec 5) (offset : BitVec 12) : LengthBits.Statement (.sw rs2 rs1 offset) :=
  lengthBits_word rfl (by decide)
theorem LengthBits.sll (rd : BitVec 5) (rs1 : BitVec 5) (rs2 : BitVec 5) : LengthBits.Statement (.sll rd rs1 rs2) :=
  lengthBits_word rfl (by decide)
theorem LengthBits.slli (rd : BitVec 5) (rs1 : BitVec 5) (shamt : BitVec 6) : LengthBits.Statement (.slli rd rs1 shamt) :=
  lengthBits_word rfl (by decide)
theorem LengthBits.srl (rd : BitVec 5) (rs1 : BitVec 5) (rs2 : BitVec 5) : LengthBits.Statement (.srl rd rs1 rs2) :=
  lengthBits_word rfl (by decide)
theorem LengthBits.srli (rd : BitVec 5) (rs1 : BitVec 5) (shamt : BitVec 6) : LengthBits.Statement (.srli rd rs1 shamt) :=
  lengthBits_word rfl (by decide)
theorem LengthBits.sra (rd : BitVec 5) (rs1 : BitVec 5) (rs2 : BitVec 5) : LengthBits.Statement (.sra rd rs1 rs2) :=
  lengthBits_word rfl (by decide)
theorem LengthBits.srai (rd : BitVec 5) (rs1 : BitVec 5) (shamt : BitVec 6) : LengthBits.Statement (.srai rd rs1 shamt) :=
  lengthBits_word rfl (by decide)
theorem LengthBits.add (rd : BitVec 5) (rs1 : BitVec 5) (rs2 : BitVec 5) : LengthBits.Statement (.add rd rs1 rs2) :=
  lengthBits_word rfl (by decide)
theorem LengthBits.addi (rd : BitVec 5) (rs1 : BitVec 5) (imm : BitVec 12) : LengthBits.Statement (.addi rd rs1 imm) :=
  lengthBits_word rfl (by decide)
theorem LengthBits.sub (rd : BitVec 5) (rs1 : BitVec 5) (rs2 : BitVec 5) : LengthBits.Statement (.sub rd rs1 rs2) :=
  lengthBits_word rfl (by decide)
theorem LengthBits.lui (rd : BitVec 5) (imm : BitVec 20) : LengthBits.Statement (.lui rd imm) :=
  lengthBits_word rfl (by decide)
theorem LengthBits.auipc (rd : BitVec 5) (imm : BitVec 20) : LengthBits.Statement (.auipc rd imm) :=
  lengthBits_word rfl (by decide)
theorem LengthBits.and (rd : BitVec 5) (rs1 : BitVec 5) (rs2 : BitVec 5) : LengthBits.Statement (.and rd rs1 rs2) :=
  lengthBits_word rfl (by decide)
theorem LengthBits.andi (rd : BitVec 5) (rs1 : BitVec 5) (imm : BitVec 12) : LengthBits.Statement (.andi rd rs1 imm) :=
  lengthBits_word rfl (by decide)
theorem LengthBits.or (rd : BitVec 5) (rs1 : BitVec 5) (rs2 : BitVec 5) : LengthBits.Statement (.or rd rs1 rs2) :=
  lengthBits_word rfl (by decide)
theorem LengthBits.ori (rd : BitVec 5) (rs1 : BitVec 5) (imm : BitVec 12) : LengthBits.Statement (.ori rd rs1 imm) :=
  lengthBits_word rfl (by decide)
theorem LengthBits.xor (rd : BitVec 5) (rs1 : BitVec 5) (rs2 : BitVec 5) : LengthBits.Statement (.xor rd rs1 rs2) :=
  lengthBits_word rfl (by decide)
theorem LengthBits.xori (rd : BitVec 5) (rs1 : BitVec 5) (imm : BitVec 12) : LengthBits.Statement (.xori rd rs1 imm) :=
  lengthBits_word rfl (by decide)
theorem LengthBits.slt (rd : BitVec 5) (rs1 : BitVec 5) (rs2 : BitVec 5) : LengthBits.Statement (.slt rd rs1 rs2) :=
  lengthBits_word rfl (by decide)
theorem LengthBits.sltu (rd : BitVec 5) (rs1 : BitVec 5) (rs2 : BitVec 5) : LengthBits.Statement (.sltu rd rs1 rs2) :=
  lengthBits_word rfl (by decide)
theorem LengthBits.slti (rd : BitVec 5) (rs1 : BitVec 5) (imm : BitVec 12) : LengthBits.Statement (.slti rd rs1 imm) :=
  lengthBits_word rfl (by decide)
theorem LengthBits.sltiu (rd : BitVec 5) (rs1 : BitVec 5) (imm : BitVec 12) : LengthBits.Statement (.sltiu rd rs1 imm) :=
  lengthBits_word rfl (by decide)
theorem LengthBits.beq (rs1 : BitVec 5) (rs2 : BitVec 5) (offset : BitVec 12) : LengthBits.Statement (.beq rs1 rs2 offset) :=
  lengthBits_word rfl (by decide)
theorem LengthBits.bne (rs1 : BitVec 5) (rs2 : BitVec 5) (offset : BitVec 12) : LengthBits.Statement (.bne rs1 rs2 offset) :=
  lengthBits_word rfl (by decide)
theorem LengthBits.blt (rs1 : BitVec 5) (rs2 : BitVec 5) (offset : BitVec 12) : LengthBits.Statement (.blt rs1 rs2 offset) :=
  lengthBits_word rfl (by decide)
theorem LengthBits.bge (rs1 : BitVec 5) (rs2 : BitVec 5) (offset : BitVec 12) : LengthBits.Statement (.bge rs1 rs2 offset) :=
  lengthBits_word rfl (by decide)
theorem LengthBits.bltu (rs1 : BitVec 5) (rs2 : BitVec 5) (offset : BitVec 12) : LengthBits.Statement (.bltu rs1 rs2 offset) :=
  lengthBits_word rfl (by decide)
theorem LengthBits.bgeu (rs1 : BitVec 5) (rs2 : BitVec 5) (offset : BitVec 12) : LengthBits.Statement (.bgeu rs1 rs2 offset) :=
  lengthBits_word rfl (by decide)
theorem LengthBits.jal (rd : BitVec 5) (offset : BitVec 20) : LengthBits.Statement (.jal rd offset) :=
  lengthBits_word rfl (by decide)
theorem LengthBits.jalr (rd : BitVec 5) (rs1 : BitVec 5) (offset : BitVec 12) : LengthBits.Statement (.jalr rd rs1 offset) :=
  lengthBits_word rfl (by decide)
theorem LengthBits.fence (pred : BitVec 4) (succ : BitVec 4) : LengthBits.Statement (.fence pred succ) :=
  lengthBits_word rfl (by decide)
theorem LengthBits.fenceI : LengthBits.Statement .fenceI :=
  lengthBits_word rfl (by decide)
theorem LengthBits.sfenceVma (rs1 : BitVec 5) (rs2 : BitVec 5) : LengthBits.Statement (.sfenceVma rs1 rs2) :=
  lengthBits_word rfl (by decide)
theorem LengthBits.csrrw (rd : BitVec 5) (csr : BitVec 12) (rs1 : BitVec 5) : LengthBits.Statement (.csrrw rd csr rs1) :=
  lengthBits_word rfl (by decide)
theorem LengthBits.csrrs (rd : BitVec 5) (csr : BitVec 12) (rs1 : BitVec 5) : LengthBits.Statement (.csrrs rd csr rs1) :=
  lengthBits_word rfl (by decide)
theorem LengthBits.csrrc (rd : BitVec 5) (csr : BitVec 12) (rs1 : BitVec 5) : LengthBits.Statement (.csrrc rd csr rs1) :=
  lengthBits_word rfl (by decide)
theorem LengthBits.csrrwi (rd : BitVec 5) (csr : BitVec 12) (zimm : BitVec 5) : LengthBits.Statement (.csrrwi rd csr zimm) :=
  lengthBits_word rfl (by decide)
theorem LengthBits.csrrsi (rd : BitVec 5) (csr : BitVec 12) (zimm : BitVec 5) : LengthBits.Statement (.csrrsi rd csr zimm) :=
  lengthBits_word rfl (by decide)
theorem LengthBits.csrrci (rd : BitVec 5) (csr : BitVec 12) (zimm : BitVec 5) : LengthBits.Statement (.csrrci rd csr zimm) :=
  lengthBits_word rfl (by decide)
theorem LengthBits.ecall : LengthBits.Statement .ecall :=
  lengthBits_word rfl (by decide)
theorem LengthBits.ebreak : LengthBits.Statement .ebreak :=
  lengthBits_word rfl (by decide)
theorem LengthBits.mret : LengthBits.Statement .mret :=
  lengthBits_word rfl (by decide)
theorem LengthBits.sret : LengthBits.Statement .sret :=
  lengthBits_word rfl (by decide)
theorem LengthBits.wfi : LengthBits.Statement .wfi :=
  lengthBits_word rfl (by decide)
theorem LengthBits.mul (rd : BitVec 5) (rs1 : BitVec 5) (rs2 : BitVec 5) : LengthBits.Statement (.mul rd rs1 rs2) :=
  lengthBits_word rfl (by decide)
theorem LengthBits.mulh (rd : BitVec 5) (rs1 : BitVec 5) (rs2 : BitVec 5) : LengthBits.Statement (.mulh rd rs1 rs2) :=
  lengthBits_word rfl (by decide)
theorem LengthBits.mulhsu (rd : BitVec 5) (rs1 : BitVec 5) (rs2 : BitVec 5) : LengthBits.Statement (.mulhsu rd rs1 rs2) :=
  lengthBits_word rfl (by decide)
theorem LengthBits.mulhu (rd : BitVec 5) (rs1 : BitVec 5) (rs2 : BitVec 5) : LengthBits.Statement (.mulhu rd rs1 rs2) :=
  lengthBits_word rfl (by decide)
theorem LengthBits.div (rd : BitVec 5) (rs1 : BitVec 5) (rs2 : BitVec 5) : LengthBits.Statement (.div rd rs1 rs2) :=
  lengthBits_word rfl (by decide)
theorem LengthBits.divu (rd : BitVec 5) (rs1 : BitVec 5) (rs2 : BitVec 5) : LengthBits.Statement (.divu rd rs1 rs2) :=
  lengthBits_word rfl (by decide)
theorem LengthBits.rem (rd : BitVec 5) (rs1 : BitVec 5) (rs2 : BitVec 5) : LengthBits.Statement (.rem rd rs1 rs2) :=
  lengthBits_word rfl (by decide)
theorem LengthBits.remu (rd : BitVec 5) (rs1 : BitVec 5) (rs2 : BitVec 5) : LengthBits.Statement (.remu rd rs1 rs2) :=
  lengthBits_word rfl (by decide)
theorem LengthBits.cLw (rdp : BitVec 3) (rs1p : BitVec 3) (uimm : BitVec 5) : LengthBits.Statement (.cLw rdp rs1p uimm) :=
  lengthBits_half rfl (by decide)
theorem LengthBits.cSw (rs2p : BitVec 3) (rs1p : BitVec 3) (uimm : BitVec 5) : LengthBits.Statement (.cSw rs2p rs1p uimm) :=
  lengthBits_half rfl (by decide)
theorem LengthBits.cLwsp (rd : BitVec 5) (uimm : BitVec 6) : LengthBits.Statement (.cLwsp rd uimm) :=
  lengthBits_half rfl (by decide)
theorem LengthBits.cSwsp (rs2 : BitVec 5) (uimm : BitVec 6) : LengthBits.Statement (.cSwsp rs2 uimm) :=
  lengthBits_half rfl (by decide)
theorem LengthBits.cBeqz (rs1p : BitVec 3) (offset : BitVec 8) : LengthBits.Statement (.cBeqz rs1p offset) :=
  lengthBits_half rfl (by decide)
theorem LengthBits.cBnez (rs1p : BitVec 3) (offset : BitVec 8) : LengthBits.Statement (.cBnez rs1p offset) :=
  lengthBits_half rfl (by decide)
theorem LengthBits.cJ (offset : BitVec 11) : LengthBits.Statement (.cJ offset) :=
  lengthBits_half rfl (by decide)
theorem LengthBits.cJr (rs1 : BitVec 5) : LengthBits.Statement (.cJr rs1) :=
  lengthBits_half rfl (by decide)
theorem LengthBits.cJal (offset : BitVec 11) : LengthBits.Statement (.cJal offset) :=
  lengthBits_half rfl (by decide)
theorem LengthBits.cJalr (rs1 : BitVec 5) : LengthBits.Statement (.cJalr rs1) :=
  lengthBits_half rfl (by decide)
theorem LengthBits.cEbreak : LengthBits.Statement .cEbreak :=
  lengthBits_half rfl (by decide)
theorem LengthBits.cAdd (rd : BitVec 5) (rs2 : BitVec 5) : LengthBits.Statement (.cAdd rd rs2) :=
  lengthBits_half rfl (by decide)
theorem LengthBits.cAddi (rd : BitVec 5) (imm : BitVec 6) : LengthBits.Statement (.cAddi rd imm) :=
  lengthBits_half rfl (by decide)
theorem LengthBits.cSub (rdp : BitVec 3) (rs2p : BitVec 3) : LengthBits.Statement (.cSub rdp rs2p) :=
  lengthBits_half rfl (by decide)
theorem LengthBits.cAddi16sp (imm : BitVec 6) : LengthBits.Statement (.cAddi16sp imm) :=
  lengthBits_half rfl (by decide)
theorem LengthBits.cAddi4spn (rdp : BitVec 3) (uimm : BitVec 8) : LengthBits.Statement (.cAddi4spn rdp uimm) :=
  lengthBits_half rfl (by decide)
theorem LengthBits.cAnd (rdp : BitVec 3) (rs2p : BitVec 3) : LengthBits.Statement (.cAnd rdp rs2p) :=
  lengthBits_half rfl (by decide)
theorem LengthBits.cAndi (rdp : BitVec 3) (imm : BitVec 6) : LengthBits.Statement (.cAndi rdp imm) :=
  lengthBits_half rfl (by decide)
theorem LengthBits.cOr (rdp : BitVec 3) (rs2p : BitVec 3) : LengthBits.Statement (.cOr rdp rs2p) :=
  lengthBits_half rfl (by decide)
theorem LengthBits.cXor (rdp : BitVec 3) (rs2p : BitVec 3) : LengthBits.Statement (.cXor rdp rs2p) :=
  lengthBits_half rfl (by decide)
theorem LengthBits.cSlli (rd : BitVec 5) (uimm : BitVec 6) : LengthBits.Statement (.cSlli rd uimm) :=
  lengthBits_half rfl (by decide)
theorem LengthBits.cSrli (rdp : BitVec 3) (uimm : BitVec 6) : LengthBits.Statement (.cSrli rdp uimm) :=
  lengthBits_half rfl (by decide)
theorem LengthBits.cSrai (rdp : BitVec 3) (uimm : BitVec 6) : LengthBits.Statement (.cSrai rdp uimm) :=
  lengthBits_half rfl (by decide)
theorem LengthBits.cMv (rd : BitVec 5) (rs2 : BitVec 5) : LengthBits.Statement (.cMv rd rs2) :=
  lengthBits_half rfl (by decide)
theorem LengthBits.cLi (rd : BitVec 5) (imm : BitVec 6) : LengthBits.Statement (.cLi rd imm) :=
  lengthBits_half rfl (by decide)
theorem LengthBits.cLui (rd : BitVec 5) (imm : BitVec 6) : LengthBits.Statement (.cLui rd imm) :=
  lengthBits_half rfl (by decide)
theorem LengthBits.cFlw (rdp : BitVec 3) (rs1p : BitVec 3) (uimm : BitVec 5) : LengthBits.Statement (.cFlw rdp rs1p uimm) :=
  lengthBits_half rfl (by decide)
theorem LengthBits.cFlwsp (rd : BitVec 5) (uimm : BitVec 6) : LengthBits.Statement (.cFlwsp rd uimm) :=
  lengthBits_half rfl (by decide)
theorem LengthBits.cFsw (rs2p : BitVec 3) (rs1p : BitVec 3) (uimm : BitVec 5) : LengthBits.Statement (.cFsw rs2p rs1p uimm) :=
  lengthBits_half rfl (by decide)
theorem LengthBits.cFswsp (rs2 : BitVec 5) (uimm : BitVec 6) : LengthBits.Statement (.cFswsp rs2 uimm) :=
  lengthBits_half rfl (by decide)
theorem LengthBits.flw (rd : BitVec 5) (rs1 : BitVec 5) (offset : BitVec 12) : LengthBits.Statement (.flw rd rs1 offset) :=
  lengthBits_word rfl (by decide)
theorem LengthBits.fsw (rs2 : BitVec 5) (rs1 : BitVec 5) (offset : BitVec 12) : LengthBits.Statement (.fsw rs2 rs1 offset) :=
  lengthBits_word rfl (by decide)
theorem LengthBits.fmaddS (rd : BitVec 5) (rs1 : BitVec 5) (rs2 : BitVec 5) (rs3 : BitVec 5) (rm : BitVec 3) : LengthBits.Statement (.fmaddS rd rs1 rs2 rs3 rm) :=
  lengthBits_word rfl (by decide)
theorem LengthBits.fmsubS (rd : BitVec 5) (rs1 : BitVec 5) (rs2 : BitVec 5) (rs3 : BitVec 5) (rm : BitVec 3) : LengthBits.Statement (.fmsubS rd rs1 rs2 rs3 rm) :=
  lengthBits_word rfl (by decide)
theorem LengthBits.fnmaddS (rd : BitVec 5) (rs1 : BitVec 5) (rs2 : BitVec 5) (rs3 : BitVec 5) (rm : BitVec 3) : LengthBits.Statement (.fnmaddS rd rs1 rs2 rs3 rm) :=
  lengthBits_word rfl (by decide)
theorem LengthBits.fnmsubS (rd : BitVec 5) (rs1 : BitVec 5) (rs2 : BitVec 5) (rs3 : BitVec 5) (rm : BitVec 3) : LengthBits.Statement (.fnmsubS rd rs1 rs2 rs3 rm) :=
  lengthBits_word rfl (by decide)
theorem LengthBits.faddS (rd : BitVec 5) (rs1 : BitVec 5) (rs2 : BitVec 5) (rm : BitVec 3) : LengthBits.Statement (.faddS rd rs1 rs2 rm) :=
  lengthBits_word rfl (by decide)
theorem LengthBits.fsubS (rd : BitVec 5) (rs1 : BitVec 5) (rs2 : BitVec 5) (rm : BitVec 3) : LengthBits.Statement (.fsubS rd rs1 rs2 rm) :=
  lengthBits_word rfl (by decide)
theorem LengthBits.fmulS (rd : BitVec 5) (rs1 : BitVec 5) (rs2 : BitVec 5) (rm : BitVec 3) : LengthBits.Statement (.fmulS rd rs1 rs2 rm) :=
  lengthBits_word rfl (by decide)
theorem LengthBits.fdivS (rd : BitVec 5) (rs1 : BitVec 5) (rs2 : BitVec 5) (rm : BitVec 3) : LengthBits.Statement (.fdivS rd rs1 rs2 rm) :=
  lengthBits_word rfl (by decide)
theorem LengthBits.fsqrtS (rd : BitVec 5) (rs1 : BitVec 5) (rm : BitVec 3) : LengthBits.Statement (.fsqrtS rd rs1 rm) :=
  lengthBits_word rfl (by decide)
theorem LengthBits.fminS (rd : BitVec 5) (rs1 : BitVec 5) (rs2 : BitVec 5) : LengthBits.Statement (.fminS rd rs1 rs2) :=
  lengthBits_word rfl (by decide)
theorem LengthBits.fmaxS (rd : BitVec 5) (rs1 : BitVec 5) (rs2 : BitVec 5) : LengthBits.Statement (.fmaxS rd rs1 rs2) :=
  lengthBits_word rfl (by decide)
theorem LengthBits.fcvtWS (rd : BitVec 5) (rs1 : BitVec 5) (rm : BitVec 3) : LengthBits.Statement (.fcvtWS rd rs1 rm) :=
  lengthBits_word rfl (by decide)
theorem LengthBits.fcvtWuS (rd : BitVec 5) (rs1 : BitVec 5) (rm : BitVec 3) : LengthBits.Statement (.fcvtWuS rd rs1 rm) :=
  lengthBits_word rfl (by decide)
theorem LengthBits.fcvtSW (rd : BitVec 5) (rs1 : BitVec 5) (rm : BitVec 3) : LengthBits.Statement (.fcvtSW rd rs1 rm) :=
  lengthBits_word rfl (by decide)
theorem LengthBits.fcvtSWu (rd : BitVec 5) (rs1 : BitVec 5) (rm : BitVec 3) : LengthBits.Statement (.fcvtSWu rd rs1 rm) :=
  lengthBits_word rfl (by decide)
theorem LengthBits.fsgnjS (rd : BitVec 5) (rs1 : BitVec 5) (rs2 : BitVec 5) : LengthBits.Statement (.fsgnjS rd rs1 rs2) :=
  lengthBits_word rfl (by decide)
theorem LengthBits.fsgnjnS (rd : BitVec 5) (rs1 : BitVec 5) (rs2 : BitVec 5) : LengthBits.Statement (.fsgnjnS rd rs1 rs2) :=
  lengthBits_word rfl (by decide)
theorem LengthBits.fsgnjxS (rd : BitVec 5) (rs1 : BitVec 5) (rs2 : BitVec 5) : LengthBits.Statement (.fsgnjxS rd rs1 rs2) :=
  lengthBits_word rfl (by decide)
theorem LengthBits.fmvXW (rd : BitVec 5) (rs1 : BitVec 5) : LengthBits.Statement (.fmvXW rd rs1) :=
  lengthBits_word rfl (by decide)
theorem LengthBits.fmvWX (rd : BitVec 5) (rs1 : BitVec 5) : LengthBits.Statement (.fmvWX rd rs1) :=
  lengthBits_word rfl (by decide)
theorem LengthBits.feqS (rd : BitVec 5) (rs1 : BitVec 5) (rs2 : BitVec 5) : LengthBits.Statement (.feqS rd rs1 rs2) :=
  lengthBits_word rfl (by decide)
theorem LengthBits.fltS (rd : BitVec 5) (rs1 : BitVec 5) (rs2 : BitVec 5) : LengthBits.Statement (.fltS rd rs1 rs2) :=
  lengthBits_word rfl (by decide)
theorem LengthBits.fleS (rd : BitVec 5) (rs1 : BitVec 5) (rs2 : BitVec 5) : LengthBits.Statement (.fleS rd rs1 rs2) :=
  lengthBits_word rfl (by decide)
theorem LengthBits.fclassS (rd : BitVec 5) (rs1 : BitVec 5) : LengthBits.Statement (.fclassS rd rs1) :=
  lengthBits_word rfl (by decide)
theorem LengthBits.lwu (rd : BitVec 5) (rs1 : BitVec 5) (offset : BitVec 12) : LengthBits.Statement (.lwu rd rs1 offset) :=
  lengthBits_word rfl (by decide)
theorem LengthBits.ld (rd : BitVec 5) (rs1 : BitVec 5) (offset : BitVec 12) : LengthBits.Statement (.ld rd rs1 offset) :=
  lengthBits_word rfl (by decide)
theorem LengthBits.sd (rs2 : BitVec 5) (rs1 : BitVec 5) (offset : BitVec 12) : LengthBits.Statement (.sd rs2 rs1 offset) :=
  lengthBits_word rfl (by decide)
theorem LengthBits.addw (rd : BitVec 5) (rs1 : BitVec 5) (rs2 : BitVec 5) : LengthBits.Statement (.addw rd rs1 rs2) :=
  lengthBits_word rfl (by decide)
theorem LengthBits.addiw (rd : BitVec 5) (rs1 : BitVec 5) (imm : BitVec 12) : LengthBits.Statement (.addiw rd rs1 imm) :=
  lengthBits_word rfl (by decide)
theorem LengthBits.subw (rd : BitVec 5) (rs1 : BitVec 5) (rs2 : BitVec 5) : LengthBits.Statement (.subw rd rs1 rs2) :=
  lengthBits_word rfl (by decide)
theorem LengthBits.sllw (rd : BitVec 5) (rs1 : BitVec 5) (rs2 : BitVec 5) : LengthBits.Statement (.sllw rd rs1 rs2) :=
  lengthBits_word rfl (by decide)
theorem LengthBits.slliw (rd : BitVec 5) (rs1 : BitVec 5) (shamt : BitVec 5) : LengthBits.Statement (.slliw rd rs1 shamt) :=
  lengthBits_word rfl (by decide)
theorem LengthBits.sraw (rd : BitVec 5) (rs1 : BitVec 5) (rs2 : BitVec 5) : LengthBits.Statement (.sraw rd rs1 rs2) :=
  lengthBits_word rfl (by decide)
theorem LengthBits.sraiw (rd : BitVec 5) (rs1 : BitVec 5) (shamt : BitVec 5) : LengthBits.Statement (.sraiw rd rs1 shamt) :=
  lengthBits_word rfl (by decide)
theorem LengthBits.srliw (rd : BitVec 5) (rs1 : BitVec 5) (shamt : BitVec 5) : LengthBits.Statement (.srliw rd rs1 shamt) :=
  lengthBits_word rfl (by decide)
theorem LengthBits.srlw (rd : BitVec 5) (rs1 : BitVec 5) (rs2 : BitVec 5) : LengthBits.Statement (.srlw rd rs1 rs2) :=
  lengthBits_word rfl (by decide)
theorem LengthBits.mulw (rd : BitVec 5) (rs1 : BitVec 5) (rs2 : BitVec 5) : LengthBits.Statement (.mulw rd rs1 rs2) :=
  lengthBits_word rfl (by decide)
theorem LengthBits.divw (rd : BitVec 5) (rs1 : BitVec 5) (rs2 : BitVec 5) : LengthBits.Statement (.divw rd rs1 rs2) :=
  lengthBits_word rfl (by decide)
theorem LengthBits.divuw (rd : BitVec 5) (rs1 : BitVec 5) (rs2 : BitVec 5) : LengthBits.Statement (.divuw rd rs1 rs2) :=
  lengthBits_word rfl (by decide)
theorem LengthBits.remw (rd : BitVec 5) (rs1 : BitVec 5) (rs2 : BitVec 5) : LengthBits.Statement (.remw rd rs1 rs2) :=
  lengthBits_word rfl (by decide)
theorem LengthBits.remuw (rd : BitVec 5) (rs1 : BitVec 5) (rs2 : BitVec 5) : LengthBits.Statement (.remuw rd rs1 rs2) :=
  lengthBits_word rfl (by decide)
theorem LengthBits.lrD (rd : BitVec 5) (rs1 : BitVec 5) (aq : BitVec 1) (rl : BitVec 1) : LengthBits.Statement (.lrD rd rs1 aq rl) :=
  lengthBits_word rfl (by decide)
theorem LengthBits.scD (rd : BitVec 5) (rs2 : BitVec 5) (rs1 : BitVec 5) (aq : BitVec 1) (rl : BitVec 1) : LengthBits.Statement (.scD rd rs2 rs1 aq rl) :=
  lengthBits_word rfl (by decide)
theorem LengthBits.amoaddD (rd : BitVec 5) (rs2 : BitVec 5) (rs1 : BitVec 5) (aq : BitVec 1) (rl : BitVec 1) : LengthBits.Statement (.amoaddD rd rs2 rs1 aq rl) :=
  lengthBits_word rfl (by decide)
theorem LengthBits.amoandD (rd : BitVec 5) (rs2 : BitVec 5) (rs1 : BitVec 5) (aq : BitVec 1) (rl : BitVec 1) : LengthBits.Statement (.amoandD rd rs2 rs1 aq rl) :=
  lengthBits_word rfl (by decide)
theorem LengthBits.amomaxD (rd : BitVec 5) (rs2 : BitVec 5) (rs1 : BitVec 5) (aq : BitVec 1) (rl : BitVec 1) : LengthBits.Statement (.amomaxD rd rs2 rs1 aq rl) :=
  lengthBits_word rfl (by decide)
theorem LengthBits.amomaxuD (rd : BitVec 5) (rs2 : BitVec 5) (rs1 : BitVec 5) (aq : BitVec 1) (rl : BitVec 1) : LengthBits.Statement (.amomaxuD rd rs2 rs1 aq rl) :=
  lengthBits_word rfl (by decide)
theorem LengthBits.amominD (rd : BitVec 5) (rs2 : BitVec 5) (rs1 : BitVec 5) (aq : BitVec 1) (rl : BitVec 1) : LengthBits.Statement (.amominD rd rs2 rs1 aq rl) :=
  lengthBits_word rfl (by decide)
theorem LengthBits.amominuD (rd : BitVec 5) (rs2 : BitVec 5) (rs1 : BitVec 5) (aq : BitVec 1) (rl : BitVec 1) : LengthBits.Statement (.amominuD rd rs2 rs1 aq rl) :=
  lengthBits_word rfl (by decide)
theorem LengthBits.amominuW (rd : BitVec 5) (rs2 : BitVec 5) (rs1 : BitVec 5) (aq : BitVec 1) (rl : BitVec 1) : LengthBits.Statement (.amominuW rd rs2 rs1 aq rl) :=
  lengthBits_word rfl (by decide)
theorem LengthBits.amoorD (rd : BitVec 5) (rs2 : BitVec 5) (rs1 : BitVec 5) (aq : BitVec 1) (rl : BitVec 1) : LengthBits.Statement (.amoorD rd rs2 rs1 aq rl) :=
  lengthBits_word rfl (by decide)
theorem LengthBits.amoswapD (rd : BitVec 5) (rs2 : BitVec 5) (rs1 : BitVec 5) (aq : BitVec 1) (rl : BitVec 1) : LengthBits.Statement (.amoswapD rd rs2 rs1 aq rl) :=
  lengthBits_word rfl (by decide)
theorem LengthBits.amoxorD (rd : BitVec 5) (rs2 : BitVec 5) (rs1 : BitVec 5) (aq : BitVec 1) (rl : BitVec 1) : LengthBits.Statement (.amoxorD rd rs2 rs1 aq rl) :=
  lengthBits_word rfl (by decide)
theorem LengthBits.fld (rd : BitVec 5) (rs1 : BitVec 5) (offset : BitVec 12) : LengthBits.Statement (.fld rd rs1 offset) :=
  lengthBits_word rfl (by decide)
theorem LengthBits.fsd (rs2 : BitVec 5) (rs1 : BitVec 5) (offset : BitVec 12) : LengthBits.Statement (.fsd rs2 rs1 offset) :=
  lengthBits_word rfl (by decide)
theorem LengthBits.fmaddD (rd : BitVec 5) (rs1 : BitVec 5) (rs2 : BitVec 5) (rs3 : BitVec 5) (rm : BitVec 3) : LengthBits.Statement (.fmaddD rd rs1 rs2 rs3 rm) :=
  lengthBits_word rfl (by decide)
theorem LengthBits.fmsubD (rd : BitVec 5) (rs1 : BitVec 5) (rs2 : BitVec 5) (rs3 : BitVec 5) (rm : BitVec 3) : LengthBits.Statement (.fmsubD rd rs1 rs2 rs3 rm) :=
  lengthBits_word rfl (by decide)
theorem LengthBits.fnmsubD (rd : BitVec 5) (rs1 : BitVec 5) (rs2 : BitVec 5) (rs3 : BitVec 5) (rm : BitVec 3) : LengthBits.Statement (.fnmsubD rd rs1 rs2 rs3 rm) :=
  lengthBits_word rfl (by decide)
theorem LengthBits.fnmaddD (rd : BitVec 5) (rs1 : BitVec 5) (rs2 : BitVec 5) (rs3 : BitVec 5) (rm : BitVec 3) : LengthBits.Statement (.fnmaddD rd rs1 rs2 rs3 rm) :=
  lengthBits_word rfl (by decide)
theorem LengthBits.faddD (rd : BitVec 5) (rs1 : BitVec 5) (rs2 : BitVec 5) (rm : BitVec 3) : LengthBits.Statement (.faddD rd rs1 rs2 rm) :=
  lengthBits_word rfl (by decide)
theorem LengthBits.fsubD (rd : BitVec 5) (rs1 : BitVec 5) (rs2 : BitVec 5) (rm : BitVec 3) : LengthBits.Statement (.fsubD rd rs1 rs2 rm) :=
  lengthBits_word rfl (by decide)
theorem LengthBits.fmulD (rd : BitVec 5) (rs1 : BitVec 5) (rs2 : BitVec 5) (rm : BitVec 3) : LengthBits.Statement (.fmulD rd rs1 rs2 rm) :=
  lengthBits_word rfl (by decide)
theorem LengthBits.fdivD (rd : BitVec 5) (rs1 : BitVec 5) (rs2 : BitVec 5) (rm : BitVec 3) : LengthBits.Statement (.fdivD rd rs1 rs2 rm) :=
  lengthBits_word rfl (by decide)
theorem LengthBits.fsqrtD (rd : BitVec 5) (rs1 : BitVec 5) (rm : BitVec 3) : LengthBits.Statement (.fsqrtD rd rs1 rm) :=
  lengthBits_word rfl (by decide)
theorem LengthBits.fsgnjD (rd : BitVec 5) (rs1 : BitVec 5) (rs2 : BitVec 5) : LengthBits.Statement (.fsgnjD rd rs1 rs2) :=
  lengthBits_word rfl (by decide)
theorem LengthBits.fsgnjnD (rd : BitVec 5) (rs1 : BitVec 5) (rs2 : BitVec 5) : LengthBits.Statement (.fsgnjnD rd rs1 rs2) :=
  lengthBits_word rfl (by decide)
theorem LengthBits.fsgnjxD (rd : BitVec 5) (rs1 : BitVec 5) (rs2 : BitVec 5) : LengthBits.Statement (.fsgnjxD rd rs1 rs2) :=
  lengthBits_word rfl (by decide)
theorem LengthBits.fminD (rd : BitVec 5) (rs1 : BitVec 5) (rs2 : BitVec 5) : LengthBits.Statement (.fminD rd rs1 rs2) :=
  lengthBits_word rfl (by decide)
theorem LengthBits.fmaxD (rd : BitVec 5) (rs1 : BitVec 5) (rs2 : BitVec 5) : LengthBits.Statement (.fmaxD rd rs1 rs2) :=
  lengthBits_word rfl (by decide)
theorem LengthBits.fcvtSD (rd : BitVec 5) (rs1 : BitVec 5) (rm : BitVec 3) : LengthBits.Statement (.fcvtSD rd rs1 rm) :=
  lengthBits_word rfl (by decide)
theorem LengthBits.fcvtDS (rd : BitVec 5) (rs1 : BitVec 5) (rm : BitVec 3) : LengthBits.Statement (.fcvtDS rd rs1 rm) :=
  lengthBits_word rfl (by decide)
theorem LengthBits.fcvtWD (rd : BitVec 5) (rs1 : BitVec 5) (rm : BitVec 3) : LengthBits.Statement (.fcvtWD rd rs1 rm) :=
  lengthBits_word rfl (by decide)
theorem LengthBits.fcvtWuD (rd : BitVec 5) (rs1 : BitVec 5) (rm : BitVec 3) : LengthBits.Statement (.fcvtWuD rd rs1 rm) :=
  lengthBits_word rfl (by decide)
theorem LengthBits.fcvtDW (rd : BitVec 5) (rs1 : BitVec 5) (rm : BitVec 3) : LengthBits.Statement (.fcvtDW rd rs1 rm) :=
  lengthBits_word rfl (by decide)
theorem LengthBits.fcvtDWu (rd : BitVec 5) (rs1 : BitVec 5) (rm : BitVec 3) : LengthBits.Statement (.fcvtDWu rd rs1 rm) :=
  lengthBits_word rfl (by decide)
theorem LengthBits.feqD (rd : BitVec 5) (rs1 : BitVec 5) (rs2 : BitVec 5) : LengthBits.Statement (.feqD rd rs1 rs2) :=
  lengthBits_word rfl (by decide)
theorem LengthBits.fltD (rd : BitVec 5) (rs1 : BitVec 5) (rs2 : BitVec 5) : LengthBits.Statement (.fltD rd rs1 rs2) :=
  lengthBits_word rfl (by decide)
theorem LengthBits.fleD (rd : BitVec 5) (rs1 : BitVec 5) (rs2 : BitVec 5) : LengthBits.Statement (.fleD rd rs1 rs2) :=
  lengthBits_word rfl (by decide)
theorem LengthBits.fmvDX (rd : BitVec 5) (rs1 : BitVec 5) : LengthBits.Statement (.fmvDX rd rs1) :=
  lengthBits_word rfl (by decide)
theorem LengthBits.fmvXD (rd : BitVec 5) (rs1 : BitVec 5) : LengthBits.Statement (.fmvXD rd rs1) :=
  lengthBits_word rfl (by decide)
theorem LengthBits.fcvtDL (rd : BitVec 5) (rs1 : BitVec 5) (rm : BitVec 3) : LengthBits.Statement (.fcvtDL rd rs1 rm) :=
  lengthBits_word rfl (by decide)
theorem LengthBits.fcvtDLu (rd : BitVec 5) (rs1 : BitVec 5) (rm : BitVec 3) : LengthBits.Statement (.fcvtDLu rd rs1 rm) :=
  lengthBits_word rfl (by decide)
theorem LengthBits.fcvtLD (rd : BitVec 5) (rs1 : BitVec 5) (rm : BitVec 3) : LengthBits.Statement (.fcvtLD rd rs1 rm) :=
  lengthBits_word rfl (by decide)
theorem LengthBits.fcvtLS (rd : BitVec 5) (rs1 : BitVec 5) (rm : BitVec 3) : LengthBits.Statement (.fcvtLS rd rs1 rm) :=
  lengthBits_word rfl (by decide)
theorem LengthBits.fcvtLuD (rd : BitVec 5) (rs1 : BitVec 5) (rm : BitVec 3) : LengthBits.Statement (.fcvtLuD rd rs1 rm) :=
  lengthBits_word rfl (by decide)
theorem LengthBits.fcvtLuS (rd : BitVec 5) (rs1 : BitVec 5) (rm : BitVec 3) : LengthBits.Statement (.fcvtLuS rd rs1 rm) :=
  lengthBits_word rfl (by decide)
theorem LengthBits.fcvtSL (rd : BitVec 5) (rs1 : BitVec 5) (rm : BitVec 3) : LengthBits.Statement (.fcvtSL rd rs1 rm) :=
  lengthBits_word rfl (by decide)
theorem LengthBits.fcvtSLu (rd : BitVec 5) (rs1 : BitVec 5) (rm : BitVec 3) : LengthBits.Statement (.fcvtSLu rd rs1 rm) :=
  lengthBits_word rfl (by decide)
theorem LengthBits.fclassD (rd : BitVec 5) (rs1 : BitVec 5) : LengthBits.Statement (.fclassD rd rs1) :=
  lengthBits_word rfl (by decide)
theorem LengthBits.cLd (rdp : BitVec 3) (rs1p : BitVec 3) (uimm : BitVec 5) : LengthBits.Statement (.cLd rdp rs1p uimm) :=
  lengthBits_half rfl (by decide)
theorem LengthBits.cLdsp (rd : BitVec 5) (uimm : BitVec 6) : LengthBits.Statement (.cLdsp rd uimm) :=
  lengthBits_half rfl (by decide)
theorem LengthBits.cSd (rs2p : BitVec 3) (rs1p : BitVec 3) (uimm : BitVec 5) : LengthBits.Statement (.cSd rs2p rs1p uimm) :=
  lengthBits_half rfl (by decide)
theorem LengthBits.cSdsp (rs2 : BitVec 5) (uimm : BitVec 6) : LengthBits.Statement (.cSdsp rs2 uimm) :=
  lengthBits_half rfl (by decide)
theorem LengthBits.cAddw (rdp : BitVec 3) (rs2p : BitVec 3) : LengthBits.Statement (.cAddw rdp rs2p) :=
  lengthBits_half rfl (by decide)
theorem LengthBits.cAddiw (rd : BitVec 5) (imm : BitVec 6) : LengthBits.Statement (.cAddiw rd imm) :=
  lengthBits_half rfl (by decide)
theorem LengthBits.cSubw (rdp : BitVec 3) (rs2p : BitVec 3) : LengthBits.Statement (.cSubw rdp rs2p) :=
  lengthBits_half rfl (by decide)
theorem LengthBits.cFld (rdp : BitVec 3) (rs1p : BitVec 3) (uimm : BitVec 5) : LengthBits.Statement (.cFld rdp rs1p uimm) :=
  lengthBits_half rfl (by decide)
theorem LengthBits.cFldsp (rd : BitVec 5) (uimm : BitVec 6) : LengthBits.Statement (.cFldsp rd uimm) :=
  lengthBits_half rfl (by decide)
theorem LengthBits.cFsd (rs2p : BitVec 3) (rs1p : BitVec 3) (uimm : BitVec 5) : LengthBits.Statement (.cFsd rs2p rs1p uimm) :=
  lengthBits_half rfl (by decide)
theorem LengthBits.cFsdsp (rs2 : BitVec 5) (uimm : BitVec 6) : LengthBits.Statement (.cFsdsp rs2 uimm) :=
  lengthBits_half rfl (by decide)
theorem LengthBits.vsetvli (rd : BitVec 5) (rs1 : BitVec 5) (zimm : BitVec 11) : LengthBits.Statement (.vsetvli rd rs1 zimm) :=
  lengthBits_word rfl (by decide)
theorem LengthBits.vsetvl (rd : BitVec 5) (rs1 : BitVec 5) (rs2 : BitVec 5) : LengthBits.Statement (.vsetvl rd rs1 rs2) :=
  lengthBits_word rfl (by decide)
theorem LengthBits.vlbV (vd : BitVec 5) (rs1 : BitVec 5) (vm : BitVec 1) : LengthBits.Statement (.vlbV vd rs1 vm) :=
  lengthBits_word rfl (by decide)
theorem LengthBits.vlhV (vd : BitVec 5) (rs1 : BitVec 5) (vm : BitVec 1) : LengthBits.Statement (.vlhV vd rs1 vm) :=
  lengthBits_word rfl (by decide)
theorem LengthBits.vlwV (vd : BitVec 5) (rs1 : BitVec 5) (vm : BitVec 1) : LengthBits.Statement (.vlwV vd rs1 vm) :=
  lengthBits_word rfl (by decide)
theorem LengthBits.vlbuV (vd : BitVec 5) (rs1 : BitVec 5) (vm : BitVec 1) : LengthBits.Statement (.vlbuV vd rs1 vm) :=
  lengthBits_word rfl (by decide)
theorem LengthBits.vlhuV (vd : BitVec 5) (rs1 : BitVec 5) (vm : BitVec 1) : LengthBits.Statement (.vlhuV vd rs1 vm) :=
  lengthBits_word rfl (by decide)
theorem LengthBits.vlwuV (vd : BitVec 5) (rs1 : BitVec 5) (vm : BitVec 1) : LengthBits.Statement (.vlwuV vd rs1 vm) :=
  lengthBits_word rfl (by decide)
theorem LengthBits.vleV (vd : BitVec 5) (rs1 : BitVec 5) (vm : BitVec 1) : LengthBits.Statement (.vleV vd rs1 vm) :=
  lengthBits_word rfl (by decide)
theorem LengthBits.vsbV (vs3 : BitVec 5) (rs1 : BitVec 5) (vm : BitVec 1) : LengthBits.Statement (.vsbV vs3 rs1 vm) :=
  lengthBits_word rfl (by decide)
theorem LengthBits.vshV (vs3 : BitVec 5) (rs1 : BitVec 5) (vm : BitVec 1) : LengthBits.Statement (.vshV vs3 rs1 vm) :=
  lengthBits_word rfl (by decide)
theorem LengthBits.vswV (vs3 : BitVec 5) (rs1 : BitVec 5) (vm : BitVec 1) : LengthBits.Statement (.vswV vs3 rs1 vm) :=
  lengthBits_word rfl (by decide)
theorem LengthBits.vseV (vs3 : BitVec 5) (rs1 : BitVec 5) (vm : BitVec 1) : LengthBits.Statement (.vseV vs3 rs1 vm) :=
  lengthBits_word rfl (by decide)
theorem LengthBits.vlsbV (vd : BitVec 5) (rs1 : BitVec 5) (rs2 : BitVec 5) (vm : BitVec 1) : LengthBits.Statement (.vlsbV vd rs1 rs2 vm) :=
  lengthBits_word rfl (by decide)
theorem LengthBits.vlshV (vd : BitVec 5) (rs1 : BitVec 5) (rs2 : BitVec 5) (vm : BitVec 1) : LengthBits.Statement (.vlshV vd rs1 rs2 vm) :=
  lengthBits_word rfl (by decide)
theorem LengthBits.vlswV (vd : BitVec 5) (rs1 : BitVec 5) (rs2 : BitVec 5) (vm : BitVec 1) : LengthBits.Statement (.vlswV vd rs1 rs2 vm) :=
  lengthBits_word rfl (by decide)
theorem LengthBits.vlsbuV (vd : BitVec 5) (rs1 : BitVec 5) (rs2 : BitVec 5) (vm : BitVec 1) : LengthBits.Statement (.vlsbuV vd rs1 rs2 vm) :=
  lengthBits_word rfl (by decide)
theorem LengthBits.vlshuV (vd : BitVec 5) (rs1 : BitVec 5) (rs2 : BitVec 5) (vm : BitVec 1) : LengthBits.Statement (.vlshuV vd rs1 rs2 vm) :=
  lengthBits_word rfl (by decide)
theorem LengthBits.vlswuV (vd : BitVec 5) (rs1 : BitVec 5) (rs2 : BitVec 5) (vm : BitVec 1) : LengthBits.Statement (.vlswuV vd rs1 rs2 vm) :=
  lengthBits_word rfl (by decide)
theorem LengthBits.vlseV (vd : BitVec 5) (rs1 : BitVec 5) (rs2 : BitVec 5) (vm : BitVec 1) : LengthBits.Statement (.vlseV vd rs1 rs2 vm) :=
  lengthBits_word rfl (by decide)
theorem LengthBits.vssbV (vs3 : BitVec 5) (rs1 : BitVec 5) (rs2 : BitVec 5) (vm : BitVec 1) : LengthBits.Statement (.vssbV vs3 rs1 rs2 vm) :=
  lengthBits_word rfl (by decide)
theorem LengthBits.vsshV (vs3 : BitVec 5) (rs1 : BitVec 5) (rs2 : BitVec 5) (vm : BitVec 1) : LengthBits.Statement (.vsshV vs3 rs1 rs2 vm) :=
  lengthBits_word rfl (by decide)
theorem LengthBits.vsswV (vs3 : BitVec 5) (rs1 : BitVec 5) (rs2 : BitVec 5) (vm : BitVec 1) : LengthBits.Statement (.vsswV vs3 rs1 rs2 vm) :=
  lengthBits_word rfl (by decide)
theorem LengthBits.vsseV (vs3 : BitVec 5) (rs1 : BitVec 5) (rs2 : BitVec 5) (vm : BitVec 1) : LengthBits.Statement (.vsseV vs3 rs1 rs2 vm) :=
  lengthBits_word rfl (by decide)
theorem LengthBits.vlxbV (vd : BitVec 5) (rs1 : BitVec 5) (vs2 : BitVec 5) (vm : BitVec 1) : LengthBits.Statement (.vlxbV vd rs1 vs2 vm) :=
  lengthBits_word rfl (by decide)
theorem LengthBits.vlxhV (vd : BitVec 5) (rs1 : BitVec 5) (vs2 : BitVec 5) (vm : BitVec 1) : LengthBits.Statement (.vlxhV vd rs1 vs2 vm) :=
  lengthBits_word rfl (by decide)
theorem LengthBits.vlxwV (vd : BitVec 5) (rs1 : BitVec 5) (vs2 : BitVec 5) (vm : BitVec 1) : LengthBits.Statement (.vlxwV vd rs1 vs2 vm) :=
  lengthBits_word rfl (by decide)
theorem LengthBits.vlxbuV (vd : BitVec 5) (rs1 : BitVec 5) (vs2 : BitVec 5) (vm : BitVec 1) : LengthBits.Statement (.vlxbuV vd rs1 vs2 vm) :=
  lengthBits_word rfl (by decide)
theorem LengthBits.vlxhuV (vd : BitVec 5) (rs1 : BitVec 5) (vs2 : BitVec 5) (vm : BitVec 1) : LengthBits.Statement (.vlxhuV vd rs1 vs2 vm) :=
  lengthBits_word rfl (by decide)
theorem LengthBits.vlxwuV (vd : BitVec 5) (rs1 : BitVec 5) (vs2 : BitVec 5) (vm : BitVec 1) : LengthBits.Statement (.vlxwuV vd rs1 vs2 vm) :=
  lengthBits_word rfl (by decide)
theorem LengthBits.vlxeV (vd : BitVec 5) (rs1 : BitVec 5) (vs2 : BitVec 5) (vm : BitVec 1) : LengthBits.Statement (.vlxeV vd rs1 vs2 vm) :=
  lengthBits_word rfl (by decide)
theorem LengthBits.vsxbV (vs3 : BitVec 5) (rs1 : BitVec 5) (vs2 : BitVec 5) (vm : BitVec 1) : LengthBits.Statement (.vsxbV vs3 rs1 vs2 vm) :=
  lengthBits_word rfl (by decide)
theorem LengthBits.vsxhV (vs3 : BitVec 5) (rs1 : BitVec 5) (vs2 : BitVec 5) (vm : BitVec 1) : LengthBits.Statement (.vsxhV vs3 rs1 vs2 vm) :=
  lengthBits_word rfl (by decide)
theorem LengthBits.vsxwV (vs3 : BitVec 5) (rs1 : BitVec 5) (vs2 : BitVec 5) (vm : BitVec 1) : LengthBits.Statement (.vsxwV vs3 rs1 vs2 vm) :=
  lengthBits_word rfl (by decide)
theorem LengthBits.vsxeV (vs3 : BitVec 5) (rs1 : BitVec 5) (vs2 : BitVec 5) (vm : BitVec 1) : LengthBits.Statement (.vsxeV vs3 rs1 vs2 vm) :=
  lengthBits_word rfl (by decide)
theorem LengthBits.vaddVv (vd : BitVec 5) (vs2 : BitVec 5) (vs1 : BitVec 5) (vm : BitVec 1) : LengthBits.Statement (.vaddVv vd vs2 vs1 vm) :=
  lengthBits_word rfl (by decide)
theorem LengthBits.vaddVx (vd : BitVec 5) (vs2 : BitVec 5) (rs1 : BitVec 5) (vm : BitVec 1) : LengthBits.Statement (.vaddVx vd vs2 rs1 vm) :=
  lengthBits_word rfl (by decide)
theorem LengthBits.vaddVi (vd : BitVec 5) (vs2 : BitVec 5) (simm5 : BitVec 5) (vm : BitVec 1) : LengthBits.Statement (.vaddVi vd vs2 simm5 vm) :=
  lengthBits_word rfl (by decide)
theorem LengthBits.vsubVv (vd : BitVec 5) (vs2 : BitVec 5) (vs1 : BitVec 5) (vm : BitVec 1) : LengthBits.Statement (.vsubVv vd vs2 vs1 vm) :=
  lengthBits_word rfl (by decide)
theorem LengthBits.vsubVx (vd : BitVec 5) (vs2 : BitVec 5) (rs1 : BitVec 5) (vm : BitVec 1) : LengthBits.Statement (.vsubVx vd vs2 rs1 vm) :=
  lengthBits_word rfl (by decide)
theorem LengthBits.vrsubVx (vd : BitVec 5) (vs2 : BitVec 5) (rs1 : BitVec 5) (vm : BitVec 1) : LengthBits.Statement (.vrsubVx vd vs2 rs1 vm) :=
  lengthBits_word rfl (by decide)
theorem LengthBits.vrsubVi (vd : BitVec 5) (vs2 : BitVec 5) (simm5 : BitVec 5) (vm : BitVec 1) : LengthBits.Statement (.vrsubVi vd vs2 simm5 vm) :=
  lengthBits_word rfl (by decide)
theorem LengthBits.vandVv (vd : BitVec 5) (vs2 : BitVec 5) (vs1 : BitVec 5) (vm : BitVec 1) : LengthBits.Statement (.vandVv vd vs2 vs1 vm) :=
  lengthBits_word rfl (by decide)
theorem LengthBits.vandVx (vd : BitVec 5) (vs2 : BitVec 5) (rs1 : BitVec 5) (vm : BitVec 1) : LengthBits.Statement (.vandVx vd vs2 rs1 vm) :=
  lengthBits_word rfl (by decide)
theorem LengthBits.vandVi (vd : BitVec 5) (vs2 : BitVec 5) (simm5 : BitVec 5) (vm : BitVec 1) : LengthBits.Statement (.vandVi vd vs2 simm5 vm) :=
  lengthBits_word rfl (by decide)
theorem LengthBits.vorVv (vd : BitVec 5) (vs2 : BitVec 5) (vs1 : BitVec 5) (vm : BitVec 1) : LengthBits.Statement (.vorVv vd vs2 vs1 vm) :=
  lengthBits_word rfl (by decide)
theorem LengthBits.vorVx (vd : BitVec 5) (vs2 : BitVec 5) (rs1 : BitVec 5) (vm : BitVec 1) : LengthBits.Statement (.vorVx vd vs2 rs1 vm) :=
  lengthBits_word rfl (by decide)
theorem LengthBits.vorVi (vd : BitVec 5) (vs2 : BitVec 5) (simm5 : BitVec 5) (vm : BitVec 1) : LengthBits.Statement (.vorVi vd vs2 simm5 vm) :=
  lengthBits_word rfl (by decide)
theorem LengthBits.vxorVv (vd : BitVec 5) (vs2 : BitVec 5) (vs1 : BitVec 5) (vm : BitVec 1) : LengthBits.Statement (.vxorVv vd vs2 vs1 vm) :=
  lengthBits_word rfl (by decide)
theorem LengthBits.vxorVx (vd : BitVec 5) (vs2 : BitVec 5) (rs1 : BitVec 5) (vm : BitVec 1) : LengthBits.Statement (.vxorVx vd vs2 rs1 vm) :=
  lengthBits_word rfl (by decide)
theorem LengthBits.vxorVi (vd : BitVec 5) (vs2 : BitVec 5) (simm5 : BitVec 5) (vm : BitVec 1) : LengthBits.Statement (.vxorVi vd vs2 simm5 vm) :=
  lengthBits_word rfl (by decide)
theorem LengthBits.vsllVv (vd : BitVec 5) (vs2 : BitVec 5) (vs1 : BitVec 5) (vm : BitVec 1) : LengthBits.Statement (.vsllVv vd vs2 vs1 vm) :=
  lengthBits_word rfl (by decide)
theorem LengthBits.vsllVx (vd : BitVec 5) (vs2 : BitVec 5) (rs1 : BitVec 5) (vm : BitVec 1) : LengthBits.Statement (.vsllVx vd vs2 rs1 vm) :=
  lengthBits_word rfl (by decide)
theorem LengthBits.vsllVi (vd : BitVec 5) (vs2 : BitVec 5) (simm5 : BitVec 5) (vm : BitVec 1) : LengthBits.Statement (.vsllVi vd vs2 simm5 vm) :=
  lengthBits_word rfl (by decide)
theorem LengthBits.vsrlVv (vd : BitVec 5) (vs2 : BitVec 5) (vs1 : BitVec 5) (vm : BitVec 1) : LengthBits.Statement (.vsrlVv vd vs2 vs1 vm) :=
  lengthBits_word rfl (by decide)
theorem LengthBits.vsrlVx (vd : BitVec 5) (vs2 : BitVec 5) (rs1 : BitVec 5) (vm : BitVec 1) : LengthBits.Statement (.vsrlVx vd vs2 rs1 vm) :=
  lengthBits_word rfl (by decide)
theorem LengthBits.vsrlVi (vd : BitVec 5) (vs2 : BitVec 5) (simm5 : BitVec 5) (vm : BitVec 1) : LengthBits.Statement (.vsrlVi vd vs2 simm5 vm) :=
  lengthBits_word rfl (by decide)
theorem LengthBits.vsraVv (vd : BitVec 5) (vs2 : BitVec 5) (vs1 : BitVec 5) (vm : BitVec 1) : LengthBits.Statement (.vsraVv vd vs2 vs1 vm) :=
  lengthBits_word rfl (by decide)
theorem LengthBits.vsraVx (vd : BitVec 5) (vs2 : BitVec 5) (rs1 : BitVec 5) (vm : BitVec 1) : LengthBits.Statement (.vsraVx vd vs2 rs1 vm) :=
  lengthBits_word rfl (by decide)
theorem LengthBits.vsraVi (vd : BitVec 5) (vs2 : BitVec 5) (simm5 : BitVec 5) (vm : BitVec 1) : LengthBits.Statement (.vsraVi vd vs2 simm5 vm) :=
  lengthBits_word rfl (by decide)
theorem LengthBits.vmseqVv (vd : BitVec 5) (vs2 : BitVec 5) (vs1 : BitVec 5) (vm : BitVec 1) : LengthBits.Statement (.vmseqVv vd vs2 vs1 vm) :=
  lengthBits_word rfl (by decide)
theorem LengthBits.vmseqVx (vd : BitVec 5) (vs2 : BitVec 5) (rs1 : BitVec 5) (vm : BitVec 1) : LengthBits.Statement (.vmseqVx vd vs2 rs1 vm) :=
  lengthBits_word rfl (by decide)
theorem LengthBits.vmseqVi (vd : BitVec 5) (vs2 : BitVec 5) (simm5 : BitVec 5) (vm : BitVec 1) : LengthBits.Statement (.vmseqVi vd vs2 simm5 vm) :=
  lengthBits_word rfl (by decide)
theorem LengthBits.vmsneVv (vd : BitVec 5) (vs2 : BitVec 5) (vs1 : BitVec 5) (vm : BitVec 1) : LengthBits.Statement (.vmsneVv vd vs2 vs1 vm) :=
  lengthBits_word rfl (by decide)
theorem LengthBits.vmsneVx (vd : BitVec 5) (vs2 : BitVec 5) (rs1 : BitVec 5) (vm : BitVec 1) : LengthBits.Statement (.vmsneVx vd vs2 rs1 vm) :=
  lengthBits_word rfl (by decide)
theorem LengthBits.vmsneVi (vd : BitVec 5) (vs2 : BitVec 5) (simm5 : BitVec 5) (vm : BitVec 1) : LengthBits.Statement (.vmsneVi vd vs2 simm5 vm) :=
  lengthBits_word rfl (by decide)
theorem LengthBits.vmsltuVv (vd : BitVec 5) (vs2 : BitVec 5) (vs1 : BitVec 5) (vm : BitVec 1) : LengthBits.Statement (.vmsltuVv vd vs2 vs1 vm) :=
  lengthBits_word rfl (by decide)
theorem LengthBits.vmsltuVx (vd : BitVec 5) (vs2 : BitVec 5) (rs1 : BitVec 5) (vm : BitVec 1) : LengthBits.Statement (.vmsltuVx vd vs2 rs1 vm) :=
  lengthBits_word rfl (by decide)
theorem LengthBits.vmsltVv (vd : BitVec 5) (vs2 : BitVec 5) (vs1 : BitVec 5) (vm : BitVec 1) : LengthBits.Statement (.vmsltVv vd vs2 vs1 vm) :=
  lengthBits_word rfl (by decide)
theorem LengthBits.vmsltVx (vd : BitVec 5) (vs2 : BitVec 5) (rs1 : BitVec 5) (vm : BitVec 1) : LengthBits.Statement (.vmsltVx vd vs2 rs1 vm) :=
  lengthBits_word rfl (by decide)
theorem LengthBits.vmsleuVv (vd : BitVec 5) (vs2 : BitVec 5) (vs1 : BitVec 5) (vm : BitVec 1) : LengthBits.Statement (.vmsleuVv vd vs2 vs1 vm) :=
  lengthBits_word rfl (by decide)
theorem LengthBits.vmsleuVx (vd : BitVec 5) (vs2 : BitVec 5) (rs1 : BitVec 5) (vm : BitVec 1) : LengthBits.Statement (.vmsleuVx vd vs2 rs1 vm) :=
  lengthBits_word rfl (by decide)
theorem LengthBits.vmsleuVi (vd : BitVec 5) (vs2 : BitVec 5) (simm5 : BitVec 5) (vm : BitVec 1) : LengthBits.Statement (.vmsleuVi vd vs2 simm5 vm) :=
  lengthBits_word rfl (by decide)
theorem LengthBits.vmsleVv (vd : BitVec 5) (vs2 : BitVec 5) (vs1 : BitVec 5) (vm : BitVec 1) : LengthBits.Statement (.vmsleVv vd vs2 vs1 vm) :=
  lengthBits_word rfl (by decide)
theorem LengthBits.vmsleVx (vd : BitVec 5) (vs2 : BitVec 5) (rs1 : BitVec 5) (vm : BitVec 1) : LengthBits.Statement (.vmsleVx vd vs2 rs1 vm) :=
  lengthBits_word rfl (by decide)
theorem LengthBits.vmsleVi (vd : BitVec 5) (vs2 : BitVec 5) (simm5 : BitVec 5) (vm : BitVec 1) : LengthBits.Statement (.vmsleVi vd vs2 simm5 vm) :=
  lengthBits_word rfl (by decide)
theorem LengthBits.vmsgtuVx (vd : BitVec 5) (vs2 : BitVec 5) (rs1 : BitVec 5) (vm : BitVec 1) : LengthBits.Statement (.vmsgtuVx vd vs2 rs1 vm) :=
  lengthBits_word rfl (by decide)
theorem LengthBits.vmsgtuVi (vd : BitVec 5) (vs2 : BitVec 5) (simm5 : BitVec 5) (vm : BitVec 1) : LengthBits.Statement (.vmsgtuVi vd vs2 simm5 vm) :=
  lengthBits_word rfl (by decide)
theorem LengthBits.vmsgtVx (vd : BitVec 5) (vs2 : BitVec 5) (rs1 : BitVec 5) (vm : BitVec 1) : LengthBits.Statement (.vmsgtVx vd vs2 rs1 vm) :=
  lengthBits_word rfl (by decide)
theorem LengthBits.vmsgtVi (vd : BitVec 5) (vs2 : BitVec 5) (simm5 : BitVec 5) (vm : BitVec 1) : LengthBits.Statement (.vmsgtVi vd vs2 simm5 vm) :=
  lengthBits_word rfl (by decide)
theorem LengthBits.vminuVv (vd : BitVec 5) (vs2 : BitVec 5) (vs1 : BitVec 5) (vm : BitVec 1) : LengthBits.Statement (.vminuVv vd vs2 vs1 vm) :=
  lengthBits_word rfl (by decide)
theorem LengthBits.vminuVx (vd : BitVec 5) (vs2 : BitVec 5) (rs1 : BitVec 5) (vm : BitVec 1) : LengthBits.Statement (.vminuVx vd vs2 rs1 vm) :=
  lengthBits_word rfl (by decide)
theorem LengthBits.vminVv (vd : BitVec 5) (vs2 : BitVec 5) (vs1 : BitVec 5) (vm : BitVec 1) : LengthBits.Statement (.vminVv vd vs2 vs1 vm) :=
  lengthBits_word rfl (by decide)
theorem LengthBits.vminVx (vd : BitVec 5) (vs2 : BitVec 5) (rs1 : BitVec 5) (vm : BitVec 1) : LengthBits.Statement (.vminVx vd vs2 rs1 vm) :=
  lengthBits_word rfl (by decide)
theorem LengthBits.vmaxuVv (vd : BitVec 5) (vs2 : BitVec 5) (vs1 : BitVec 5) (vm : BitVec 1) : LengthBits.Statement (.vmaxuVv vd vs2 vs1 vm) :=
  lengthBits_word rfl (by decide)
theorem LengthBits.vmaxuVx (vd : BitVec 5) (vs2 : BitVec 5) (rs1 : BitVec 5) (vm : BitVec 1) : LengthBits.Statement (.vmaxuVx vd vs2 rs1 vm) :=
  lengthBits_word rfl (by decide)
theorem LengthBits.vmaxVv (vd : BitVec 5) (vs2 : BitVec 5) (vs1 : BitVec 5) (vm : BitVec 1) : LengthBits.Statement (.vmaxVv vd vs2 vs1 vm) :=
  lengthBits_word rfl (by decide)
theorem LengthBits.vmaxVx (vd : BitVec 5) (vs2 : BitVec 5) (rs1 : BitVec 5) (vm : BitVec 1) : LengthBits.Statement (.vmaxVx vd vs2 rs1 vm) :=
  lengthBits_word rfl (by decide)
theorem LengthBits.vmulVv (vd : BitVec 5) (vs2 : BitVec 5) (vs1 : BitVec 5) (vm : BitVec 1) : LengthBits.Statement (.vmulVv vd vs2 vs1 vm) :=
  lengthBits_word rfl (by decide)
theorem LengthBits.vmulVx (vd : BitVec 5) (vs2 : BitVec 5) (rs1 : BitVec 5) (vm : BitVec 1) : LengthBits.Statement (.vmulVx vd vs2 rs1 vm) :=
  lengthBits_word rfl (by decide)
theorem LengthBits.vmulhVv (vd : BitVec 5) (vs2 : BitVec 5) (vs1 : BitVec 5) (vm : BitVec 1) : LengthBits.Statement (.vmulhVv vd vs2 vs1 vm) :=
  lengthBits_word rfl (by decide)
theorem LengthBits.vmulhVx (vd : BitVec 5) (vs2 : BitVec 5) (rs1 : BitVec 5) (vm : BitVec 1) : LengthBits.Statement (.vmulhVx vd vs2 rs1 vm) :=
  lengthBits_word rfl (by decide)
theorem LengthBits.vmulhuVv (vd : BitVec 5) (vs2 : BitVec 5) (vs1 : BitVec 5) (vm : BitVec 1) : LengthBits.Statement (.vmulhuVv vd vs2 vs1 vm) :=
  lengthBits_word rfl (by decide)
theorem LengthBits.vmulhuVx (vd : BitVec 5) (vs2 : BitVec 5) (rs1 : BitVec 5) (vm : BitVec 1) : LengthBits.Statement (.vmulhuVx vd vs2 rs1 vm) :=
  lengthBits_word rfl (by decide)
theorem LengthBits.vmulhsuVv (vd : BitVec 5) (vs2 : BitVec 5) (vs1 : BitVec 5) (vm : BitVec 1) : LengthBits.Statement (.vmulhsuVv vd vs2 vs1 vm) :=
  lengthBits_word rfl (by decide)
theorem LengthBits.vmulhsuVx (vd : BitVec 5) (vs2 : BitVec 5) (rs1 : BitVec 5) (vm : BitVec 1) : LengthBits.Statement (.vmulhsuVx vd vs2 rs1 vm) :=
  lengthBits_word rfl (by decide)
theorem LengthBits.vmaccVv (vd : BitVec 5) (vs2 : BitVec 5) (vs1 : BitVec 5) (vm : BitVec 1) : LengthBits.Statement (.vmaccVv vd vs2 vs1 vm) :=
  lengthBits_word rfl (by decide)
theorem LengthBits.vmaccVx (vd : BitVec 5) (vs2 : BitVec 5) (rs1 : BitVec 5) (vm : BitVec 1) : LengthBits.Statement (.vmaccVx vd vs2 rs1 vm) :=
  lengthBits_word rfl (by decide)
theorem LengthBits.vnmsacVv (vd : BitVec 5) (vs2 : BitVec 5) (vs1 : BitVec 5) (vm : BitVec 1) : LengthBits.Statement (.vnmsacVv vd vs2 vs1 vm) :=
  lengthBits_word rfl (by decide)
theorem LengthBits.vnmsacVx (vd : BitVec 5) (vs2 : BitVec 5) (rs1 : BitVec 5) (vm : BitVec 1) : LengthBits.Statement (.vnmsacVx vd vs2 rs1 vm) :=
  lengthBits_word rfl (by decide)
theorem LengthBits.vmaddVv (vd : BitVec 5) (vs2 : BitVec 5) (vs1 : BitVec 5) (vm : BitVec 1) : LengthBits.Statement (.vmaddVv vd vs2 vs1 vm) :=
  lengthBits_word rfl (by decide)
theorem LengthBits.vmaddVx (vd : BitVec 5) (vs2 : BitVec 5) (rs1 : BitVec 5) (vm : BitVec 1) : LengthBits.Statement (.vmaddVx vd vs2 rs1 vm) :=
  lengthBits_word rfl (by decide)
theorem LengthBits.vnmsubVv (vd : BitVec 5) (vs2 : BitVec 5) (vs1 : BitVec 5) (vm : BitVec 1) : LengthBits.Statement (.vnmsubVv vd vs2 vs1 vm) :=
  lengthBits_word rfl (by decide)
theorem LengthBits.vnmsubVx (vd : BitVec 5) (vs2 : BitVec 5) (rs1 : BitVec 5) (vm : BitVec 1) : LengthBits.Statement (.vnmsubVx vd vs2 rs1 vm) :=
  lengthBits_word rfl (by decide)

end Sys2Proof.Laws
end

