-- ==== Sys2Proof/Laws/Traps.lean ====
section
/-! SUPPORT. What a trap writes, as numbers: the cause word and the address of the handler. -/

namespace Sys2Proof.Machine

open Sys2Proof

/-- The cause word is the code, with the Interrupt bit on top (R60). -/
theorem causeWord_toNat (c : Config) (intr : Bool) (code : Nat) (h : code < 16) :
    (causeWord c intr code).toNat = (if intr then 2 ^ (c.xlen - 1) else 0) + code := by
  unfold causeWord bitIf
  have hx := xlen_cases c
  generalize c.xlen = n at *
  rcases hx with rfl | rfl <;> cases intr <;> interval_cases code <;> decide

/-- The handler's address: BASE, plus 4 times the code for an interrupt under MODE 1 (R711). -/
theorem vector_toNat {n : Nat} (hn : 2 ≤ n) (t : BitVec n) (intr : Bool) (code : Nat) :
    (vector t intr code).toNat = (t.toNat / 4 * 4 + if intr && t.toNat % 4 == 1 then 4 * code else 0) % 2 ^ n := by
  have hb : ((t >>> 2) <<< 2).toNat = t.toNat / 4 * 4 := by
    rw [BitVec.toNat_shiftLeft, BitVec.toNat_ushiftRight, Nat.shiftRight_eq_div_pow, Nat.shiftLeft_eq]
    rw [Nat.mod_eq_of_lt]; norm_num
    have := t.isLt; omega
  have hm : (t &&& 3 == 1) = (t.toNat % 4 == 1) := by
    have h3 : (3 : BitVec n).toNat = 2^2 - 1 := by
      have : 4 ≤ 2^n := by calc 4 = 2^2 := by norm_num
            _ ≤ 2^n := Nat.pow_le_pow_right (by norm_num) hn
      rw [show (3 : BitVec n) = BitVec.ofNat n 3 from rfl, BitVec.toNat_ofNat, Nat.mod_eq_of_lt (by omega)]; norm_num
    have h1 : (1 : BitVec n).toNat = 1 := by
      have : 4 ≤ 2^n := by calc 4 = 2^2 := by norm_num
            _ ≤ 2^n := Nat.pow_le_pow_right (by norm_num) hn
      simp; omega
    rw [Bool.eq_iff_iff]; simp only [beq_iff_eq]
    rw [← BitVec.toNat_inj, BitVec.toNat_and, h3, Nat.and_two_pow_sub_one_eq_mod, h1]
  unfold vector
  simp only [hm]
  split
  · rw [BitVec.toNat_add, hb]; simp
  · rw [hb, Nat.add_zero, Nat.mod_eq_of_lt]; have := t.isLt; omega

end Sys2Proof.Machine
end

