-- ==== Sys2Proof/Laws/Vector.lean ====
section
/-! SUPPORT. The layout of vector elements and masks: where an element lies, that two elements of a group never overlap,
what an element write leaves of every element, and what the element loop leaves. -/

namespace Sys2Proof.Machine

open Sys2Proof

variable {c : Config}

/-! ## Fields of a register -/

theorem getLsbD_setField {n w : Nat} (v : BitVec n) (p : Nat) (e : BitVec w) (i : Nat) :
    (setField v p e).getLsbD i =
      (decide (i < n) && if p ≤ i ∧ i < p + w then e.getLsbD (i - p) else v.getLsbD i) := by
  unfold setField
  simp only [BitVec.getLsbD_or, BitVec.getLsbD_and, BitVec.getLsbD_not, BitVec.getLsbD_shiftLeft,
    BitVec.getLsbD_setWidth, BitVec.getLsbD_allOnes]
  by_cases hi : i < n
  · by_cases hp : p ≤ i
    · by_cases hw : i < p + w
      · have h1 : i - p < w := by omega
        have h2 : i - p < n := by omega
        simp [hi, hp, hw, h1, h2, Nat.not_lt.2 hp]
      · have h1 : ¬i - p < w := by omega
        simp [hi, hp, hw, h1, BitVec.getLsbD_of_ge e (i - p) (by omega)]
    · simp [hi, hp, Nat.lt_of_not_le hp]
  · simp [hi, BitVec.getLsbD_of_ge v i (by omega)]

/-- Reading back the field written. -/
theorem extractLsb'_setField_same {n w : Nat} (v : BitVec n) (p : Nat) (e : BitVec w) (h : p + w ≤ n) :
    (setField v p e).extractLsb' p w = e := by
  apply BitVec.eq_of_getLsbD_eq
  intro i hi
  rw [BitVec.getLsbD_extractLsb', getLsbD_setField]
  simp [hi, show p + i < n by omega]

/-- Writing a field leaves every field that does not overlap it. -/
theorem extractLsb'_setField_of_disjoint {n w : Nat} (v : BitVec n) (p : Nat) (e : BitVec w) {q u : Nat}
    (h : q + u ≤ p ∨ p + w ≤ q) : (setField v p e).extractLsb' q u = v.extractLsb' q u := by
  apply BitVec.eq_of_getLsbD_eq
  intro i hi
  rw [BitVec.getLsbD_extractLsb', BitVec.getLsbD_extractLsb', getLsbD_setField]
  have : ¬(p ≤ q + i ∧ q + i < p + w) := by omega
  by_cases hn : q + i < n
  · simp [this, hn, hi]
  · simp [this, hn, hi, BitVec.getLsbD_of_ge v (q + i) (by omega)]

/-! ## Where elements lie (R85, R86) -/

theorem isPow2_iff {n : Nat} : isPow2 n = true ↔ n = 2 ^ n.log2 := by simp [isPow2]

/-- What a proper setting says of the sizes: E elements to a stripe, q stripes to a register. -/
theorem Hart.layout {h : Hart c} (hw : c.wf = true) (hv : h.vectorOk) (hill : h.vill = false) :
    ∃ E q : Nat, 0 < E ∧ 0 < q ∧ c.slen = E * h.sew ∧ c.vlen = q * c.slen ∧ h.vlmax = h.lmul * (q * E) ∧
      h.vl.toNat ≤ h.vlmax := by
  obtain ⟨hset, -⟩ := hv
  have hs : vtypeSupported c h.vtype = true ∧ h.vl.toNat ≤ vlmaxOf c h.vtype := by
    rcases hset with ⟨ht, -⟩ | hs
    · exfalso
      unfold Hart.vill at hill
      rw [ht] at hill
      have := xlen_pos c
      simp [BitVec.getLsbD_twoPow] at hill
      omega
    · exact hs
  obtain ⟨hsup, hvl⟩ := hs
  simp only [Config.wf, Bool.and_eq_true, decide_eq_true_eq, isPow2_iff] at hw
  obtain ⟨⟨⟨⟨⟨⟨⟨⟨⟨⟨-, -⟩, hV⟩, hE⟩, hS⟩, h32⟩, -⟩, hes⟩, hsv⟩, -⟩, -⟩ := hw
  simp only [vtypeSupported, Bool.and_eq_true, decide_eq_true_eq] at hsup
  have hsew : h.sew = 2 ^ (3 + (h.vtype.extractLsb' 2 3).toNat) := by
    unfold Hart.sew sewOf; rw [pow_add]; norm_num
  have hle : h.sew ≤ c.slen := le_trans hsup.2 hes
  have hlog : 3 + (h.vtype.extractLsb' 2 3).toNat ≤ c.slen.log2 := by
    rw [hsew, hS] at hle; exact (Nat.pow_le_pow_iff_right (by norm_num)).1 hle
  have hlog2 : c.slen.log2 ≤ c.vlen.log2 := by
    rw [hV, hS] at hsv; exact (Nat.pow_le_pow_iff_right (by norm_num)).1 hsv
  refine ⟨2 ^ (c.slen.log2 - (3 + (h.vtype.extractLsb' 2 3).toNat)), 2 ^ (c.vlen.log2 - c.slen.log2), by positivity,
    by positivity, ?_, ?_, ?_, hvl⟩
  · rw [hsew, ← pow_add, Nat.sub_add_cancel hlog]; exact hS
  · conv_lhs => rw [hV]
    conv_rhs => rw [hS]
    rw [Nat.log2_two_pow, ← pow_add, Nat.sub_add_cancel hlog2]
  · have hv2 : c.vlen = 2 ^ (c.vlen.log2 - c.slen.log2) *
        2 ^ (c.slen.log2 - (3 + (h.vtype.extractLsb' 2 3).toNat)) * h.sew := by
      rw [hsew, ← pow_add, ← pow_add]
      conv_lhs => rw [hV]
      congr 1; omega
    unfold Hart.vlmax vlmaxOf
    change h.lmul * c.vlen / h.sew = _
    have h0 : 0 < h.sew := by rw [hsew]; positivity
    exact Nat.div_eq_of_eq_mul_left h0 ((congrArg (h.lmul * ·) hv2).trans (mul_assoc ..).symm)

theorem Hart.lmul_cases (h : Hart c) : h.lmul = 1 ∨ h.lmul = 2 ∨ h.lmul = 4 ∨ h.lmul = 8 := by
  unfold Hart.lmul lmulOf
  have : (h.vtype.extractLsb' 0 2).toNat < 4 := (h.vtype.extractLsb' 0 2).isLt
  interval_cases (h.vtype.extractLsb' 0 2).toNat <;> simp

theorem Hart.lmul_pos (h : Hart c) : 0 < h.lmul := by rcases h.lmul_cases with e | e | e | e <;> omega

theorem Hart.eight_le_sew (h : Hart c) : 8 ≤ h.sew := by
  unfold Hart.sew sewOf
  have := Nat.one_le_two_pow (n := (h.vtype.extractLsb' 2 3).toNat)
  omega

/-- A group based at an aligned register lies within the 32 registers. -/
theorem group_lt {l n k : Nat} (hl : l = 1 ∨ l = 2 ∨ l = 4 ∨ l = 8) (hn : n < 32) (ha : n % l = 0) (hk : k < l) :
    n + k < 32 := by rcases hl with rfl | rfl | rfl | rfl <;> omega

/-- An element lies within its register. -/
theorem elemBit_le {E q sew lmul slen j : Nat} (hE : 0 < E) (hs : slen = E * sew) (hj : j < lmul * (q * E)) (hsew : 0 < sew) :
    j / (slen / sew) / lmul * slen + j % (slen / sew) * sew + sew ≤ q * slen := by
  have he : slen / sew = E := by rw [hs, Nat.mul_div_cancel _ hsew]
  rw [he]
  have hl : 0 < lmul := by rcases Nat.eq_zero_or_pos lmul with h0 | h0; · simp [h0] at hj
                           exact h0
  have h1 : j / E / lmul < q := by
    rw [Nat.div_div_eq_div_mul, Nat.div_lt_iff_lt_mul (by positivity)]
    calc j < lmul * (q * E) := hj
      _ = q * (E * lmul) := by ring
  have h2 : j % E + 1 ≤ E := Nat.mod_lt j hE
  calc j / E / lmul * slen + j % E * sew + sew = j / E / lmul * slen + (j % E + 1) * sew := by ring
    _ ≤ j / E / lmul * slen + E * sew := by gcongr
    _ = (j / E / lmul + 1) * slen := by rw [hs]; ring
    _ ≤ q * slen := by gcongr; omega

/-- Two elements of one group lie in different registers, or do not overlap. -/
theorem elem_disjoint {E sew lmul slen j k : Nat} (hE : 0 < E) (hs : slen = E * sew) (hsew : 0 < sew)
    (hjk : j ≠ k) (hr : j / (slen / sew) % lmul = k / (slen / sew) % lmul) :
    j / (slen / sew) / lmul * slen + j % (slen / sew) * sew + sew ≤
        k / (slen / sew) / lmul * slen + k % (slen / sew) * sew ∨
      k / (slen / sew) / lmul * slen + k % (slen / sew) * sew + sew ≤
        j / (slen / sew) / lmul * slen + j % (slen / sew) * sew := by
  have he : slen / sew = E := by rw [hs, Nat.mul_div_cancel _ hsew]
  rw [he] at hr ⊢
  have key : ∀ x y : Nat, x / E % lmul = y / E % lmul → x / E / lmul < y / E / lmul →
      x / E / lmul * slen + x % E * sew + sew ≤ y / E / lmul * slen + y % E * sew := by
    intro x y _ hlt
    have h2 : x % E + 1 ≤ E := Nat.mod_lt x hE
    calc x / E / lmul * slen + x % E * sew + sew = x / E / lmul * slen + (x % E + 1) * sew := by ring
      _ ≤ x / E / lmul * slen + E * sew := by gcongr
      _ = (x / E / lmul + 1) * slen := by rw [hs]; ring
      _ ≤ y / E / lmul * slen := by gcongr; omega
      _ ≤ _ := Nat.le_add_right _ _
  rcases Nat.lt_trichotomy (j / E / lmul) (k / E / lmul) with h | h | h
  · exact .inl (key j k hr h)
  · have h3 : j / E = k / E := by rw [← Nat.div_add_mod (j / E) lmul, ← Nat.div_add_mod (k / E) lmul, h, hr]
    have h4 : j % E ≠ k % E := by
      intro h5; apply hjk; rw [← Nat.div_add_mod j E, ← Nat.div_add_mod k E, h3, h5]
    rw [h3]
    rcases Nat.lt_or_gt_of_ne h4 with h6 | h6
    · left
      have : (j % E + 1) * sew ≤ k % E * sew := Nat.mul_le_mul_right _ h6
      linarith
    · right
      have : (k % E + 1) * sew ≤ j % E * sew := Nat.mul_le_mul_right _ h6
      linarith
  · exact .inr (key k j hr.symm h)

/-! ## Element writes (R87) -/

theorem Hart.setVelem_eq (h : Hart c) (n j : Nat) {w : Nat} (e : BitVec w) :
    h.setVelem n j e = { h with v := (h.setVelem n j e).v } := rfl

/-- Reading back the element written, as a number. -/
theorem Hart.elem_setVelem_same {h : Hart c} (hw : c.wf = true) (hv : h.vectorOk) (hill : h.vill = false) {n j : Nat}
    (hn : n < 32) (ha : n % h.lmul = 0) (hj : j < h.vlmax) {w : Nat} (e : BitVec w) :
    (h.setVelem n j e).elem n j = (e.setWidth h.sew).toNat := by
  obtain ⟨E, q, hE, -, hs, hq, hm, -⟩ := Hart.layout hw hv hill
  have hr : elemReg c h.sew h.lmul n j < 32 := group_lt h.lmul_cases hn ha (Nat.mod_lt _ h.lmul_pos)
  unfold Hart.elem Hart.velem
  change (((h.setVelem n j e).getV (elemReg c h.sew h.lmul n j)).extractLsb' (elemBit c h.sew h.lmul j) h.sew).toNat = _
  unfold Hart.setVelem
  rw [Hart.getV_setV_same _ hr, extractLsb'_setField_same]
  rw [hm] at hj
  have h8 := h.eight_le_sew
  have := elemBit_le (q := q) hE hs hj (by omega)
  rw [← hq] at this
  exact this

/-- Writing an element leaves every other element of every aligned group. -/
theorem Hart.elem_setVelem_of_ne {h : Hart c} (hw : c.wf = true) (hv : h.vectorOk) (hill : h.vill = false) {n m j k : Nat}
    (ha : n % h.lmul = 0) (hb : m % h.lmul = 0) (hne : m ≠ n ∨ k ≠ j) {w : Nat} (e : BitVec w) :
    (h.setVelem n j e).elem m k = h.elem m k := by
  obtain ⟨E, q, hE, -, hs, -, -, -⟩ := Hart.layout hw hv hill
  have h8 := h.eight_le_sew
  unfold Hart.elem Hart.velem
  change (((h.setVelem n j e).getV (elemReg c h.sew h.lmul m k)).extractLsb' (elemBit c h.sew h.lmul k) h.sew).toNat = _
  unfold Hart.setVelem
  by_cases hreg : elemReg c h.sew h.lmul m k = elemReg c h.sew h.lmul n j
  · rw [hreg]
    by_cases hlt : elemReg c h.sew h.lmul n j < 32
    · rw [Hart.getV_setV_same _ hlt, extractLsb'_setField_of_disjoint]
      have hmn : m = n := by
        unfold elemReg at hreg
        have h1 := Nat.mod_lt (k / (c.slen / h.sew)) h.lmul_pos
        have h2 := Nat.mod_lt (j / (c.slen / h.sew)) h.lmul_pos
        rcases h.lmul_cases with e | e | e | e <;> rw [e] at h1 h2 hreg ha hb <;> omega
      have hkj : k ≠ j := hne.resolve_left (fun h => h hmn)
      subst hmn
      have hreg' : k / (c.slen / h.sew) % h.lmul = j / (c.slen / h.sew) % h.lmul := by
        unfold elemReg at hreg; omega
      exact elem_disjoint hE hs (by omega) hkj hreg'
    · simp only [Hart.setV, Hart.getV]
      rw [Vector.setIfInBounds_eq_of_size_le (by omega)]
  · rw [Hart.getV_setV_of_ne _ hreg]

/-! ## The element loop (R555, R556, R600) -/

/-- What the loop leaves when no element raises an exception: whatever each element keeps from one to the next. -/
theorem vloop_next {body : Nat → Hart c → Res c} {P : Nat → Hart c → Prop} {count j : Nat} {h : Hart c} (h0 : P j h)
    (hstep : ∀ i k, j ≤ i → i < j + count → P i k → ∃ k', body i k = .next k' ∧ P (i + 1) k') :
    ∃ k, vloop body count j h = .next { k with vstart := 0 } ∧ P (j + count) k := by
  induction count generalizing j h with
  | zero => exact ⟨h, rfl, h0⟩
  | succ n ih =>
    obtain ⟨k', hb, hp⟩ := hstep j h (le_refl _) (by omega) h0
    obtain ⟨k, hk, hpk⟩ := ih hp (fun i k hi hlt => hstep i k (by omega) (by omega))
    refine ⟨k, ?_, by rwa [show j + (n + 1) = j + 1 + n by omega]⟩
    rw [vloop, hb]
    exact hk

/-- What the loop leaves when element `last` raises an exception: the work of the elements before it, and vstart. -/
theorem vloop_trap {body : Nat → Hart c → Res c} {P : Nat → Hart c → Prop} {count j last : Nat} {h : Hart c} (h0 : P j h)
    (hlo : j ≤ last) (hhi : last < j + count)
    (hstep : ∀ i k, j ≤ i → i < last → P i k → ∃ k', body i k = .next k' ∧ P (i + 1) k')
    {e : Exc} {tval : BitVec c.xlen} (htrap : ∀ k, P last k → body last k = .trap k e tval) :
    ∃ k, vloop body count j h = .trap { k with vstart := BitVec.ofNat c.xlen last } e tval ∧ P last k := by
  induction count generalizing j h with
  | zero => omega
  | succ n ih =>
    rcases Nat.eq_or_lt_of_le hlo with heq | hlt
    · subst heq
      refine ⟨h, ?_, h0⟩
      rw [vloop, htrap h h0]
    · obtain ⟨k', hb, hp⟩ := hstep j h (le_refl _) hlt h0
      obtain ⟨k, hk, hpk⟩ := ih hp (by omega) (by omega) (fun i k hi hl => hstep i k (by omega) hl)
      refine ⟨k, ?_, hpk⟩
      rw [vloop, hb]
      exact hk

theorem Hart.elem_congr {h t : Hart c} (hv : t.v = h.v) (ht : t.vtype = h.vtype) (n j : Nat) : t.elem n j = h.elem n j := by
  unfold Hart.elem Hart.velem Hart.getV Hart.sew Hart.lmul; rw [hv, ht]

theorem Hart.vmaskbit_congr {h t : Hart c} (h0 : t.getV 0 = h.getV 0) (ht : t.vtype = h.vtype) (j : Nat) :
    t.vmaskbit j = h.vmaskbit j := by
  unfold Hart.vmaskbit Hart.mlen Hart.sew Hart.lmul; rw [h0, ht]

/-- Where the element loop stands before element j: the active body elements below j of the group vd are `res`, every
other element and every other register is as in h, and so is everything else but what device reads leave. -/
structure Hart.Upto (h : Hart c) (vd : BitVec 5) (vm : BitVec 1) (res : Nat → Nat → Prop) (j : Nat) (k : Hart c) :
    Prop where
  frame : k = { h with v := k.v, draws := k.draws, ioOut := k.ioOut }
  elems : ∀ i < h.vlmax, (h.inBody vm i → i < j → res i (k.elem vd.toNat i)) ∧
    (¬(h.inBody vm i ∧ i < j) → k.elem vd.toNat i = h.elem vd.toNat i)
  others : h.OtherGroups k vd

theorem Hart.Upto.vtype {h k : Hart c} {vd vm res j} (hp : h.Upto vd vm res j k) : k.vtype = h.vtype := by
  rw [hp.frame]

theorem Hart.Upto.getX {h k : Hart c} {vd vm res j} (hp : h.Upto vd vm res j k) (r : BitVec 5) :
    k.getX r = h.getX r := Hart.getX_congr (by rw [hp.frame]) r

/-- Elements of another aligned group are as they were. -/
theorem Hart.Upto.elem_other {h k : Hart c} {vd vm res j} (hp : h.Upto vd vm res j k) {m : Nat}
    (ha : vd.toNat % h.lmul = 0) (hb : m % h.lmul = 0) (hm : m < 32) (hne : m ≠ vd.toNat) (i : Nat) :
    k.elem m i = h.elem m i := by
  have ht := hp.vtype
  have hreg : elemReg c h.sew h.lmul m i < 32 ∧
      (elemReg c h.sew h.lmul m i < vd.toNat ∨ vd.toNat + h.lmul ≤ elemReg c h.sew h.lmul m i) := by
    unfold elemReg
    have h1 := Nat.mod_lt (i / (c.slen / h.sew)) h.lmul_pos
    refine ⟨group_lt h.lmul_cases hm hb h1, ?_⟩
    rcases h.lmul_cases with e | e | e | e <;> rw [e] at h1 ha hb ⊢ <;> omega
  have hv := hp.others _ hreg.1 hreg.2
  unfold Hart.elem Hart.velem
  have hs : k.sew = h.sew := by unfold Hart.sew; rw [ht]
  have hl : k.lmul = h.lmul := by unfold Hart.lmul; rw [ht]
  rw [hs, hl, hv]

/-- An element of an aligned group, read when the loop reaches it, is what it was at the start. -/
theorem Hart.Upto.elem_source {h k : Hart c} {vd vm res j} (hp : h.Upto vd vm res j k) {m : Nat}
    (ha : vd.toNat % h.lmul = 0) (hb : m % h.lmul = 0) (hm : m < 32) (hj : j < h.vlmax) : k.elem m j = h.elem m j := by
  by_cases e : m = vd.toNat
  · subst e; exact (hp.elems j hj).2 (by simp)
  · exact hp.elem_other ha hb hm e j

/-- The mask is read as it was at the start: a masked instruction does not write v0. -/
theorem Hart.Upto.active {h k : Hart c} {vd vm res j} (hp : h.Upto vd vm res j k)
    (hm : maskOk vd vm = true) (i : Nat) : k.active vm i = h.active vm i := by
  unfold Hart.active
  by_cases hvm : vm = 1
  · simp [hvm]
  · have h0 : vm = 0 := (by decide : ∀ b : BitVec 1, b ≠ 1 → b = 0) vm hvm
    subst h0
    have hvd : vd.toNat ≠ 0 := by
      intro h0
      have : vd = 0 := BitVec.eq_of_toNat_eq (by simpa using h0)
      simp [maskOk, this] at hm
    have : 0 < vd.toNat := Nat.pos_of_ne_zero hvd
    simp [Hart.vmaskbit_congr (hp.others 0 (by norm_num) (.inl this)) hp.vtype i]

theorem Hart.upto_start (h : Hart c) (vd : BitVec 5) (vm : BitVec 1) (res : Nat → Nat → Prop) :
    h.Upto vd vm res h.vstart.toNat h :=
  ⟨rfl, fun i _ => ⟨fun hb hl => absurd hb.1 (by omega), fun _ => rfl⟩, fun _ _ _ => rfl⟩

/-- An inactive element: the loop goes on. -/
theorem Hart.Upto.skip {h k : Hart c} {vd vm res j} (hp : h.Upto vd vm res j k) (hj : ¬h.inBody vm j) :
    h.Upto vd vm res (j + 1) k := by
  refine ⟨hp.frame, fun i hi => ⟨fun hb hl => (hp.elems i hi).1 hb ?_, fun hn => (hp.elems i hi).2 ?_⟩, hp.others⟩
  · rcases Nat.lt_succ_iff_lt_or_eq.1 hl with h1 | h1
    · exact h1
    · exact absurd (h1 ▸ hb) hj
  · exact fun hb => hn ⟨hb.1, by omega⟩

/-- An active element written: the loop goes on. -/
theorem Hart.Upto.write {h k k' : Hart c} {vd vm res j} (hw : c.wf = true) (hv : h.vectorOk) (hill : h.vill = false)
    (hp : h.Upto vd vm res j k) (ha : vd.toNat % h.lmul = 0) (hj : j < h.vlmax)
    (hbody : h.inBody vm j) {w : Nat} {e : BitVec w} (he : res j (e.setWidth h.sew).toNat) (hk : k'.v = (k.setVelem vd.toNat j e).v)
    (hf : k' = { h with v := k'.v, draws := k'.draws, ioOut := k'.ioOut }) : h.Upto vd vm res (j + 1) k' := by
  have ht : k.vtype = h.vtype := hp.vtype
  have ht' : k'.vtype = h.vtype := by rw [hf]
  have hl : k.lmul = h.lmul := by unfold Hart.lmul; rw [ht]
  have hs : k.sew = h.sew := by unfold Hart.sew; rw [ht]
  have hvl : k.vlmax = h.vlmax := by unfold Hart.vlmax; rw [ht]
  have hkv : k.vectorOk := by unfold Hart.vectorOk at hv ⊢; rw [hp.frame]; exact hv
  have hki : k.vill = false := by unfold Hart.vill at hill ⊢; rw [ht]; exact hill
  have hcg : ∀ n i, k'.elem n i = (k.setVelem vd.toNat j e).elem n i := fun n i =>
    Hart.elem_congr hk (by rw [ht', ← ht]; rfl) n i
  refine ⟨hf, fun i hi => ?_, fun n hn hnv => ?_⟩
  · by_cases hij : i = j
    · subst hij
      have : k'.elem vd.toNat i = (e.setWidth h.sew).toNat := by
        rw [hcg, Hart.elem_setVelem_same hw hkv hki vd.isLt (by rw [hl]; exact ha) (by rw [hvl]; exact hj)]
        rw [hs]
      exact ⟨fun _ _ => by rw [this]; exact he, fun hn => absurd ⟨hbody, by omega⟩ hn⟩
    · have : k'.elem vd.toNat i = k.elem vd.toNat i := by
        rw [hcg, Hart.elem_setVelem_of_ne hw hkv hki (by rw [hl]; exact ha) (by rw [hl]; exact ha) (.inr hij)]
      rw [this]
      exact ⟨fun hb hlt => (hp.elems i hi).1 hb (by omega), fun hn => (hp.elems i hi).2 (fun hb => hn ⟨hb.1, by omega⟩)⟩
  · have h1 : k'.getV n = (k.setVelem vd.toNat j e).getV n := by unfold Hart.getV; rw [hk]
    rw [h1, Hart.setVelem, Hart.getV_setV_of_ne]
    · exact hp.others n hn hnv
    · rw [hs, hl]
      unfold elemReg
      have := Nat.mod_lt (j / (c.slen / h.sew)) h.lmul_pos
      omega

/-- The bits of an element of an aligned group, read when the loop reaches it, are what they were at the start. -/
theorem Hart.Upto.velem_source {h k : Hart c} {vd : BitVec 5} {vm res j} (hp : h.Upto vd vm res j k) (m : BitVec 5)
    (ha : vd.toNat % h.lmul = 0) (hb : m.toNat % h.lmul = 0) (hj : j < h.vlmax) :
    HEq (k.velem m.toNat j) (h.velem m.toNat j) := by
  have hs : k.sew = h.sew := by unfold Hart.sew; rw [hp.vtype]
  have key : ∀ {a b : Nat} (_ : a = b) (x : BitVec a) (y : BitVec b), x.toNat = y.toNat → HEq x y := by
    intro a b e x y hxy
    subst e
    exact heq_of_eq (BitVec.eq_of_toNat_eq hxy)
  exact key hs _ _ (hp.elem_source ha hb m.isLt hj)

/-- An element operation gives the same number for the same operands, whichever hart names their width. -/
theorem ElemOp.congr (f : ElemOp) {a b : Nat} (e : a = b) {x x' : BitVec a} {y y' : BitVec b} (h1 : HEq x y)
    (h2 : HEq x' y') : (f x x').toNat = (f y y').toNat := by
  subst e
  rw [eq_of_heq h1, eq_of_heq h2]

/-! ## The whole loop -/

theorem Hart.inBody_iff {h : Hart c} {vm : BitVec 1} {j : Nat} (h1 : h.vstart.toNat ≤ j)
    (h2 : j < h.vstart.toNat + (h.vl.toNat - h.vstart.toNat)) : h.inBody vm j ↔ h.active vm j = true :=
  ⟨fun h => h.2.2, fun h => ⟨h1, by omega, h⟩⟩

/-- The loop over the elements of a group at vd completes when its body does at every active body element; what the body
keeps (`P`) the loop keeps. -/
theorem Hart.elements_of {h : Hart c} (hw : c.wf = true) (hv : h.vectorOk) {vd : BitVec 5} {vm : BitVec 1}
    (hill : h.vill = false) (hm : maskOk vd vm = true) {body : Nat → Hart c → Res c}
    {res : Nat → Nat → Prop} {P : Hart c → Prop} (h0 : P h)
    (hb : ∀ j k, h.inBody vm j → j < h.vlmax → h.Upto vd vm res j k → P k →
      ∃ k', body j k = .next k' ∧ h.Upto vd vm res (j + 1) k' ∧ P k') :
    ∃ k, h.elements vm body = .next { k with vstart := 0 } ∧ h.Upto vd vm res h.vl.toNat k ∧ P k := by
  obtain ⟨E, q, -, -, -, -, -, hvl⟩ := Hart.layout hw hv hill
  unfold Hart.elements
  obtain ⟨k, hk, hp, hP⟩ := vloop_next (body := fun j h' => if h'.active vm j then body j h' else .next h')
    (P := fun j k => h.Upto vd vm res j k ∧ P k) (count := h.vl.toNat - h.vstart.toNat) ⟨h.upto_start vd vm res, h0⟩ (by
      rintro i k hi hlt ⟨hp, hP⟩
      have hact := hp.active hm i
      by_cases hb' : h.inBody vm i
      · have : k.active vm i = true := by rw [hact]; exact hb'.2.2
        simp only [this, if_true]
        exact hb i k hb' (by have := hb'.2.1; omega) hp hP
      · have : k.active vm i = false := by
          rw [hact]
          by_contra hc
          exact hb' ((Hart.inBody_iff hi hlt).2 (by simpa using hc))
        simp only [this]
        exact ⟨k, rfl, hp.skip hb', hP⟩)
  refine ⟨k, hk, ⟨hp.frame, fun i hi => ⟨fun hb' _ => (hp.elems i hi).1 hb' ?_, fun hn => (hp.elems i hi).2 ?_⟩,
    hp.others⟩, hP⟩
  · have := hb'.1
    have := hb'.2.1
    omega
  · exact fun hh => hn ⟨hh.1, hh.1.2.1⟩

/-- A vector arithmetic instruction: it writes `f` of its elements, or is illegal. -/
theorem State.varith_of {s : State} (hw : s.cfg.wf = true) (hv : s.hart.vectorOk) {i : Instr} {vd vs2 : BitVec 5}
    {vm : BitVec 1} {src : List (BitVec 5)} {f : ElemOp} {op1 : (h : Hart s.cfg) → Nat → BitVec h.sew} {res : Nat → Nat}
    (h : exec i s = s.run (encode i) (s.hart.varith vd vs2 vm src f op1))
    (hres : ∀ j k, s.hart.varithOk vd vm src = true → j < s.hart.vlmax →
      s.hart.Upto vd vm (fun i v => v = res i) j k → (f (k.velem vs2.toNat j) (op1 k j)).toNat = res j) :
    s.VRule i vd vm src res := by
  refine ⟨fun hok => ?_, fun hok => ?_⟩
  · have hok' := hok
    unfold Hart.varithOk at hok'
    simp only [Bool.and_eq_true, Bool.not_eq_true', List.all_eq_true] at hok'
    obtain ⟨⟨⟨hill, hg⟩, hm⟩, -⟩ := hok'
    have ha : vd.toNat % s.hart.lmul = 0 := by simpa [Hart.groupOk] using hg
    unfold Hart.varith at h
    rw [if_pos hok] at h
    obtain ⟨k, hk, hp, hio, hdr⟩ := Hart.elements_of hw hv (res := fun i v => v = res i)
      (P := fun k => k.ioOut = s.hart.ioOut ∧ k.draws = s.hart.draws)
      (body := fun j h' => .next (h'.setVelem vd.toNat j (f (h'.velem vs2.toNat j) (op1 h' j)))) hill hm ⟨rfl, rfl⟩ (by
        intro j k hb hj hp hP
        have hs : k.sew = s.hart.sew := by unfold Hart.sew; rw [hp.vtype]
        refine ⟨_, rfl, Hart.Upto.write hw hv hill hp ha hj hb (e := f (k.velem vs2.toNat j) (op1 k j)) ?_ rfl ?_, ?_⟩
        · rw [← hres j k hok hj hp, BitVec.toNat_setWidth, Nat.mod_eq_of_lt]
          rw [← hs]
          exact BitVec.isLt _
        · rw [Hart.setVelem_eq, hp.frame]
        · rw [Hart.setVelem_eq]
          exact hP)
    rw [hk] at h
    refine ⟨_, h.trans (s.run_next _ _), fun j hj => ⟨fun hb => ?_, fun hb => ?_⟩, hp.others, rfl, ⟨?_, ?_⟩, ?_⟩
    · exact (Hart.elem_congr (h := k) rfl rfl _ _).trans ((hp.elems j hj).1 hb hb.2.1)
    · exact (Hart.elem_congr (h := k) rfl rfl _ _).trans ((hp.elems j hj).2 (fun hh => hb hh.1))
    · simp only [Hart.finish_next]
      rw [hp.frame]
      rfl
    · simp only [Hart.finish_next]
      rw [hp.frame]
    · rw [hp.frame, hio, hdr, Hart.finish_next]
  · unfold Hart.varith at h
    rw [if_neg (by simp [hok])] at h
    exact State.raisesIllegal_of h

/-- The .vv form of an element operation. -/
theorem State.vvRule_of {s : State} (hw : s.cfg.wf = true) (hv : s.hart.vectorOk)
    {i : BitVec 5 → BitVec 5 → BitVec 5 → BitVec 1 → Instr} {vd vs2 vs1 : BitVec 5} {vm : BitVec 1} {f g : ElemOp}
    (h : exec (i vd vs2 vs1 vm) s = s.run (encode (i vd vs2 vs1 vm)) (s.hart.vvOp vd vs2 vs1 vm f))
    (hfg : ∀ {n} (a b : BitVec n), f a b = g a b) : s.VvRule i vd vs2 vs1 vm g := by
  refine State.varith_of hw hv h fun j k hok hj hp => ?_
  unfold Hart.varithOk at hok
  simp only [Bool.and_eq_true, Bool.not_eq_true', List.all_eq_true] at hok
  obtain ⟨⟨⟨-, hg⟩, -⟩, hall⟩ := hok
  have ha : vd.toNat % s.hart.lmul = 0 := by simpa [Hart.groupOk] using hg
  have h2 : vs2.toNat % s.hart.lmul = 0 := by simpa [Hart.groupOk] using hall vs2 (by simp)
  have h1 : vs1.toNat % s.hart.lmul = 0 := by simpa [Hart.groupOk] using hall vs1 (by simp)
  have hs : k.sew = s.hart.sew := by unfold Hart.sew; rw [hp.vtype]
  exact (ElemOp.congr f hs (hp.velem_source vs2 ha h2 hj) (hp.velem_source vs1 ha h1 hj)).trans (by rw [hfg])

/-- The forms of an element operation whose second operand is the same for every element: a scalar or an immediate. -/
theorem State.vconstRule_of {s : State} (hw : s.cfg.wf = true) (hv : s.hart.vectorOk) {i : Instr} {vd vs2 : BitVec 5}
    {vm : BitVec 1} {f g : ElemOp} {op1 : (h : Hart s.cfg) → Nat → BitVec h.sew} {b : BitVec s.hart.sew}
    (h : exec i s = s.run (encode i) (s.hart.varith vd vs2 vm [vs2] f op1))
    (hop : ∀ (k : Hart s.cfg) (j : Nat), k.x = s.hart.x → k.sew = s.hart.sew → HEq (op1 k j) b)
    (hfg : ∀ {n} (a b : BitVec n), f a b = g a b) :
    s.VRule i vd vm [vs2] fun j => (g (s.hart.velem vs2.toNat j) b).toNat := by
  refine State.varith_of hw hv h fun j k hok hj hp => ?_
  unfold Hart.varithOk at hok
  simp only [Bool.and_eq_true, Bool.not_eq_true', List.all_eq_true] at hok
  obtain ⟨⟨⟨-, hg⟩, -⟩, hall⟩ := hok
  have ha : vd.toNat % s.hart.lmul = 0 := by simpa [Hart.groupOk] using hg
  have h2 : vs2.toNat % s.hart.lmul = 0 := by simpa [Hart.groupOk] using hall vs2 (by simp)
  have hs : k.sew = s.hart.sew := by unfold Hart.sew; rw [hp.vtype]
  exact (ElemOp.congr f hs (hp.velem_source vs2 ha h2 hj) (hop k j (by rw [hp.frame]) hs)).trans (by rw [hfg])

end Sys2Proof.Machine
end

