-- ==== Sys2Proof/Laws/VectorMem.lean ====
section
/-! SUPPORT. What a vector store does: the write of one element, where the loop stands before each element, and what the
instruction leaves, whether it completes or an element raises an exception. -/

namespace Sys2Proof.Machine

open Sys2Proof

variable {c : Config}

/-! ## One element -/

/-- The n bytes of the number v have been stored at a, by one write or several: the bytes and the record of devices where
no byte is a device's, the other bytes, stale_code, the canonical form, and that nothing else has changed. -/
structure Hart.StoredBytes (h t : Hart c) (a : BitVec c.xlen) (n v : Nat) : Prop where
  frame : t = { h with mem := t.mem, stale := t.stale, ioOut := t.ioOut }
  wf : Memory.wf t.mem = true
  bytes : touchesIo c a n = false → ∀ k < n, (Memory.read t.mem (byteAddr a k)).toNat = v / 256 ^ k % 256
  record : touchesIo c a n = false → t.ioOut = h.ioOut
  others : ∀ b, (∀ k < n, b ≠ byteAddr a k) → Memory.read t.mem b = Memory.read h.mem b
  stale : ∀ b, b ∈ t.stale ↔ b ∈ h.stale ∨ ∃ k < n, b = byteAddr a k

theorem byteAddr_add {x : Nat} (a : BitVec x) (i k : Nat) : byteAddr (a + BitVec.ofNat x i) k = byteAddr a (i + k) := by
  unfold byteAddr
  rw [BitVec.ofNat_add, BitVec.add_assoc]

theorem touchesIo_eq_false {a : BitVec c.xlen} {n : Nat} :
    touchesIo c a n = false ↔ ∀ k < n, byteIsIo c (byteAddr a k) = false := by
  simp [touchesIo]

theorem Hart.storedBytes_writeMem {h : Hart c} (hm : Memory.wf h.mem = true) (a : BitVec c.xlen) {n : Nat} (hn : n ≤ 8)
    (v : BitVec 64) : h.StoredBytes (h.writeMem a n v) a n v.toNat := by
  obtain ⟨h1, h2, h3⟩ := Hart.stored_writeMem hm a hn v (t := h.writeMem a n v) rfl rfl rfl
  refine ⟨h.writeMem_eq a n v, Hart.writeMem_wf hm a n v, fun hio => (h1 hio).2.1, fun hio => (h1 hio).1, fun b hb => ?_,
    h3⟩
  cases hio : touchesIo c a n with
  | false => exact (h1 hio).2.2 b hb
  | true => rw [(h2 hio).1]

theorem Hart.storedBytes_writePieces {h : Hart c} (hm : Memory.wf h.mem = true) (a : BitVec c.xlen) {w : Nat}
    (e : BitVec w) (m : Nat) (hx : 8 * m ≤ 2 ^ c.xlen) : h.StoredBytes (writePieces a e m h) a (8 * m) e.toNat := by
  induction m with
  | zero =>
    exact ⟨rfl, hm, fun _ k hk => absurd hk (by omega), fun _ => rfl, fun _ _ => rfl, fun b => by
      simp [writePieces]⟩
  | succ m ih =>
    have p := ih (by omega)
    have q := Hart.storedBytes_writeMem p.wf (a + BitVec.ofNat c.xlen (8 * m)) (le_refl 8) (e.extractLsb' (64 * m) 64)
    rw [writePieces]
    set k := writePieces a e m h
    set k' := k.writeMem (a + BitVec.ofNat c.xlen (8 * m)) 8 (e.extractLsb' (64 * m) 64)
    have hio1 : touchesIo c a (8 * (m + 1)) = false → touchesIo c a (8 * m) = false := fun hio =>
      touchesIo_eq_false.2 fun i hi => touchesIo_eq_false.1 hio i (by omega)
    have hio2 : touchesIo c a (8 * (m + 1)) = false → touchesIo c (a + BitVec.ofNat c.xlen (8 * m)) 8 = false := fun hio =>
      touchesIo_eq_false.2 fun i hi => by rw [byteAddr_add]; exact touchesIo_eq_false.1 hio _ (by omega)
    refine ⟨?_, q.wf, fun hio i hi => ?_, fun hio => (q.record (hio2 hio)).trans (p.record (hio1 hio)), fun b hb => ?_,
      fun b => ?_⟩
    · rw [q.frame, p.frame]
    · by_cases hlt : i < 8 * m
      · rw [q.others, p.bytes (hio1 hio) i hlt]
        intro j hj he
        rw [byteAddr_add] at he
        have := byteAddr_inj (by omega) (by omega) he
        omega
      · have hb := q.bytes (hio2 hio) (i - 8 * m) (by omega)
        rw [byteAddr_add, show 8 * m + (i - 8 * m) = i by omega] at hb
        rw [hb, BitVec.extractLsb'_toNat, Nat.shiftRight_eq_div_pow,
          show 256 ^ i = 2 ^ (64 * m) * 256 ^ (i - 8 * m) by
            rw [show (256 : Nat) = 2 ^ 8 by norm_num, ← pow_mul, ← pow_mul, ← pow_add]; congr 1; omega,
          ← Nat.div_div_eq_div_mul]
        generalize e.toNat / 2 ^ (64 * m) = y
        have hr : i - 8 * m < 8 := by omega
        generalize i - 8 * m = r at hr
        interval_cases r <;> norm_num <;> omega
    · rw [q.others b fun j hj => by rw [byteAddr_add]; exact hb _ (by omega), p.others b fun j hj => hb j (by omega)]
    · rw [q.stale, p.stale]
      constructor
      · rintro ((h1 | ⟨i, hi, rfl⟩) | ⟨i, hi, rfl⟩)
        · exact .inl h1
        · exact .inr ⟨i, by omega, rfl⟩
        · exact .inr ⟨8 * m + i, by omega, byteAddr_add ..⟩
      · rintro (h1 | ⟨i, hi, rfl⟩)
        · exact .inl (.inl h1)
        · by_cases hlt : i < 8 * m
          · exact .inl (.inr ⟨i, hlt, rfl⟩)
          · exact .inr ⟨i - 8 * m, by omega, by rw [byteAddr_add]; congr 1; omega⟩

/-- What the write of an element of w bits leaves, w a multiple of 8, and of 64 above 64 (R101, R108). -/
theorem Hart.storedBytes_writeElem {h : Hart c} (hm : Memory.wf h.mem = true) (a : BitVec c.xlen) {w : Nat} (e : BitVec w)
    (h8 : 8 ∣ w) (h64 : 64 < w → 64 ∣ w) (hx : w ≤ 2 ^ c.xlen) : h.StoredBytes (h.writeElem a e) a (w / 8) e.toNat := by
  unfold Hart.writeElem
  split
  · have p := Hart.storedBytes_writeMem hm a (n := w / 8) (by omega) (e.setWidth 64)
    rwa [BitVec.toNat_setWidth, Nat.mod_eq_of_lt] at p
    exact lt_of_lt_of_le e.isLt (Nat.pow_le_pow_right (by norm_num) (by omega))
  · have hd := h64 (by omega)
    have p := Hart.storedBytes_writePieces hm a e (w / 64) (by omega)
    rwa [show 8 * (w / 64) = w / 8 by omega] at p

/-! ## The element loop -/

/-- Where the loop of a store stands before element j: what `VStored` says of the elements below j, memory in canonical
form, and everything else as in h. -/
structure Hart.StoredUpto (h : Hart c) (vs3 : BitVec 5) (vm : BitVec 1) (w : Nat) (addr : Nat → BitVec c.xlen) (j : Nat)
    (k : Hart c) : Prop where
  frame : k = { h with mem := k.mem, stale := k.stale, ioOut := k.ioOut }
  wf : Memory.wf k.mem = true
  stored : h.VStored k vs3 vm w j addr

theorem Hart.storedUpto_start {h : Hart c} (hm : Memory.wf h.mem = true) (vs3 : BitVec 5) (vm : BitVec 1) (w : Nat)
    (addr : Nat → BitVec c.xlen) : h.StoredUpto vs3 vm w addr h.vstart.toNat h := by
  have hno : ∀ j, h.inBody vm j → ¬j < h.vstart.toNat := fun j hb => by have := hb.1; omega
  refine ⟨rfl, hm, fun _ _ => rfl, fun j k hb hj => absurd hj (hno j hb), fun b => ⟨.inl, ?_⟩, fun _ => rfl⟩
  rintro (h1 | ⟨j, k, hb, hj, -⟩)
  · exact h1
  · exact absurd hj (hno j hb)

theorem Hart.StoredUpto.skip {h k : Hart c} {vs3 vm w addr j} (hp : h.StoredUpto vs3 vm w addr j k)
    (hj : ¬h.inBody vm j) : h.StoredUpto vs3 vm w addr (j + 1) k := by
  have hlt : ∀ i, h.inBody vm i → i < j + 1 → i < j := fun i hb hi => by
    rcases Nat.lt_succ_iff_lt_or_eq.1 hi with h1 | h1
    · exact h1
    · exact absurd (h1 ▸ hb) hj
  obtain ⟨s1, s2, s3, s4⟩ := hp.stored
  refine ⟨hp.frame, hp.wf, fun b hb => s1 b fun i n hi hl hn => hb i n hi (by omega) hn,
    fun i n hi hl hn hio hlast => s2 i n hi (hlt i hi hl) hn hio fun i' n' h1 h2 h3 h4 => hlast i' n' h1 (by omega) h3 h4,
    fun b => ?_, fun hio => s4 fun i hi hl => hio i hi (by omega)⟩
  rw [s3]
  constructor
  · rintro (h1 | ⟨i, n, hi, hl, hn, he⟩)
    · exact .inl h1
    · exact .inr ⟨i, n, hi, by omega, hn, he⟩
  · rintro (h1 | ⟨i, n, hi, hl, hn, he⟩)
    · exact .inl h1
    · exact .inr ⟨i, n, hi, hlt i hi hl, hn, he⟩

theorem Hart.StoredUpto.write {h k k' : Hart c} {vs3 vm w addr j} (hp : h.StoredUpto vs3 vm w addr j k) {v : Nat}
    (hb : h.inBody vm j) (hw : k.StoredBytes k' (addr j) (w / 8) v)
    (hv : ∀ n < w / 8, v / 256 ^ n % 256 = h.elem vs3.toNat j / 256 ^ n % 256) :
    h.StoredUpto vs3 vm w addr (j + 1) k' := by
  obtain ⟨s1, s2, s3, s4⟩ := hp.stored
  refine ⟨by rw [hw.frame, hp.frame], hw.wf, fun b hbb => ?_, fun i n hi hl hn hio hlast => ?_, fun b => ?_, fun hio => ?_⟩
  · rw [hw.others b fun n hn => hbb j n hb (by omega) hn, s1 b fun i n hi hl hn => hbb i n hi (by omega) hn]
  · rcases Nat.lt_succ_iff_lt_or_eq.1 hl with h1 | rfl
    · rw [hw.others _ fun n' hn' => (hlast j n' h1 (by omega) hb hn').symm]
      exact s2 i n hi h1 hn hio fun i' n' e1 e2 e3 e4 => hlast i' n' e1 (by omega) e3 e4
    · rw [hw.bytes hio n hn, hv n hn]
  · rw [hw.stale, s3]
    constructor
    · rintro ((h1 | ⟨i, n, hi, hl, hn, he⟩) | ⟨n, hn, he⟩)
      · exact .inl h1
      · exact .inr ⟨i, n, hi, by omega, hn, he⟩
      · exact .inr ⟨j, n, hb, by omega, hn, he⟩
    · rintro (h1 | ⟨i, n, hi, hl, hn, he⟩)
      · exact .inl (.inl h1)
      · rcases Nat.lt_succ_iff_lt_or_eq.1 hl with h1 | rfl
        · exact .inl (.inr ⟨i, n, hi, h1, hn, he⟩)
        · exact .inr ⟨n, hn, he⟩
  · rw [hw.record (hio j hb (by omega))]
    exact s4 fun i hi hl => hio i hi (by omega)

/-! ## The instruction -/

/-- What a vector store leaves, from its call of the element loop. The address an element is stored at is computed in the
hart the loop has reached, which agrees with the first one on the registers. -/
theorem State.vstoreRule_of {s : State} (hm : Memory.wf s.hart.mem = true) {i : Instr} {vs3 : BitVec 5} {vm : BitVec 1}
    {legal : Bool} {w : Nat} {addr : Nat → BitVec s.cfg.xlen} {addrIn : Hart s.cfg → Nat → BitVec s.cfg.xlen}
    (h : exec i s = s.run (encode i)
      (if legal then s.hart.elements vm fun j k => k.storeElem vs3 j (addrIn k j) w else .illegal))
    (haddr : ∀ k j, k = { s.hart with mem := k.mem, stale := k.stale, ioOut := k.ioOut } → addrIn k j = addr j)
    (h8 : 8 ∣ w) (h64 : 64 < w → 64 ∣ w) (hx : w ≤ 2 ^ s.cfg.xlen) :
    s.VStoreRule i vs3 vm legal w addr := by
  have hcount : ∀ j, s.hart.inBody vm j → s.hart.vstart.toNat ≤ j ∧
      j < s.hart.vstart.toNat + (s.hart.vl.toNat - s.hart.vstart.toNat) := fun j hb => ⟨hb.1, by
    have := hb.1; have := hb.2.1; omega⟩
  have hstep : ∀ j k, legal = true → s.hart.vstart.toNat ≤ j →
      j < s.hart.vstart.toNat + (s.hart.vl.toNat - s.hart.vstart.toNat) →
      (s.hart.inBody vm j → AccessOk s.cfg .store (addr j) (w / 8)) → s.hart.StoredUpto vs3 vm w addr j k →
      ∃ k', (if k.active vm j then k.storeElem vs3 j (addrIn k j) w else .next k) = .next k' ∧
        s.hart.StoredUpto vs3 vm w addr (j + 1) k' := by
    intro j k hl h1 h2 hok hp
    have hact : k.active vm j = s.hart.active vm j := by rw [hp.frame]; rfl
    by_cases hb : s.hart.inBody vm j
    · rw [hact, if_pos hb.2.2, Hart.storeElem, haddr k j hp.frame, accessCheck_eq_none.2 (hok hb)]
      refine ⟨_, rfl, hp.write hb (Hart.storedBytes_writeElem hp.wf _ _ h8 h64 hx) fun n hn => ?_⟩
      have he : (k.velem vs3.toNat j).toNat = s.hart.elem vs3.toNat j :=
        Hart.elem_congr (by rw [hp.frame]) (by rw [hp.frame]) vs3.toNat j
      rw [BitVec.toNat_setWidth, he, show (256 : Nat) = 2 ^ 8 by norm_num, ← pow_mul]
      have : 8 * n + 8 ≤ w := by omega
      refine Nat.eq_of_testBit_eq fun b => ?_
      simp only [Nat.testBit_mod_two_pow, Nat.testBit_div_two_pow]
      by_cases hb8 : b < 8
      · simp [show b + 8 * n < w by omega]
      · simp [hb8]
    · have : s.hart.active vm j = false := by
        by_contra hc
        exact hb ((Hart.inBody_iff h1 h2).2 (by simpa using hc))
      rw [hact, this]
      exact ⟨k, rfl, hp.skip hb⟩
  refine ⟨fun hl => ?_, fun hl hok => ?_, fun hl j e hb hok he => ?_⟩
  · rw [hl] at h; exact State.raisesIllegal_of h
  · rw [hl, if_pos rfl] at h
    obtain ⟨k, hk, hp⟩ := vloop_next (P := s.hart.StoredUpto vs3 vm w addr)
      (body := fun j h' => if h'.active vm j then h'.storeElem vs3 j (addrIn h' j) w else .next h')
      (count := s.hart.vl.toNat - s.hart.vstart.toNat)
      (Hart.storedUpto_start hm vs3 vm w addr) (fun i k hi hlt hp => hstep i k hl hi hlt (hok i) hp)
    unfold Hart.elements at h
    rw [hk] at h
    have hstop : s.hart.VStored k vs3 vm w s.hart.vl.toNat addr := by
      obtain ⟨s1, s2, s3, s4⟩ := hp.stored
      have e : ∀ i, s.hart.inBody vm i →
          (i < s.hart.vstart.toNat + (s.hart.vl.toNat - s.hart.vstart.toNat) ↔ i < s.hart.vl.toNat) := fun i hi =>
        ⟨fun _ => hi.2.1, fun _ => (hcount i hi).2⟩
      refine ⟨fun b hbb => s1 b fun i n hi hl' hn => hbb i n hi ((e i hi).1 hl') hn,
        fun i n hi hl' hn hio hlast => s2 i n hi ((e i hi).2 hl') hn hio fun i' n' e1 e2 e3 e4 =>
          hlast i' n' e1 ((e i' e3).1 e2) e3 e4, fun b => ?_, fun hio => s4 fun i hi hl' => hio i hi ((e i hi).1 hl')⟩
      rw [s3]
      exact or_congr_right ⟨fun ⟨i, n, hi, hl', hr⟩ => ⟨i, n, hi, (e i hi).1 hl', hr⟩,
        fun ⟨i, n, hi, hl', hr⟩ => ⟨i, n, hi, (e i hi).2 hl', hr⟩⟩
    refine ⟨_, h.trans (s.run_next _ _), hstop, rfl, ⟨?_, ?_⟩, ?_⟩
    · rw [Hart.finish_next, hp.frame]; rfl
    · rw [Hart.finish_next, hp.frame]
    · rw [Hart.finish_next, hp.frame]
  · rw [hl, if_pos rfl] at h
    obtain ⟨k, hk, hp⟩ := vloop_trap (P := s.hart.StoredUpto vs3 vm w addr) (e := e) (tval := addr j)
      (body := fun j h' => if h'.active vm j then h'.storeElem vs3 j (addrIn h' j) w else .next h')
      (count := s.hart.vl.toNat - s.hart.vstart.toNat) (Hart.storedUpto_start hm vs3 vm w addr) (hcount j hb).1
      (hcount j hb).2 (fun i k hi hlt hp => hstep i k hl hi (by have := (hcount j hb).2; omega) (hok i hlt) hp)
      (fun k hp => by
        have hact : k.active vm j = s.hart.active vm j := by rw [hp.frame]; rfl
        simp only [hact, hb.2.2, if_true, Hart.storeElem, haddr k j hp.frame, he])
    unfold Hart.elements at h
    rw [hk] at h
    refine ⟨_, h.trans (s.run_next _ _), ?_, hp.stored, ?_⟩
    · have h1 := hb.2.1
      have h2 := s.hart.vl.isLt
      simp only [BitVec.toNat_ofNat]
      exact Nat.mod_eq_of_lt (by omega)
    · rw [hp.frame]

end Sys2Proof.Machine
end

