-- ==== Sys2Proof/Tests/Slice0.lean ====
section
/-! SUPPORT. The model's own tests. The well-formedness smoke; one word of every instruction, written from the spec's
encoding, with what it decodes to; one step of some eighty instructions; and, for every obligation with hypotheses, values
that meet them. The words and the expected results of the step tests are those of the spec's derived vectors (files 95
to 97, whose numbers T<n>.<m> are quoted); the fifteen words that those files do not have are assembled from the fixed
bits and field positions of opcode_table.json. -/

set_option maxRecDepth 20000

namespace Sys2Proof.Tests

open Sys2Proof Sys2Proof.Machine

variable {c : Config}

/-! ## The machine of the spec's vectors (95_test_vectors.md, Conventions) -/

/-- Main memory from 0x80000000 to 0x8000FFFF and nothing else. -/
def vectorPma : List Region :=
  [{ base := 0x80000000, size := 0x10000, kind := .memory, read := true, write := true, exec := true, atomic := true }]

/-- Profile RV32. -/
def rv32 : Config := { Config.rv32Default with pma := vectorPma }

/-- Profile RV64. -/
def rv64 : Config := { Config.rv64Default with pma := vectorPma }

/-- The hart after reset, with mtvec = 0x80000100. -/
def start (c : Config) : Hart c := { Hart.reset c with mtvec := 0x80000100, mtvecSet := true }

/-- x[r] = v. -/
def xIs (r v : Nat) (h : Hart c) : Hart c := h.setX (BitVec.ofNat 5 r) (BitVec.ofNat _ v)

/-- f[r] = v. -/
def fIs (r v : Nat) (h : Hart c) : Hart c := { h with f := h.f.setIfInBounds r (BitVec.ofNat _ v) }

/-- mstatus.FS = v. -/
def fsIs (v : Nat) (h : Hart c) : Hart c := { h with mstatus := { h.mstatus with fs := BitVec.ofNat 2 v } }

/-- v[r] = v. -/
def vIs (r v : Nat) (h : Hart c) : Hart c := h.setV r (BitVec.ofNat _ v)

/-- The elements of the group at r from j on. -/
def elems (r : Nat) : Nat → List Nat → Hart c → Hart c
  | _, [], h => h
  | j, v :: rest, h => elems r (j + 1) rest (h.setVelem r j (BitVec.ofNat 64 v))

/-- The group at r has these elements from j on. -/
def hasElems (r : Nat) : Nat → List Nat → Hart c → Bool
  | _, [], _ => true
  | j, v :: rest, h => (h.velem r j).toNat == v && hasElems r (j + 1) rest h

/-- Memory holds these items of n bytes from a on. -/
def memIs : Nat → Nat → List Nat → Hart c → Hart c
  | _, _, [], h => h
  | a, n, v :: rest, h =>
    memIs (a + n) n rest { h with mem := Memory.store h.mem (BitVec.ofNat c.xlen a) (BitVec.ofNat 64 v) n }

/-- Whether memory holds these items of n bytes from a on. -/
def holds : Nat → Nat → List Nat → Hart c → Bool
  | _, _, [], _ => true
  | a, n, v :: rest, h => (h.readValue (BitVec.ofNat c.xlen a) n).toNat == v && holds (a + n) n rest h

/-- One step that executes the instruction bits w in the state set up leaves a hart that passes the check. -/
noncomputable def after (c : Config) (setup : List (Hart c → Hart c)) (w : Nat) (check : Hart c → Bool) : Bool :=
  match step ((State.mk c (setup.foldl (fun h f => f h) (start c))).withFetchWord 32 w) with
  | .next t => if e : t.cfg = c then check (e ▸ t.hart) else false
  | _ => false

/-- The codes decode to these instructions. -/
noncomputable def decodesTo (c : Config) (l : List (Code × Instr)) : Bool :=
  l.all fun p => decide (decode c p.1 = some p.2)

/-! ## What is not well formed -/

/-- Each condition on the configuration refuses an instruction (R177). -/
theorem test_wf_configuration :
    Instr.wf rv32 (.ld 1 2 0) = false ∧ Instr.wf rv64 (.cJal 0) = false ∧
    Instr.wf { rv64 with hasF := false } (.flw 1 2 0) = false ∧ Instr.wf rv64 (.cFlw 1 2 0) = false ∧
    Instr.wf rv32 (.fcvtLS 1 2 0) = false ∧ Instr.wf rv32 (.fld 1 2 0) = false ∧ Instr.wf rv32 (.fmvXD 1 2) = false ∧
    Instr.wf { rv64 with hasV := false } (.vaddVv 1 2 3 1) = false ∧ Instr.wf rv32 (.add 1 2 3) = true := by decide

/-- Each condition on the operands refuses an instruction (R178, cases 1 and 3 to 13). -/
theorem test_wf_operands :
    Instr.wf rv32 (.slli 1 2 32) = false ∧ Instr.wf rv32 (.srli 1 2 63) = false ∧ Instr.wf rv32 (.srai 1 2 32) = false ∧
    Instr.wf rv64 (.cLwsp 0 1) = false ∧ Instr.wf rv64 (.cLdsp 0 1) = false ∧ Instr.wf rv64 (.cJr 0) = false ∧
    Instr.wf rv64 (.cJalr 0) = false ∧ Instr.wf rv64 (.cAdd 0 1) = false ∧ Instr.wf rv64 (.cAdd 1 0) = false ∧
    Instr.wf rv64 (.cMv 1 0) = false ∧ Instr.wf rv64 (.cAddi16sp 0) = false ∧ Instr.wf rv64 (.cAddi4spn 1 0) = false ∧
    Instr.wf rv64 (.cLui 2 1) = false ∧ Instr.wf rv64 (.cLui 1 0) = false ∧ Instr.wf rv64 (.cAddiw 0 1) = false ∧
    Instr.wf rv32 (.cSlli 1 32) = false ∧ Instr.wf rv32 (.cSrli 1 32) = false ∧
    Instr.wf rv32 (.cSrai 1 32) = false := by decide

/-- Codes that are no instruction: all zeros, all ones, slliw with shamt[5] = 1 (R178 case 2), fence with rd = 1
(R152), lr.d with rs2 = 1 (R153), a vector load with nf = 1 (R156), and patterns whose operands R178 excludes. -/
theorem test_decode_refuses :
    [Code.half 0, .half 0x8002, .half 0x9C45, .half 0x6002, .half 0x6101, .word 0xFFFFFFFF, .word 0x0203129B,
      .word 0x0230008F, .word 0x1015B52F, .word 0x22050207].all (fun w => decode rv64 w == none) = true := by decide

/-! ## Every instruction decodes from a word of the spec's encoding -/

theorem test_decode_loads_and_stores_rv32 : decodesTo rv32 [
    (.word 0x00050283, .lb 5 10 0), (.word 0x00054283, .lbu 5 10 0), (.word 0xFFE51283, .lh 5 10 (-2)),
    (.word 0x00255283, .lhu 5 10 2), (.word 0xFFC52283, .lw 5 10 (-4)), (.word 0x006500A3, .sb 6 10 1),
    (.word 0x00651123, .sh 6 10 2), (.word 0x00552023, .sw 5 10 0)] = true := by decide

theorem test_decode_integer_register_rv32 : decodesTo rv32 [
    (.word 0x007312B3, .sll 5 6 7), (.word 0x007352B3, .srl 5 6 7), (.word 0x407352B3, .sra 5 6 7),
    (.word 0x007302B3, .add 5 6 7), (.word 0x407302B3, .sub 5 6 7), (.word 0x007372B3, .and 5 6 7),
    (.word 0x007362B3, .or 5 6 7), (.word 0x006342B3, .xor 5 6 6), (.word 0x007322B3, .slt 5 6 7),
    (.word 0x007332B3, .sltu 5 6 7), (.word 0x027302B3, .mul 5 6 7), (.word 0x027312B3, .mulh 5 6 7),
    (.word 0x027322B3, .mulhsu 5 6 7), (.word 0x027332B3, .mulhu 5 6 7), (.word 0x027342B3, .div 5 6 7),
    (.word 0x027352B3, .divu 5 6 7), (.word 0x027362B3, .rem 5 6 7), (.word 0x027372B3, .remu 5 6 7)] = true := by decide

theorem test_decode_integer_immediate_rv32 : decodesTo rv32 [
    (.word 0x01F31293, .slli 5 6 31), (.word 0x00435293, .srli 5 6 4), (.word 0x40435293, .srai 5 6 4),
    (.word 0xFFF30293, .addi 5 6 (-1)), (.word 0x800002B7, .lui 5 524288), (.word 0xFFFFF297, .auipc 5 1048575),
    (.word 0xFF037293, .andi 5 6 (-16)), (.word 0x70036293, .ori 5 6 1792), (.word 0xFFF34293, .xori 5 6 (-1)),
    (.word 0xFFF32293, .slti 5 6 (-1)), (.word 0xFFF33293, .sltiu 5 6 (-1))] = true := by decide

theorem test_decode_control_rv32 : decodesTo rv32 [
    (.word 0x80000063, .beq 0 0 (-2048)), (.word 0xFE0318E3, .bne 6 0 (-8)), (.word 0x00734463, .blt 6 7 4),
    (.word 0x00735463, .bge 6 7 4), (.word 0x00736463, .bltu 6 7 4), (.word 0x00737463, .bgeu 6 7 4),
    (.word 0xFF1FF06F, .jal 0 (-8)), (.word 0xFFC08067, .jalr 0 1 (-4))] = true := by decide

theorem test_decode_system_rv32 : decodesTo rv32 [
    (.word 0x0230000F, .fence 2 3), (.word 0x0000100F, .fenceI), (.word 0x12730073, .sfenceVma 6 7),
    (.word 0x34131073, .csrrw 0 833 6), (.word 0x300022F3, .csrrs 5 768 0), (.word 0x340332F3, .csrrc 5 832 6),
    (.word 0x340FD2F3, .csrrwi 5 832 31), (.word 0x3400E2F3, .csrrsi 5 832 1), (.word 0x340172F3, .csrrci 5 832 2),
    (.word 0x00000073, .ecall), (.word 0x00100073, .ebreak), (.word 0x30200073, .mret), (.word 0x10200073, .sret),
    (.word 0x10500073, .wfi)] = true := by decide

theorem test_decode_compressed_rv32 : decodesTo rv32 [
    (.half 0x5C64, .cLw 1 0 31), (.half 0xC044, .cSw 1 0 1), (.half 0x52FE, .cLwsp 5 63), (.half 0xC416, .cSwsp 5 2),
    (.half 0xD001, .cBeqz 0 (-128)), (.half 0xF001, .cBnez 0 (-128)), (.half 0xBFF5, .cJ (-2)),
    (.half 0x8282, .cJr 5), (.half 0x2005, .cJal 16), (.half 0x9282, .cJalr 5), (.half 0x9002, .cEbreak),
    (.half 0x952E, .cAdd 10 11), (.half 0x157D, .cAddi 10 (-1)), (.half 0x8C05, .cSub 0 1),
    (.half 0x7101, .cAddi16sp (-32)), (.half 0x1FE0, .cAddi4spn 0 255), (.half 0x8C65, .cAnd 0 1),
    (.half 0x9879, .cAndi 0 (-2)), (.half 0x8C45, .cOr 0 1), (.half 0x8C25, .cXor 0 1), (.half 0x0512, .cSlli 10 4),
    (.half 0x8011, .cSrli 0 4), (.half 0x8411, .cSrai 0 4), (.half 0x852E, .cMv 10 11),
    (.half 0x5501, .cLi 10 (-32)), (.half 0x657D, .cLui 10 31), (.half 0x60C0, .cFlw 0 1 1),
    (.half 0x62A2, .cFlwsp 5 2), (.half 0xE0C0, .cFsw 0 1 1), (.half 0xE616, .cFswsp 5 3)] = true := by decide

theorem test_decode_float_memory_rv32 : decodesTo rv32 [
    (.word 0x00852187, .flw 3 10 8)] = true := by decide

theorem test_decode_float_memory_rv64 : decodesTo rv64 [
    (.word 0xFE252E27, .fsw 2 10 (-4)), (.word 0x00853187, .fld 3 10 8), (.word 0x00253027, .fsd 2 10 0)] = true := by decide

theorem test_decode_float_fused_rv32 : decodesTo rv32 [
    (.word 0x1820F243, .fmaddS 4 1 2 3 7), (.word 0x1820F247, .fmsubS 4 1 2 3 7),
    (.word 0x1820F24F, .fnmaddS 4 1 2 3 7), (.word 0x1820F24B, .fnmsubS 4 1 2 3 7)] = true := by decide

theorem test_decode_float_rv32 : decodesTo rv32 [
    (.word 0x003170D3, .faddS 1 2 3 7), (.word 0x0820F1D3, .fsubS 3 1 2 7), (.word 0x1020F1D3, .fmulS 3 1 2 7),
    (.word 0x1820F1D3, .fdivS 3 1 2 7), (.word 0x5800F1D3, .fsqrtS 3 1 7), (.word 0x282081D3, .fminS 3 1 2),
    (.word 0x282091D3, .fmaxS 3 1 2), (.word 0xC00082D3, .fcvtWS 5 1 0), (.word 0xC01082D3, .fcvtWuS 5 1 0),
    (.word 0xD00301D3, .fcvtSW 3 6 0), (.word 0xD01301D3, .fcvtSWu 3 6 0), (.word 0x202081D3, .fsgnjS 3 1 2),
    (.word 0x202091D3, .fsgnjnS 3 1 2), (.word 0x2020A1D3, .fsgnjxS 3 1 2), (.word 0xE00082D3, .fmvXW 5 1),
    (.word 0xA020A2D3, .feqS 5 1 2), (.word 0xA02092D3, .fltS 5 1 2), (.word 0xA02082D3, .fleS 5 1 2),
    (.word 0xE00092D3, .fclassS 5 1)] = true := by decide

theorem test_decode_float_rv64 : decodesTo rv64 [
    (.word 0xF00301D3, .fmvWX 3 6), (.word 0x0220F1D3, .faddD 3 1 2 7), (.word 0x0A20F1D3, .fsubD 3 1 2 7),
    (.word 0x1220F1D3, .fmulD 3 1 2 7), (.word 0x1A20F1D3, .fdivD 3 1 2 7), (.word 0x5A00F1D3, .fsqrtD 3 1 7),
    (.word 0x222081D3, .fsgnjD 3 1 2), (.word 0x222091D3, .fsgnjnD 3 1 2), (.word 0x2220A1D3, .fsgnjxD 3 1 2),
    (.word 0x2A2081D3, .fminD 3 1 2), (.word 0x2A2091D3, .fmaxD 3 1 2), (.word 0x4010F1D3, .fcvtSD 3 1 7),
    (.word 0x4200F1D3, .fcvtDS 3 1 7), (.word 0xC20092D3, .fcvtWD 5 1 1), (.word 0xC21092D3, .fcvtWuD 5 1 1),
    (.word 0xD20371D3, .fcvtDW 3 6 7), (.word 0xD21371D3, .fcvtDWu 3 6 7), (.word 0xA220A2D3, .feqD 5 1 2),
    (.word 0xA22092D3, .fltD 5 1 2), (.word 0xA22082D3, .fleD 5 1 2), (.word 0xF20301D3, .fmvDX 3 6),
    (.word 0xE20082D3, .fmvXD 5 1), (.word 0xD22301D3, .fcvtDL 3 6 0), (.word 0xD23301D3, .fcvtDLu 3 6 0),
    (.word 0xC22082D3, .fcvtLD 5 1 0), (.word 0xC02092D3, .fcvtLS 5 1 1), (.word 0xC23082D3, .fcvtLuD 5 1 0),
    (.word 0xC03092D3, .fcvtLuS 5 1 1), (.word 0xD02301D3, .fcvtSL 3 6 0), (.word 0xD03311D3, .fcvtSLu 3 6 1),
    (.word 0xE20092D3, .fclassD 5 1)] = true := by decide

theorem test_decode_loads_and_stores_rv64 : decodesTo rv64 [
    (.word 0x00056283, .lwu 5 10 0), (.word 0x00853283, .ld 5 10 8), (.word 0x00653023, .sd 6 10 0)] = true := by decide

theorem test_decode_integer_register_rv64 : decodesTo rv64 [
    (.word 0x007302BB, .addw 5 6 7), (.word 0x407302BB, .subw 5 6 7), (.word 0x007312BB, .sllw 5 6 7),
    (.word 0x407352BB, .sraw 5 6 7), (.word 0x007352BB, .srlw 5 6 7), (.word 0x027302BB, .mulw 5 6 7),
    (.word 0x027342BB, .divw 5 6 7), (.word 0x027352BB, .divuw 5 6 7), (.word 0x027362BB, .remw 5 6 7),
    (.word 0x027372BB, .remuw 5 6 7)] = true := by decide

theorem test_decode_integer_immediate_rv64 : decodesTo rv64 [
    (.word 0x0013029B, .addiw 5 6 1), (.word 0x01F3129B, .slliw 5 6 31), (.word 0x4013529B, .sraiw 5 6 1),
    (.word 0x0013529B, .srliw 5 6 1)] = true := by decide

theorem test_decode_atomic_rv64 : decodesTo rv64 [
    (.word 0x1005B52F, .lrD 10 11 0 0), (.word 0x186532AF, .scD 5 6 10 0 0),
    (.word 0x00C5B52F, .amoaddD 10 12 11 0 0), (.word 0x60C5B52F, .amoandD 10 12 11 0 0),
    (.word 0xA0C5B52F, .amomaxD 10 12 11 0 0), (.word 0xE0C5B52F, .amomaxuD 10 12 11 0 0),
    (.word 0x80C5B52F, .amominD 10 12 11 0 0), (.word 0xC0C5B52F, .amominuD 10 12 11 0 0),
    (.word 0xC0C5A52F, .amominuW 10 12 11 0 0), (.word 0x40C5B52F, .amoorD 10 12 11 0 0),
    (.word 0x08A5B52F, .amoswapD 10 10 11 0 0), (.word 0x20C5B52F, .amoxorD 10 12 11 0 0)] = true := by decide

theorem test_decode_float_fused_rv64 : decodesTo rv64 [
    (.word 0x1A20F243, .fmaddD 4 1 2 3 7), (.word 0x1A20F247, .fmsubD 4 1 2 3 7),
    (.word 0x1A20F24B, .fnmsubD 4 1 2 3 7), (.word 0x1A20F24F, .fnmaddD 4 1 2 3 7)] = true := by decide

theorem test_decode_compressed_rv64 : decodesTo rv64 [
    (.half 0x7C64, .cLd 1 0 31), (.half 0x72FE, .cLdsp 5 63), (.half 0xE404, .cSd 1 0 1), (.half 0xE816, .cSdsp 5 2),
    (.half 0x9C25, .cAddw 0 1), (.half 0x2505, .cAddiw 10 1), (.half 0x9C05, .cSubw 0 1),
    (.half 0x2880, .cFld 0 1 2), (.half 0x22A2, .cFldsp 5 1), (.half 0xA080, .cFsd 0 1 0),
    (.half 0xAC16, .cFsdsp 5 3)] = true := by decide

theorem test_decode_vector_setting_rv32 : decodesTo rv32 [
    (.word 0x00B576D7, .vsetvli 13 10 11), (.word 0x80B576D7, .vsetvl 13 10 11)] = true := by decide

theorem test_decode_vector_memory_rv32 : decodesTo rv32 [
    (.word 0x12050207, .vlbV 4 10 1), (.word 0x12055207, .vlhV 4 10 1), (.word 0x12056207, .vlwV 4 10 1),
    (.word 0x02050207, .vlbuV 4 10 1), (.word 0x02055207, .vlhuV 4 10 1), (.word 0x02057207, .vleV 4 10 1),
    (.word 0x02050227, .vsbV 4 10 1), (.word 0x02055227, .vshV 4 10 1), (.word 0x02056227, .vswV 4 10 1),
    (.word 0x02057227, .vseV 4 10 1), (.word 0x1AB50207, .vlsbV 4 10 11 1), (.word 0x1AB55207, .vlshV 4 10 11 1),
    (.word 0x1AB56207, .vlswV 4 10 11 1), (.word 0x0A050207, .vlsbuV 4 10 0 1),
    (.word 0x0AB55207, .vlshuV 4 10 11 1), (.word 0x0AB57207, .vlseV 4 10 11 1),
    (.word 0x0AB50227, .vssbV 4 10 11 1), (.word 0x0AB55227, .vsshV 4 10 11 1), (.word 0x0AB56227, .vsswV 4 10 11 1),
    (.word 0x0AB57227, .vsseV 4 10 11 1), (.word 0x1E850207, .vlxbV 4 10 8 1), (.word 0x1E855207, .vlxhV 4 10 8 1),
    (.word 0x1E856207, .vlxwV 4 10 8 1), (.word 0x0E850207, .vlxbuV 4 10 8 1), (.word 0x0E855207, .vlxhuV 4 10 8 1),
    (.word 0x0E857407, .vlxeV 8 10 8 1), (.word 0x0E850227, .vsxbV 4 10 8 1), (.word 0x0E855227, .vsxhV 4 10 8 1),
    (.word 0x0E856227, .vsxwV 4 10 8 1), (.word 0x0E857227, .vsxeV 4 10 8 1)] = true := by decide

theorem test_decode_vector_memory_rv64 : decodesTo rv64 [
    (.word 0x02056207, .vlwuV 4 10 1), (.word 0x0AB56207, .vlswuV 4 10 11 1), (.word 0x0E856207, .vlxwuV 4 10 8 1)] = true := by decide

theorem test_decode_vector_integer_rv32 : decodesTo rv32 [
    (.word 0x02860257, .vaddVv 4 8 12 1), (.word 0x02854257, .vaddVx 4 8 10 1),
    (.word 0x02883257, .vaddVi 4 8 (-16) 1), (.word 0x0A860257, .vsubVv 4 8 12 1),
    (.word 0x0A854257, .vsubVx 4 8 10 1), (.word 0x0E854257, .vrsubVx 4 8 10 1),
    (.word 0x0E8FB257, .vrsubVi 4 8 (-1) 1), (.word 0x26860257, .vandVv 4 8 12 1),
    (.word 0x26854257, .vandVx 4 8 10 1), (.word 0x26803257, .vandVi 4 8 0 1), (.word 0x2A860257, .vorVv 4 8 12 1),
    (.word 0x2A854257, .vorVx 4 8 10 1), (.word 0x2A883257, .vorVi 4 8 (-16) 1),
    (.word 0x2E860257, .vxorVv 4 8 12 1), (.word 0x2E854257, .vxorVx 4 8 10 1),
    (.word 0x2E8FB257, .vxorVi 4 8 (-1) 1), (.word 0x96860257, .vsllVv 4 8 12 1),
    (.word 0x96854257, .vsllVx 4 8 10 1), (.word 0x968FB257, .vsllVi 4 8 31 1), (.word 0xA2860257, .vsrlVv 4 8 12 1),
    (.word 0xA2854257, .vsrlVx 4 8 10 1), (.word 0xA281B257, .vsrlVi 4 8 3 1), (.word 0xA6860257, .vsraVv 4 8 12 1),
    (.word 0xA6854257, .vsraVx 4 8 10 1), (.word 0xA68FB257, .vsraVi 4 8 31 1),
    (.word 0x12860257, .vminuVv 4 8 12 1), (.word 0x12854257, .vminuVx 4 8 10 1),
    (.word 0x16860257, .vminVv 4 8 12 1), (.word 0x16854257, .vminVx 4 8 10 1),
    (.word 0x1A860257, .vmaxuVv 4 8 12 1), (.word 0x1A854257, .vmaxuVx 4 8 10 1),
    (.word 0x1E860257, .vmaxVv 4 8 12 1), (.word 0x1E854257, .vmaxVx 4 8 10 1)] = true := by decide

theorem test_decode_vector_compare_rv32 : decodesTo rv32 [
    (.word 0x62860257, .vmseqVv 4 8 12 1), (.word 0x62854257, .vmseqVx 4 8 10 1),
    (.word 0x628FB257, .vmseqVi 4 8 (-1) 1), (.word 0x66860257, .vmsneVv 4 8 12 1),
    (.word 0x66854257, .vmsneVx 4 8 10 1), (.word 0x6680B257, .vmsneVi 4 8 1 1),
    (.word 0x6A860257, .vmsltuVv 4 8 12 1), (.word 0x6A854257, .vmsltuVx 4 8 10 1),
    (.word 0x6E860257, .vmsltVv 4 8 12 1), (.word 0x6E854257, .vmsltVx 4 8 10 1),
    (.word 0x72860257, .vmsleuVv 4 8 12 1), (.word 0x72854257, .vmsleuVx 4 8 10 1),
    (.word 0x7287B257, .vmsleuVi 4 8 15 1), (.word 0x76860257, .vmsleVv 4 8 12 1),
    (.word 0x76854257, .vmsleVx 4 8 10 1), (.word 0x768FB257, .vmsleVi 4 8 (-1) 1),
    (.word 0x7A854257, .vmsgtuVx 4 8 10 1), (.word 0x7A883257, .vmsgtuVi 4 8 16 1),
    (.word 0x7E854257, .vmsgtVx 4 8 10 1), (.word 0x7E8FB257, .vmsgtVi 4 8 (-1) 1)] = true := by decide

theorem test_decode_vector_multiply_rv32 : decodesTo rv32 [
    (.word 0x96862257, .vmulVv 4 8 12 1), (.word 0x96856257, .vmulVx 4 8 10 1),
    (.word 0x9E862257, .vmulhVv 4 8 12 1), (.word 0x9E856257, .vmulhVx 4 8 10 1),
    (.word 0x92862257, .vmulhuVv 4 8 12 1), (.word 0x92856257, .vmulhuVx 4 8 10 1),
    (.word 0x9A862257, .vmulhsuVv 4 8 12 1), (.word 0x9A856257, .vmulhsuVx 4 8 10 1),
    (.word 0xB6862257, .vmaccVv 4 8 12 1), (.word 0xB6856257, .vmaccVx 4 8 10 1),
    (.word 0xBE862257, .vnmsacVv 4 8 12 1), (.word 0xBE856257, .vnmsacVx 4 8 10 1),
    (.word 0xA6862257, .vmaddVv 4 8 12 1), (.word 0xA6856257, .vmaddVx 4 8 10 1),
    (.word 0xAE862257, .vnmsubVv 4 8 12 1), (.word 0xAE856257, .vnmsubVx 4 8 10 1)] = true := by decide

/-! ## One step each -/

/-- `lw x5, 4(x10)` (T40.6). -/
theorem test_lw : after rv64
    [xIs 10 0x80001000, memIs 0x80001004 4 [0xDEADBEEF]]
    0x00452283 (fun h =>
      h.getX 5 == 0xFFFFFFFFDEADBEEF && h.pc == 0x80000004) = true := by decide

/-- `lw x5, 0(x10)` (T40.8). -/
theorem test_lw_2 : after rv32
    [xIs 10 0x80001001, xIs 5 0x55]
    0x00052283 (fun h =>
      h.mcause == 4 && h.mepc == 0x80000000 && h.mtval == 0x80001001 && h.pc == 0x80000100) = true := by decide

/-- `sh x6, 2(x10)` (T40.12). -/
theorem test_sh : after rv32
    [xIs 10 0x80001000, xIs 6 0x1234ABCD, memIs 0x80001000 4 [0x11111111]]
    0x00651123 (fun h =>
      holds 0x80001000 4 [0xABCD1111] h && h.pc == 0x80000004) = true := by decide

/-- `sw x6, 0(x10)` (T40.13). -/
theorem test_sw : after rv32
    [xIs 10 0x80001000, xIs 6 0x1234ABCD]
    0x00652023 (fun h =>
      holds 0x80001000 1 [0xCD] h && holds 0x80001001 1 [0xAB] h && holds 0x80001002 1 [0x34] h &&
      holds 0x80001003 1 [0x12] h && h.pc == 0x80000004) = true := by decide

/-- `sltiu x5, x6, -1` (T40.22). -/
theorem test_sltiu : after rv32
    [xIs 6 0xFFFFFFFE]
    0xFFF33293 (fun h =>
      h.getX 5 == 1 && h.pc == 0x80000004) = true := by decide

/-- `srai x5, x6, 4` (T40.32). -/
theorem test_srai : after rv64
    [xIs 6 0x80000000]
    0x40435293 (fun h =>
      h.getX 5 == 0x8000000 && h.pc == 0x80000004) = true := by decide

/-- `sll x5, x6, x7` (T40.36). -/
theorem test_sll : after rv32
    [xIs 6 1, xIs 7 0x21]
    0x007312B3 (fun h =>
      h.getX 5 == 2 && h.pc == 0x80000004) = true := by decide

/-- `slt x5, x6, x7` (T40.40). -/
theorem test_slt : after rv32
    [xIs 6 0x80000000, xIs 7 1]
    0x007322B3 (fun h =>
      h.getX 5 == 1 && h.pc == 0x80000004) = true := by decide

/-- `lui x5, 0x80000` (T40.48). -/
theorem test_lui : after rv64
    []
    0x800002B7 (fun h =>
      h.getX 5 == 0xFFFFFFFF80000000 && h.pc == 0x80000004) = true := by decide

/-- `auipc x5, 0xFFFFF` (T40.49). -/
theorem test_auipc : after rv32
    [(fun h => { h with pc := 0x80000010 })]
    0xFFFFF297 (fun h =>
      h.getX 5 == 0x7FFFF010 && h.pc == 0x80000014) = true := by decide

/-- `beq x6, x7, +16` (T41.2). -/
theorem test_beq : after rv32
    [xIs 6 5, xIs 7 6, (fun h => { h with pc := 0x80000010 })]
    0x00730863 (fun h =>
      h.pc == 0x80000014) = true := by decide

/-- `beq x0, x0, -4096` (T41.9). -/
theorem test_beq_2 : after rv32
    [(fun h => { h with pc := 0x80001010 })]
    0x80000063 (fun h =>
      h.pc == 0x80000010) = true := by decide

/-- `jal x1, +2048` (T41.10). -/
theorem test_jal : after rv32
    [(fun h => { h with pc := 0x80000010 })]
    0x001000EF (fun h =>
      h.getX 1 == 0x80000014 && h.pc == 0x80000810) = true := by decide

/-- `jalr x6, 0(x6)` (T41.14). -/
theorem test_jalr : after rv32
    [xIs 6 0x80000200, (fun h => { h with pc := 0x80000010 })]
    0x00030367 (fun h =>
      h.getX 6 == 0x80000014 && h.pc == 0x80000200) = true := by decide

/-- `fence r, rw` (T41.16). -/
theorem test_fence : after rv32
    []
    0x0230000F (fun h =>
      h.pc == 0x80000004) = true := by decide

/-- `ecall` (T41.20). -/
theorem test_ecall : after rv32
    [(fun h => { h with priv := .u }), (fun h => { h with pc := 0x80000010 })]
    0x00000073 (fun h =>
      h.mcause == 8 && h.mepc == 0x80000010 && h.mtval == 0 && h.priv == .m && h.pc == 0x80000100) = true := by decide

/-- `ebreak` (T41.21). -/
theorem test_ebreak : after rv32
    [(fun h => { h with pc := 0x80000010 })]
    0x00100073 (fun h =>
      h.mcause == 3 && h.mepc == 0x80000010 && h.mtval == 0x80000010 && h.pc == 0x80000100) = true := by decide

/-- `mret` (T41.22). -/
theorem test_mret : after rv32
    [(fun h => { h with mepc := 0x80000400, mepcSet := true }),
    (fun h => { h with mstatus := mstatusWritten rv32 h.mstatus 0x80 }), (fun h => { h with pc := 0x80000010 })]
    0x30200073 (fun h =>
      h.priv == .u && h.mstatusWord == 0x88 && h.pc == 0x80000400) = true := by decide

/-- `mret` (T41.23). -/
theorem test_mret_2 : after rv32
    [(fun h => { h with priv := .u }), (fun h => { h with pc := 0x80000010 })]
    0x30200073 (fun h =>
      h.mcause == 2 && h.mepc == 0x80000010 && h.mtval == 0x30200073 && h.priv == .m && h.pc == 0x80000100) = true := by decide

/-- `wfi` (T41.24). -/
theorem test_wfi : after rv32
    []
    0x10500073 (fun h =>
      h.pc == 0x80000004) = true := by decide

/-- `csrrw x0, mscratch, x6` (T41.26). -/
theorem test_csrrw : after rv32
    [xIs 6 0xAAAA5555, (fun h => { h with mscratch := 0x11112222 })]
    0x34031073 (fun h =>
      h.mscratch == 0xAAAA5555 && h.pc == 0x80000004) = true := by decide

/-- `csrrc x5, mscratch, x6` (T41.28). -/
theorem test_csrrc : after rv32
    [xIs 6 0xF00F, (fun h => { h with mscratch := 0x1111F22F })]
    0x340332F3 (fun h =>
      h.getX 5 == 0x1111F22F && h.mscratch == 0x11110220 && h.pc == 0x80000004) = true := by decide

/-- `csrrwi x5, mscratch, 31` (T41.30). -/
theorem test_csrrwi : after rv32
    [(fun h => { h with mscratch := 0x11112222 })]
    0x340FD2F3 (fun h =>
      h.getX 5 == 0x11112222 && h.mscratch == 0x1F && h.pc == 0x80000004) = true := by decide

/-- `csrrs x5, vl, x6` (T41.35). -/
theorem test_csrrs : after rv32
    [xIs 6 0]
    0xC20322F3 (fun h =>
      h.mcause == 2 && h.mepc == 0x80000000 && h.mtval == 0xC20322F3 && h.pc == 0x80000100) = true := by decide

/-- `mulh x5, x6, x7` (T42.4). -/
theorem test_mulh : after rv32
    [xIs 6 0x80000000, xIs 7 0x80000000, xIs 5 0x5A5A5A5A]
    0x027312B3 (fun h =>
      h.getX 5 == 0x40000000 && h.pc == 0x80000004) = true := by decide

/-- `mulhsu x5, x6, x7` (T42.5). -/
theorem test_mulhsu : after rv32
    [xIs 6 0xFFFFFFFF, xIs 7 0xFFFFFFFF, xIs 5 0x5A5A5A5A]
    0x027322B3 (fun h =>
      h.getX 5 == 0xFFFFFFFF && h.pc == 0x80000004) = true := by decide

/-- `mulhu x5, x6, x7` (T42.6). -/
theorem test_mulhu : after rv32
    [xIs 6 0xFFFFFFFF, xIs 7 0xFFFFFFFF, xIs 5 0x5A5A5A5A]
    0x027332B3 (fun h =>
      h.getX 5 == 0xFFFFFFFE && h.pc == 0x80000004) = true := by decide

/-- `div x5, x6, x7` (T42.7). -/
theorem test_div : after rv32
    [xIs 6 0xFFFFFFF9, xIs 7 2, xIs 5 0x5A5A5A5A]
    0x027342B3 (fun h =>
      h.getX 5 == 0xFFFFFFFD && h.pc == 0x80000004) = true := by decide

/-- `remu x5, x6, x7` (T42.14). -/
theorem test_remu : after rv32
    [xIs 6 0x12345678, xIs 7 0, xIs 5 0x5A5A5A5A]
    0x027372B3 (fun h =>
      h.getX 5 == 0x12345678 && h.pc == 0x80000004) = true := by decide

/-- `c.addi x10, -1` (T43.1). -/
theorem test_c_addi : after rv32
    [xIs 10 0]
    0x157D (fun h =>
      h.getX 10 == 0xFFFFFFFF && h.pc == 0x80000002) = true := by decide

/-- `c.lui x10, 0x1F` (T43.4). -/
theorem test_c_lui : after rv32
    []
    0x657D (fun h =>
      h.getX 10 == 0x1F000 && h.pc == 0x80000002) = true := by decide

/-- `c.addi16sp -512` (T43.7). -/
theorem test_c_addi16sp : after rv32
    [xIs 2 0x80002000]
    0x7101 (fun h =>
      h.getX 2 == 0x80001E00 && h.pc == 0x80000002) = true := by decide

/-- `c.lw x9, 124(x8)` (T43.11). -/
theorem test_c_lw : after rv32
    [xIs 8 0x80001000, memIs 0x8000107C 4 [0x80000001]]
    0x5C64 (fun h =>
      h.getX 9 == 0x80000001 && h.pc == 0x80000002) = true := by decide

/-- `c.swsp x5, 8(x2)` (T43.15). -/
theorem test_c_swsp : after rv32
    [xIs 2 0x80001000, xIs 5 0x1020304]
    0xC416 (fun h =>
      holds 0x80001008 4 [0x1020304] h && h.pc == 0x80000002) = true := by decide

/-- `c.j -4` (T43.17). -/
theorem test_c_j : after rv32
    [(fun h => { h with pc := 0x80000010 })]
    0xBFF5 (fun h =>
      h.pc == 0x8000000C) = true := by decide

/-- `c.jalr x5` (T43.22). -/
theorem test_c_jalr : after rv32
    [xIs 5 0x80000400, (fun h => { h with pc := 0x80000010 })]
    0x9282 (fun h =>
      h.getX 1 == 0x80000012 && h.pc == 0x80000400) = true := by decide

/-- `c.bnez x8, -256` (T43.26). -/
theorem test_c_bnez : after rv32
    [xIs 8 1, (fun h => { h with pc := 0x80000200 })]
    0xF001 (fun h =>
      h.pc == 0x80000100) = true := by decide

/-- `c.flw f8, 4(x9)` (T43.41). -/
theorem test_c_flw : after rv32
    [fsIs 1, xIs 9 0x80001000, memIs 0x80001004 4 [0x3F800000]]
    0x60C0 (fun h =>
      h.getF 8 == 0x3F800000 && h.mstatus.fs == 3 && h.pc == 0x80000002) = true := by decide

/-- `fdiv.s f3, f1, f2` (T44.19). -/
theorem test_fdiv_s : after rv32
    [fIs 1 0x3F800000, fIs 2 0x40400000, fsIs 1]
    0x1820F1D3 (fun h =>
      h.getF 3 == 0x3EAAAAAB && h.fflags == 1 && h.mstatus.fs == 3 && h.pc == 0x80000004) = true := by decide

/-- `fmin.s f3, f1, f2` (T44.22). -/
theorem test_fmin_s : after rv32
    [fIs 1 0, fIs 2 0x80000000, fsIs 1]
    0x282081D3 (fun h =>
      h.getF 3 == 0x80000000 && h.mstatus.fs == 3 && h.pc == 0x80000004) = true := by decide

/-- `fsgnjx.s f3, f1, f2` (T44.29). -/
theorem test_fsgnjx_s : after rv32
    [fIs 1 0xBF800000, fIs 2 0x80000000, fsIs 1]
    0x2020A1D3 (fun h =>
      h.getF 3 == 0x3F800000 && h.mstatus.fs == 3 && h.pc == 0x80000004) = true := by decide

/-- `fsqrt.s f3, f1` (T44.31). -/
theorem test_fsqrt_s : after rv32
    [fIs 1 0x40000000, fsIs 1]
    0x5800F1D3 (fun h =>
      h.getF 3 == 0x3FB504F3 && h.fflags == 1 && h.mstatus.fs == 3 && h.pc == 0x80000004) = true := by decide

/-- `fmadd.s f4, f1, f2, f3` (T44.34). -/
theorem test_fmadd_s : after rv32
    [fIs 1 0x3F800001, fIs 2 0x3F800001, fIs 3 0xBF800002, fsIs 1]
    0x1820F243 (fun h =>
      h.getF 4 == 0x28800000 && h.mstatus.fs == 3 && h.pc == 0x80000004) = true := by decide

/-- `fnmsub.s f4, f1, f2, f3` (T44.36). -/
theorem test_fnmsub_s : after rv32
    [fIs 1 0x40000000, fIs 2 0x40400000, fIs 3 0x3F800000, fsIs 1]
    0x1820F24B (fun h =>
      h.getF 4 == 0xC0A00000 && h.mstatus.fs == 3 && h.pc == 0x80000004) = true := by decide

/-- `feq.s x5, f1, f2` (T44.39). -/
theorem test_feq_s : after rv32
    [fIs 1 0, fIs 2 0x80000000, xIs 5 9, fsIs 1]
    0xA020A2D3 (fun h =>
      h.getX 5 == 1 && h.pc == 0x80000004) = true := by decide

/-- `fcvt.wu.s x5, f1, rne` (T44.54). -/
theorem test_fcvt_wu_s : after rv32
    [fIs 1 0xBF800000, xIs 5 9, fsIs 1]
    0xC01082D3 (fun h =>
      h.getX 5 == 0 && h.fflags == 0x10 && h.mstatus.fs == 3 && h.pc == 0x80000004) = true := by decide

/-- `fcvt.s.wu f3, x6, rne` (T44.61). -/
theorem test_fcvt_s_wu : after rv32
    [xIs 6 0xFFFFFFFF, fsIs 1]
    0xD01301D3 (fun h =>
      h.getF 3 == 0x4F800000 && h.fflags == 1 && h.mstatus.fs == 3 && h.pc == 0x80000004) = true := by decide

/-- `fclass.s x5, f1` (T44.64). -/
theorem test_fclass_s : after rv32
    [fIs 1 0x80000001, fsIs 1]
    0xE00092D3 (fun h =>
      h.getX 5 == 4 && h.pc == 0x80000004) = true := by decide

/-- `fmv.x.w x5, f1` (T44.72). -/
theorem test_fmv_x_w : after rv32
    [fIs 1 0xC0000000, fsIs 1]
    0xE00082D3 (fun h =>
      h.getX 5 == 0xC0000000 && h.pc == 0x80000004) = true := by decide

/-- `flw f3, 8(x10)` (T44.75). -/
theorem test_flw : after rv32
    [xIs 10 0x80001000, memIs 0x80001008 4 [0x7FA00000], fsIs 1]
    0x00852187 (fun h =>
      h.getF 3 == 0x7FA00000 && h.mstatus.fs == 3 && h.pc == 0x80000004) = true := by decide

/-- `flw f3, 8(x10)` (T44.76). -/
theorem test_flw_2 : after rv64
    [xIs 10 0x80001000, memIs 0x80001008 4 [0x3F800000], fsIs 1]
    0x00852187 (fun h =>
      h.getF 3 == 0xFFFFFFFF3F800000 && h.mstatus.fs == 3 && h.pc == 0x80000004) = true := by decide

/-- `fsw f2, -4(x10)` (T44.77). -/
theorem test_fsw : after rv64
    [xIs 10 0x80001004, fIs 2 0xFFFFFFFF40490FDB, fsIs 1]
    0xFE252E27 (fun h =>
      holds 0x80001000 4 [0x40490FDB] h && h.pc == 0x80000004) = true := by decide

/-- `fadd.s f3, f1, f2` (T44.78). -/
theorem test_fadd_s : after rv64
    [fIs 1 0x3F800000, fIs 2 0xFFFFFFFF3F800000, fsIs 1]
    0x0020F1D3 (fun h =>
      h.getF 3 == 0xFFFFFFFF7FC00000 && h.mstatus.fs == 3 && h.pc == 0x80000004) = true := by decide

/-- `fadd.s f3, f1, f2` (T44.79). -/
theorem test_fadd_s_2 : after rv32
    [fIs 1 0x3F800000, fIs 2 0x3F800000]
    0x0020F1D3 (fun h =>
      h.mcause == 2 && h.mepc == 0x80000000 && h.mtval == 0x20F1D3 && h.pc == 0x80000100) = true := by decide

/-- `ld x5, 8(x10)` (T45.2). -/
theorem test_ld : after rv64
    [xIs 10 0x80001000, memIs 0x80001008 8 [0x123456789ABCDEF]]
    0x00853283 (fun h =>
      h.getX 5 == 0x123456789ABCDEF && h.pc == 0x80000004) = true := by decide

/-- `sd x6, 0(x10)` (T45.4). -/
theorem test_sd : after rv64
    [xIs 10 0x80001000, xIs 6 0x123456789ABCDEF]
    0x00653023 (fun h =>
      holds 0x80001000 4 [0x89ABCDEF] h && holds 0x80001004 4 [0x1234567] h && h.pc == 0x80000004) = true := by decide

/-- `addiw x5, x6, 1` (T45.5). -/
theorem test_addiw : after rv64
    [xIs 6 0x7FFFFFFF]
    0x0013029B (fun h =>
      h.getX 5 == 0xFFFFFFFF80000000 && h.pc == 0x80000004) = true := by decide

/-- `sraw x5, x6, x7` (T45.15). -/
theorem test_sraw : after rv64
    [xIs 6 0x80000000, xIs 7 4]
    0x407352BB (fun h =>
      h.getX 5 == 0xFFFFFFFFF8000000 && h.pc == 0x80000004) = true := by decide

/-- `divw x5, x6, x7` (T45.17). -/
theorem test_divw : after rv64
    [xIs 6 0xFFFFFFFF80000000, xIs 7 0xFFFFFFFFFFFFFFFF]
    0x027342BB (fun h =>
      h.getX 5 == 0xFFFFFFFF80000000 && h.pc == 0x80000004) = true := by decide

/-- `lr.d x10, (x11)` (T45.23). -/
theorem test_lr_d : after rv64
    [xIs 11 0x80001000, memIs 0x80001000 8 [0x1122334455667788]]
    0x1005B52F (fun h =>
      h.getX 10 == 0x1122334455667788 && h.reservation == some 0x80001000 && h.pc == 0x80000004) = true := by decide

/-- `sc.d x13, x12, (x11)` (T45.24). -/
theorem test_sc_d : after rv64
    [xIs 11 0x80001000, xIs 12 0xAA, xIs 13 9, (fun h => { h with reservation := some 0x80001000 }),
    memIs 0x80001000 8 [1]]
    0x18C5B6AF (fun h =>
      h.getX 13 == 0 && holds 0x80001000 8 [0xAA] h && h.reservation == none && h.pc == 0x80000004) = true := by decide

/-- `sc.d x13, x12, (x11)` (T45.26). -/
theorem test_sc_d_2 : after rv64
    [xIs 11 0x80001008, xIs 12 0xAA, (fun h => { h with reservation := some 0x80001000 }), memIs 0x80001008 8 [1]]
    0x18C5B6AF (fun h =>
      h.getX 13 == 1 && holds 0x80001008 8 [1] h && h.reservation == none && h.pc == 0x80000004) = true := by decide

/-- `amoadd.d x10, x12, (x11)` (T45.29). -/
theorem test_amoadd_d : after rv64
    [xIs 11 0x80001000, xIs 12 1, memIs 0x80001000 8 [0xFFFFFFFFFFFFFFFF]]
    0x00C5B52F (fun h =>
      h.getX 10 == 0xFFFFFFFFFFFFFFFF && holds 0x80001000 8 [0] h && h.pc == 0x80000004) = true := by decide

/-- `amomax.d x10, x12, (x11)` (T45.37). -/
theorem test_amomax_d : after rv64
    [xIs 11 0x80001000, xIs 12 1, memIs 0x80001000 8 [0xFFFFFFFFFFFFFFFF]]
    0xA0C5B52F (fun h =>
      h.getX 10 == 0xFFFFFFFFFFFFFFFF && holds 0x80001000 8 [1] h && h.pc == 0x80000004) = true := by decide

/-- `amominu.w x10, x12, (x11)` (T45.39). -/
theorem test_amominu_w : after rv64
    [xIs 11 0x80001004, xIs 12 0xFFFFFFFF00000005, memIs 0x80001000 8 [0x8000000000000000]]
    0xC0C5A52F (fun h =>
      h.getX 10 == 0xFFFFFFFF80000000 && holds 0x80001000 8 [0x500000000] h && h.pc == 0x80000004) = true := by decide

/-- `fdiv.d f3, f1, f2` (T46.6). -/
theorem test_fdiv_d : after rv64
    [fIs 1 0x3FF0000000000000, fIs 2 0x4008000000000000, fsIs 1]
    0x1A20F1D3 (fun h =>
      h.getF 3 == 0x3FD5555555555555 && h.fflags == 1 && h.mstatus.fs == 3 && h.pc == 0x80000004) = true := by decide

/-- `flt.d x5, f1, f2` (T46.15). -/
theorem test_flt_d : after rv64
    [fIs 1 0x3FF0000000000000, fIs 2 0x4000000000000000, fsIs 1]
    0xA22092D3 (fun h =>
      h.getX 5 == 1 && h.pc == 0x80000004) = true := by decide

/-- `fcvt.s.d f3, f1` (T46.18). -/
theorem test_fcvt_s_d : after rv64
    [fIs 1 0x3FF0000010000000, fsIs 1]
    0x4010F1D3 (fun h =>
      h.getF 3 == 0xFFFFFFFF3F800000 && h.fflags == 1 && h.mstatus.fs == 3 && h.pc == 0x80000004) = true := by decide

/-- `fcvt.d.l f3, x6, rne` (T46.30). -/
theorem test_fcvt_d_l : after rv64
    [xIs 6 0x20000000000001, fsIs 1]
    0xD22301D3 (fun h =>
      h.getF 3 == 0x4340000000000000 && h.fflags == 1 && h.mstatus.fs == 3 && h.pc == 0x80000004) = true := by decide

/-- `fld f3, 8(x10)` (T46.38). -/
theorem test_fld : after rv64
    [xIs 10 0x80001000, memIs 0x80001008 8 [0x400921FB54442D18], fsIs 1]
    0x00853187 (fun h =>
      h.getF 3 == 0x400921FB54442D18 && h.mstatus.fs == 3 && h.pc == 0x80000004) = true := by decide

/-- `c.sd x9, 8(x8)` (T47.2). -/
theorem test_c_sd : after rv64
    [xIs 8 0x80001000, xIs 9 0x1122334455667788]
    0xE404 (fun h =>
      holds 0x80001008 8 [0x1122334455667788] h && h.pc == 0x80000002) = true := by decide

/-- `c.ldsp x5, 504(x2)` (T47.3). -/
theorem test_c_ldsp : after rv64
    [xIs 2 0x80001000, memIs 0x800011F8 8 [0xFEDCBA9876543210]]
    0x72FE (fun h =>
      h.getX 5 == 0xFEDCBA9876543210 && h.pc == 0x80000002) = true := by decide

/-- `c.ldsp x0, 0(x2)` (T47.4). -/
theorem test_c_ldsp_2 : after rv64
    [xIs 2 0x80001000]
    0x6002 (fun h =>
      h.mcause == 2 && h.mepc == 0x80000000 && h.mtval == 0x6002 && h.pc == 0x80000100) = true := by decide

/-- `c.addiw x10, 0` (T47.7). -/
theorem test_c_addiw : after rv64
    [xIs 10 0x180000000]
    0x2501 (fun h =>
      h.getX 10 == 0xFFFFFFFF80000000 && h.pc == 0x80000002) = true := by decide

/-- `c.fsdsp f5, 24(x2)` (T47.16). -/
theorem test_c_fsdsp : after rv64
    [fsIs 1, xIs 2 0x80001000, fIs 5 0xC000000000000000]
    0xAC16 (fun h =>
      holds 0x80001018 8 [0xC000000000000000] h && h.pc == 0x80000002) = true := by decide

/-- `vsetvli x13, x10, e32,m8` (T48.2). -/
theorem test_vsetvli : after rv32
    [xIs 10 5]
    0x00B576D7 (fun h =>
      h.getX 13 == 5 && h.vl == 5 && h.vtype == 0xB && h.pc == 0x80000004) = true := by decide

/-- `vsetvli x13, x10, e64,m1` (T48.8). -/
theorem test_vsetvli_2 : after rv32
    [(fun h => { h with vtype := 0 }), xIs 10 9, xIs 13 5, (fun h => { h with vl := 3 })]
    0x00C576D7 (fun h =>
      h.getX 13 == 0 && h.vl == 0 && h.vtype == 0x80000000 && h.pc == 0x80000004) = true := by decide

/-- `vlb.v v4, (x10)` (T48.15). -/
theorem test_vlb_v : after rv32
    [(fun h => { h with vtype := 8 }), (fun h => { h with vl := 4 }), xIs 10 0x80001000,
    memIs 0x80001000 1 [0x80, 0x7F, 1, 0xFF]]
    0x12050207 (fun h =>
      hasElems 4 0 [0xFFFFFF80, 0x7F, 1, 0xFFFFFFFF] h && h.pc == 0x80000004) = true := by decide

/-- `vse.v v4, (x10)` (T48.34). -/
theorem test_vse_v : after rv32
    [(fun h => { h with vtype := 0 }), (fun h => { h with vl := 5 }), vIs 4 0x1F1E1D1C1B1A19181716151413121110,
    xIs 10 0x80001003]
    0x02057227 (fun h =>
      holds 0x80001000 1 [0, 0, 0, 0x10, 0x11, 0x12, 0x13, 0x14] h && h.pc == 0x80000004) = true := by decide

/-- `vlse.v v4, (x10), x11` (T48.40). -/
theorem test_vlse_v : after rv32
    [(fun h => { h with vtype := 4 }), (fun h => { h with vl := 3 }), xIs 10 0x80001000, xIs 11 4,
    memIs 0x80001000 2 [1, 2, 3, 4, 5, 6]]
    0x0AB57207 (fun h =>
      hasElems 4 0 [1, 3, 5] h && h.pc == 0x80000004) = true := by decide

/-- `vssb.v v4, (x10), x11` (T48.42). -/
theorem test_vssb_v : after rv32
    [(fun h => { h with vtype := 4 }), (fun h => { h with vl := 4 }), elems 4 0 [0x1101, 0x2202, 0x3303, 0x4404],
    xIs 10 0x80001000, xIs 11 2]
    0x0AB50227 (fun h =>
      holds 0x80001000 1 [1, 0, 2, 0, 3, 0, 4, 0] h && h.pc == 0x80000004) = true := by decide

/-- `vlxe.v v8, (x10), v8` (T48.47). -/
theorem test_vlxe_v : after rv32
    [(fun h => { h with vtype := 8 }), (fun h => { h with vl := 4 }), elems 8 0 [0xC, 8, 4, 0], xIs 10 0x80001000,
    memIs 0x80001000 4 [0x10, 0x11, 0x12, 0x13]]
    0x0E857407 (fun h =>
      hasElems 8 0 [0x13, 0x12, 0x11, 0x10] h && h.pc == 0x80000004) = true := by decide

/-- `vsxw.v v4, (x10), v8` (T48.49). -/
theorem test_vsxw_v : after rv32
    [(fun h => { h with vtype := 8 }), (fun h => { h with vl := 4 }), elems 4 0 [1, 2, 3, 4],
    elems 8 0 [4, 0, 4, 8], xIs 10 0x80001000]
    0x0E856227 (fun h =>
      holds 0x80001000 4 [2, 3, 4] h && h.pc == 0x80000004) = true := by decide

/-- `vadd.vx v4, v8, x10` (T49.2). -/
theorem test_vadd_vx : after rv32
    [(fun h => { h with vtype := 8 }), (fun h => { h with vl := 4 }),
    elems 8 0 [1, 0x7FFFFFFF, 0x80000000, 0xFFFFFFFF], xIs 10 0xFFFFFFFF]
    0x02854257 (fun h =>
      hasElems 4 0 [0, 0x7FFFFFFE, 0x7FFFFFFF, 0xFFFFFFFE] h && h.pc == 0x80000004) = true := by decide

/-- `vrsub.vi v4, v8, -1` (T49.8). -/
theorem test_vrsub_vi : after rv32
    [(fun h => { h with vtype := 8 }), (fun h => { h with vl := 4 }),
    elems 8 0 [1, 0x7FFFFFFF, 0x80000000, 0xFFFFFFFF]]
    0x0E8FB257 (fun h =>
      hasElems 4 0 [0xFFFFFFFE, 0x80000000, 0x7FFFFFFF, 0] h && h.pc == 0x80000004) = true := by decide

/-- `vsra.vv v4, v8, v12` (T49.25). -/
theorem test_vsra_vv : after rv32
    [(fun h => { h with vtype := 8 }), (fun h => { h with vl := 4 }),
    elems 8 0 [0x80000000, 0x80000000, 0x80000000, 0x80000000], elems 12 0 [0, 0x1F, 0x20, 4]]
    0xA6860257 (fun h =>
      hasElems 4 0 [0x80000000, 0xFFFFFFFF, 0x80000000, 0xF8000000] h && h.pc == 0x80000004) = true := by decide

/-- `vmax.vv v4, v8, v12` (T49.34). -/
theorem test_vmax_vv : after rv32
    [(fun h => { h with vtype := 8 }), (fun h => { h with vl := 4 }),
    elems 8 0 [1, 0x7FFFFFFF, 0x80000000, 0xFFFFFFFF], elems 12 0 [1, 1, 0xFFFFFFFF, 2]]
    0x1E860257 (fun h =>
      hasElems 4 0 [1, 0x7FFFFFFF, 0xFFFFFFFF, 2] h && h.pc == 0x80000004) = true := by decide

/-- `vmulhsu.vv v4, v8, v12` (T49.42). -/
theorem test_vmulhsu_vv : after rv32
    [(fun h => { h with vtype := 8 }), (fun h => { h with vl := 4 }),
    elems 8 0 [0xFFFFFFFF, 0x80000000, 0x7FFFFFFF, 2], elems 12 0 [0xFFFFFFFF, 0x80000000, 0xFFFFFFFF, 0xFFFFFFFF]]
    0x9A862257 (fun h =>
      hasElems 4 0 [0xFFFFFFFF, 0xC0000000, 0x7FFFFFFE, 1] h && h.pc == 0x80000004) = true := by decide

/-- `vmacc.vx v4, x10, v8` (T49.46). -/
theorem test_vmacc_vx : after rv32
    [(fun h => { h with vtype := 8 }), (fun h => { h with vl := 4 }), elems 8 0 [5, 2, 2, 0xFFFFFFFF],
    elems 4 0 [0x64, 0xFFFFFFFF, 0x80000000, 7], xIs 10 3]
    0xB6856257 (fun h =>
      hasElems 4 0 [0x73, 5, 0x80000006, 4] h && h.pc == 0x80000004) = true := by decide

/-- `vnmsub.vv v4, v12, v8` (T49.51). -/
theorem test_vnmsub_vv : after rv32
    [(fun h => { h with vtype := 8 }), (fun h => { h with vl := 4 }), elems 8 0 [5, 2, 2, 0xFFFFFFFF],
    elems 12 0 [3, 0x80000000, 3, 0xFFFFFFFF], elems 4 0 [0x64, 0xFFFFFFFF, 0x80000000, 7]]
    0xAE862257 (fun h =>
      hasElems 4 0 [0xFFFFFED9, 0x80000002, 0x80000002, 6] h && h.pc == 0x80000004) = true := by decide

/-- `vmseq.vx v4, v8, x10` (T49.54). -/
theorem test_vmseq_vx : after rv32
    [(fun h => { h with vtype := 8 }), (fun h => { h with vl := 4 }),
    elems 8 0 [1, 0x7FFFFFFF, 0x80000000, 0xFFFFFFFF], xIs 10 0xFFFFFFFF]
    0x62854257 (fun h =>
      h.getV 4 == 0x1000000000000000000000000 && h.pc == 0x80000004) = true := by decide

/-- `vmsleu.vi v4, v8, 31` (T49.66). -/
theorem test_vmsleu_vi : after rv32
    [(fun h => { h with vtype := 8 }), (fun h => { h with vl := 4 }), elems 8 0 [0, 0xF, 0x1F, 0xFFFFFFFF]]
    0x728FB257 (fun h =>
      h.getV 4 == 0x10000000100000001 && h.pc == 0x80000004) = true := by decide

/-- `vadd.vx v6, v8, x10` (T49.89). -/
theorem test_vadd_vx_2 : after rv32
    [(fun h => { h with vtype := 0xA }), (fun h => { h with vl := 4 })]
    0x02854357 (fun h =>
      h.mcause == 2 && h.mepc == 0x80000000 && h.mtval == 0x2854357 && h.pc == 0x80000100) = true := by decide

/-- `csrrw x5, mstatus, x6` (T60.14). -/
theorem test_csrrw_2 : after rv32
    [xIs 6 0x1000]
    0x300312F3 (fun h =>
      h.getX 5 == 0x1800 && h.pc == 0x80000004) = true := by decide

/-! ## Values that meet the hypotheses of the obligations, clause by clause -/

/-- The machine with this set up. -/
def st (c : Config) (setup : List (Hart c → Hart c)) : State := ⟨c, setup.foldl (fun h f => f h) (start c)⟩

/-- The current mode is p. -/
def privIs (p : Priv) (h : Hart c) : Hart c := { h with priv := p }

/-- pc = a. -/
def pcIs (a : Nat) (h : Hart c) : Hart c := { h with pc := BitVec.ofNat _ a }

/-- These bytes are stale. -/
def staleIs (l : List Nat) (h : Hart c) : Hart c := { h with stale := l }

/-- vtype is a setting of SEW = 32, LMUL = 1, with vl elements, the first `vstart` of them skipped. -/
def e32 (vl vstart : Nat) (h : Hart c) : Hart c :=
  { h with vtype := 8, vl := BitVec.ofNat _ vl, vstart := BitVec.ofNat _ vstart }

theorem witness_DecodeOfEncode :
    Instr.wf rv64 (.cLui 31 0x20) = true ∧ Instr.wf rv32 (.slli 31 31 31) = true ∧
    Instr.wf rv64 (.vmsleuVi 31 31 31 0) = true := by decide

theorem witness_EncodeOfDecode :
    decode rv64 (.word 0xFFE51283) = some (.lh 5 10 (-2)) ∧ decode rv64 (.half 0x9002) = some .cEbreak := by decide

theorem witness_StepRunsDecoded :
    (∃ h, ((st rv64 []).withFetchWord 32 0x007302B3).Fetches (.word 0x007302B3) h) ∧
    decode rv64 (.word 0x007302B3) = some (.add 5 6 7) ∧
    (∃ h, ((st rv64 []).withFetchWord 16 0).Fetches (.half 0) h) ∧ decode rv64 (.half 0) = none :=
  ⟨⟨_, rfl, rfl, rfl, rfl⟩, by decide, ⟨_, rfl, rfl, rfl, rfl⟩, by decide⟩

/-- A hart whose last halfword of memory, or whose last word, is at pc. -/
theorem witness_FetchReadsMemory :
    (let h : Hart rv64 := pcIs 0x8000FFFE (start rv64);
      (∀ k < 2, byteAllowed rv64 .fetch (byteAddr h.pc k) = true ∧ byteIsIo rv64 (byteAddr h.pc k) = false ∧
        byteAddr h.pc k ∉ h.stale) ∧ Memory.nat h.mem h.pc 2 % 4 ≠ 3) ∧
    (let h : Hart rv64 := pcIs 0x8000FFFC (memIs 0x8000FFFC 4 [0x007302B3] (start rv64));
      (∀ k < 4, byteAllowed rv64 .fetch (byteAddr h.pc k) = true ∧ byteIsIo rv64 (byteAddr h.pc k) = false ∧
        byteAddr h.pc k ∉ h.stale) ∧ Memory.nat h.mem h.pc 2 % 4 = 3) := by decide

/-- The first byte above memory; a stale second byte; an instruction whose second half lies above memory; and one whose
last byte is stale. -/
theorem witness_FetchChecks :
    let bad (s : State) (n : Nat) : Prop :=
      ∃ k, n ≤ k ∧ k < n + 2 ∧ byteAllowed s.cfg .fetch (byteAddr s.hart.sample.pc k) = false
    let old (s : State) (n : Nat) : Prop := ∃ k, n ≤ k ∧ k < n + 2 ∧ byteAddr s.hart.sample.pc k ∈ s.hart.sample.stale
    let runs (s : State) : Prop :=
      s.hart.pcUnspecified = false ∧ s.hart.waiting = false ∧ s.hart.sample.interrupt = none
    let long (s : State) : Prop := touchesIo s.cfg s.hart.sample.pc 2 = false ∧
      Memory.nat s.hart.sample.mem s.hart.sample.pc 2 % 4 = 3
    let s1 := st rv64 [pcIs 0x80010000]
    let s2 := st rv64 [staleIs [0x80000001]]
    let s3 := st rv64 [pcIs 0x8000FFFE, memIs 0x8000FFFE 2 [0x02B3]]
    let s4 := st rv64 [memIs 0x80000000 4 [0x007302B3], staleIs [0x80000003]];
    (runs s1 ∧ bad s1 0) ∧ (runs s2 ∧ ¬bad s2 0 ∧ old s2 0) ∧
    (runs s3 ∧ ¬bad s3 0 ∧ ¬old s3 0 ∧ long s3 ∧ bad s3 2) ∧
    (runs s4 ∧ ¬bad s4 0 ∧ ¬old s4 0 ∧ long s4 ∧ ¬bad s4 2 ∧ old s4 2) := by
  refine ⟨⟨by decide, 0, by decide⟩, ⟨by decide, ?_, 1, by decide⟩,
    ⟨by decide, ?_, ?_, by decide, 2, by decide⟩, by decide, ?_, ?_, by decide, ?_, 3, by decide⟩ <;>
  · rintro ⟨k, h1, h2, h3⟩
    interval_cases k <;> revert h3 <;> decide

theorem witness_StepRefusals :
    (st rv64 [fun h => { h with pcUnspecified := true }]).hart.pcUnspecified = true ∧
    step (st rv64 [staleIs [0x80000001]]) = .refused .staleFetch ∧
    ∃ t, step ((st rv64 []).withFetchWord 32 0x007302B3) = .next t :=
  ⟨rfl, rfl, _, rfl⟩

theorem witness_ResetKeepsInvariant : Config.wf rv32 = true ∧ Config.wf rv64 = true := by decide

theorem witness_StepKeepsInvariant :
    ((st rv64 [e32 4 1, privIs .u, staleIs [5]]).withFetchWord 32 0x007302B3).Inv ∧
    ∃ t, step ((st rv64 [e32 4 1, privIs .u, staleIs [5]]).withFetchWord 32 0x007302B3) = .next t := by
  refine ⟨?_, _, rfl⟩
  unfold State.Inv Hart.Inv Hart.memOk Hart.staleOk Hart.evenOk Hart.tvecOk Hart.modeOk Hart.statusOk Hart.trapMaskOk
    Hart.vectorOk
  decide

/-- A trap that goes to M-mode: without S-mode, in M-mode, or not delegated; and one that goes to S-mode, as an exception
and as an interrupt. -/
theorem witness_TrapEntry :
    let toS := fun (c : Config) (h : Hart c) (intr : Bool) (code : Nat) =>
      c.hasS = true ∧ h.priv ≠ .m ∧ (if intr then h.mideleg else h.medeleg).getLsbD code = true;
    15 < 16 ∧ ¬toS { rv64 with hasS := false } (privIs .u (start _)) false 15 ∧ ¬toS rv64 (start _) false 15 ∧
    ¬toS rv64 (privIs .u (start _)) false 0 ∧ toS rv64 { privIs .u (start _) with medeleg := 0x8000 } false 15 ∧
    toS rv64 { privIs .s (start _) with mideleg := 2 } true 1 := by decide

/-- mret in M-mode and below it; sret in M-mode, in S-mode with TSR = 0; in U-mode, in S-mode with TSR = 1, and without
S-mode. -/
theorem witness_TrapReturns :
    let ok (s : State) : Prop := s.cfg.hasS = true ∧ s.hart.priv ≠ .u ∧ ¬(s.hart.priv = .s ∧ s.hart.mstatus.tsr = true);
    (st rv64 []).hart.priv = .m ∧ (st rv64 [privIs .s]).hart.priv ≠ .m ∧
    ok (st rv64 []) ∧ ok (st rv64 [privIs .s]) ∧ ¬ok (st rv64 [privIs .u]) ∧
    ¬ok (st rv64 [privIs .s, fun h => { h with mstatus := { h.mstatus with tsr := true } }]) ∧
    ¬ok (st { rv64 with hasS := false } []) := by decide

theorem witness_TrapThenReturnRestores :
    (st rv64 [privIs .u]).hart.delegated false 8 = false ∧
    (st rv64 [privIs .u, fun h => { h with medeleg := 0x100 }]).hart.delegated false 8 = true ∧
    (st rv64 [privIs .u, fun h => { h with medeleg := 0x100 }]).hart.mstatus.tsr = false := by decide

/-- An interrupt for M-mode before one for S-mode; one for S-mode alone; none, though one is pending. -/
theorem witness_InterruptSelection :
    let line (l : Lines) (h : Hart rv64) : Hart rv64 := { h with lines := l, mie := 0xAAA, mideleg := 0x222 };
    Hart.interrupt (line ⟨true, false, true, true⟩ (privIs .u (start rv64))) = some 11 ∧
    Hart.interrupt (line ⟨false, false, false, true⟩ (privIs .u (start rv64))) = some 9 ∧
    Hart.interrupt (line ⟨false, true, false, true⟩ (start rv64)) = none := by decide

/-- An interrupt that arrives with the next sample; a waiting hart with none pending, and with one. -/
theorem witness_InterruptsAndWaiting :
    let next (l : Lines) (w : Bool) (h : Hart rv64) : Hart rv64 :=
      { privIs .u h with samples := [⟨l, 1, false⟩], mie := 0x80, waiting := w }
    let s1 := st rv64 [next ⟨false, true, false, false⟩ false]
    let s2 := st rv64 [next ⟨true, false, false, false⟩ true]
    let s3 := st rv64 [next ⟨false, true, false, false⟩ true];
    (s1.hart.pcUnspecified = false ∧ s1.hart.waiting = false ∧ s1.hart.sample.interrupt = some 7) ∧
    (s2.hart.pcUnspecified = false ∧ s2.hart.waiting = true ∧ s2.hart.sample.mip &&& s2.hart.sample.mie = 0) ∧
    (s3.hart.pcUnspecified = false ∧ s3.hart.waiting = true ∧ s3.hart.sample.mip &&& s3.hart.sample.mie ≠ 0) := by decide

/-- A divisor 0, the overflow, and operands next to it. -/
theorem witness_DivisionCorners :
    let value (a b : Nat) : Int × Int :=
      let s := st rv64 [xIs 6 a, xIs 7 b]
      ((s.hart.getX 6).toInt, (s.hart.getX 7).toInt);
    value 5 0 = (5, 0) ∧ value 0x8000000000000000 0xFFFFFFFFFFFFFFFF = (-2 ^ (rv64.xlen - 1), -1) ∧
    value 0x8000000000000001 0xFFFFFFFFFFFFFFFF = (-2 ^ (rv64.xlen - 1) + 1, -1) := by decide

/-- For every kind of access and width: an aligned and allowed address (the last of the memory), a misaligned one, and
an aligned one that is not allowed (the first above the memory). The memory is in canonical form. This serves
IntegerLoads, IntegerStores, AtomicOperations, LoadReservedStoreConditional and FloatLoadsAndStores. -/
theorem witness_accesses :
    let s := st rv64 [memIs 0x80001000 4 [0xDEADBEEF], fsIs 1];
    Memory.wf s.hart.mem = true ∧ s.hart.mstatus.fs ≠ 0 ∧ (st rv64 []).hart.mstatus.fs = 0 ∧
    ∀ k ∈ [Access.load, .store, .amo, .lr, .sc], ∀ n ∈ [1, 2, 4, 8],
      (((0x80010000 - n) % n = 0 ∧
        ∀ i < n, byteAllowed rv64 k (byteAddr (BitVec.ofNat 64 (0x80010000 - n)) i) = true)) ∧
      (n ≠ 1 → (0x80001001 : BitVec 64).toNat % n ≠ 0) ∧
      ((0x80010000 : BitVec 64).toNat % n = 0 ∧
        ¬∀ i < n, byteAllowed rv64 k (byteAddr (0x80010000 : BitVec 64) i) = true) := by decide

theorem witness_IntegerLoads :
    AccessOk rv64 .load (0x8000FFF8 : BitVec 64) 8 ∧ (0x8000FFFC : BitVec 64).toNat % 8 ≠ 0 ∧
    touchesIo rv64 (0x8000FFF8 : BitVec 64) 8 = false := by unfold AccessOk; decide

theorem witness_IntegerStores :
    Memory.wf (st rv64 [memIs 0x80001000 4 [0xDEADBEEF]]).hart.mem = true ∧
    AccessOk rv64 .store (0x8000FFF8 : BitVec 64) 8 := by unfold AccessOk; decide

/-- A map with a device between two pieces of memory. -/
def ioConfig : Config :=
  { rv64 with pma := vectorPma ++
    [{ base := 0x10000000, size := 0x1000, kind := .io, read := true, write := true, exec := true, atomic := true }] }

theorem witness_ReadIsLittleEndian :
    8 ≤ 8 ∧ touchesIo ioConfig (0x80000000 : BitVec 64) 8 = false ∧ touchesIo ioConfig (0x10000FF8 : BitVec 64) 8 = true ∧
    Memory.wf (st ioConfig [memIs 0x80001000 4 [0xDEADBEEF]]).hart.mem = true := by decide

/-- Each branch condition can hold and can fail: with x6 = 5 and x7 = -1. -/
theorem witness_Branches :
    let s := st rv64 [xIs 6 5, xIs 7 0xFFFFFFFFFFFFFFFF]
    let a := s.hart.getX 6
    let b := s.hart.getX 7;
    (a = a ∧ ¬a = b) ∧ (b.toInt < a.toInt ∧ ¬a.toInt < b.toInt) ∧ (a.toNat < b.toNat ∧ ¬b.toNat < a.toNat) := by decide

theorem witness_FencesAndWait :
    let vmaOk (s : State) : Prop :=
      s.cfg.hasS = true ∧ s.hart.priv ≠ .u ∧ ¬(s.hart.priv = .s ∧ s.hart.mstatus.tvm = true)
    let wfiOk (s : State) : Prop := s.hart.priv = .m ∨ s.hart.mstatus.tw = false
    let tvm := fun h : Hart rv64 => { h with mstatus := { h.mstatus with tvm := true, tw := true } };
    vmaOk (st rv64 [tvm]) ∧ vmaOk (st rv64 [privIs .s]) ∧ ¬vmaOk (st rv64 [privIs .s, tvm]) ∧
    ¬vmaOk (st rv64 [privIs .u]) ∧ wfiOk (st rv64 [tvm]) ∧ wfiOk (st rv64 [privIs .u]) ∧
    ¬wfiOk (st rv64 [privIs .s, tvm]) ∧
    (let s := st rv64 [fun h => { h with mie := 8, lines := ⟨false, false, true, false⟩ }];
      wfiOk s ∧ s.hart.mip &&& s.hart.mie ≠ 0) := by decide

theorem witness_CsrInstructions :
    (st rv64 []).hart.csrAccess 0x340 true = some .mscratch ∧ (st rv64 []).hart.csrAccess 0xC22 true = none := by decide

/-- Accesses that each gate of the check lets through or stops. -/
theorem witness_CsrAccessCheck :
    (start rv64).csrAccess 0x340 true = some .mscratch ∧ (start rv64).csrAccess 0x7FF false = none ∧
    (privIs .s (start rv64)).csrAccess 0x340 false = none ∧ (start rv64).csrAccess 0xC20 true = none ∧
    (start rv64).csrAccess 0xC20 false = some .vl ∧ (start rv64).csrAccess 3 false = none ∧
    (fsIs 1 (start rv64)).csrAccess 3 false = some .fcsr ∧ (privIs .u (start rv64)).csrAccess 0xC00 false = none ∧
    (privIs .u ({ start rv64 with mcounteren := 1, scounteren := 1 })).csrAccess 0xC00 false = some .cycle := by decide

/-- MPP written as a mode and as none; a vector with MODE 1 and with MODE 2; a configuration of each width; with and
without S-mode. These serve MstatusWriteRead, SstatusIsAView, TrapCsrFields, InterruptCsrFields and OtherCsrFields. -/
theorem witness_CsrFields :
    ((0x1800 : BitVec 64).toNat / 2 ^ 11 % 4 = 3) ∧ ((0 : BitVec 64).toNat / 2 ^ 11 % 4 = 0 ∧ rv64.hasU = true) ∧
    ((0x1000 : BitVec 64).toNat / 2 ^ 11 % 4 = 2) ∧ (0x80000101 : BitVec 64).toNat % 4 < 2 ∧
    2 ≤ (0x80000102 : BitVec 64).toNat % 4 ∧ rv64.rv64 = true ∧ rv32.rv64 = false ∧ rv64.hasS = true ∧ 63 < rv64.xlen := by
  decide

/-- In CsrTable: numbers that name a CSR and are listed, one of each range at its ends, and numbers that name none. -/
theorem witness_CsrTable :
    csrOf 0xC22 = some .vlenb ∧ csrOf 0xC03 = some (.hpmcounter 3) ∧ csrOf 0x33F = some (.mhpmevent 31) ∧
    csrOf 0x3BF = some (.pmpaddr 15) ∧ csrOf 0 = none ∧ csrOf 0x102 = none ∧ csrOf 0x7B0 = none ∧ csrOf 0xB01 = none := by
  decide

theorem witness_AtomicOperations :
    AccessOk rv64 .amo (0x8000FFF8 : BitVec 64) 8 ∧ touchesIo rv64 (0x8000FFF8 : BitVec 64) 8 = false ∧
    AccessOk ioConfig .amo (0x10000FFC : BitVec 64) 4 ∧ touchesIo ioConfig (0x10000FFC : BitVec 64) 4 = true := by
  unfold AccessOk; decide

/-- A held reservation of the address, none, and a supplied failure. -/
theorem witness_LoadReservedStoreConditional :
    AccessOk rv64 .lr (0x8000FFF8 : BitVec 64) 8 ∧ AccessOk rv64 .sc (0x8000FFF8 : BitVec 64) 8 ∧
    (let s := st rv64 [fun h => { h with reservation := some 0x8000FFF8 }];
      s.hart.reservation = some 0x8000FFF8 ∧ ¬(s.cfg.scMayFail = true ∧ s.hart.scFail = true)) ∧
    (st rv64 []).hart.reservation ≠ some 0x8000FFF8 ∧
    (let s := st { rv64 with scMayFail := true } [fun h => { h with scFail := true }];
      s.cfg.scMayFail = true ∧ s.hart.scFail = true) := by unfold AccessOk; decide

/-- An instruction that retires has taken no exception. -/
theorem not_traps_of_retires {s : State} {i : Instr} {t : Hart s.cfg} (h : exec i s = .next (s.withHart t))
    (hr : t.minstret ≠ s.hart.minstret) : ¬s.Traps i := by
  rintro ⟨g, e, tval, hx, hg⟩
  have ht : t = g.raise e tval := State.next_inj (h.symm.trans hx)
  apply hr
  rw [ht, hg]
  simp only [Hart.raise, Hart.tick, Hart.trap]
  split <;> rfl

/-- add retires; ecall is an exception. They serve ReservationRule, UserIsolation and SupervisorIsolation. -/
theorem witness_ReservationRule :
    (∃ t, exec (.add 5 6 7) (st rv64 []) = .next ((st rv64 []).withHart t)) ∧ ¬(st rv64 []).Traps (.add 5 6 7) ∧
    (∃ t, exec (.scD 5 6 7 0 0) (st rv64 [xIs 7 0x80000000]) = .next ((st rv64 [xIs 7 0x80000000]).withHart t)) ∧
    (∃ t, exec .mret (st rv64 []) = .next ((st rv64 []).withHart t)) :=
  ⟨⟨_, rfl⟩, not_traps_of_retires (t := _) rfl (by decide), ⟨_, rfl⟩, ⟨_, rfl⟩⟩

/-- add retires and writes no CSR; ecall is an exception; csrrw writes mcycle, and csrrs with x0 writes nothing. -/
theorem witness_Counters :
    (∃ t, step ((st rv64 []).withFetchWord 32 0x007302B3) = .next t) ∧
    (∃ t, exec (.add 5 6 7) (st rv64 []) = .next ((st rv64 []).withHart t)) ∧ ¬(st rv64 []).Traps (.add 5 6 7) ∧
    writtenCsr (.add 5 6 7) = none ∧ (st rv64 []).Traps .ecall ∧ writtenCsr (.csrrw 5 0xB00 6) = some 0xB00 ∧
    writtenCsr (.csrrs 5 0xB00 0) = none ∧ ¬(st rv64 []).Traps (.csrrs 5 0xB00 0) ∧
    (∃ t, exec (.csrrs 5 0xB00 0) (st rv64 []) = .next ((st rv64 []).withHart t)) :=
  ⟨⟨_, rfl⟩, ⟨_, rfl⟩, not_traps_of_retires (t := _) rfl (by decide), rfl, ⟨_, .ecallFromM, _, rfl, rfl⟩, rfl, rfl,
    not_traps_of_retires (t := _) rfl (by decide), _, rfl⟩

/-- mcycle does not decrease at the end of its range (R740). -/
theorem test_mcycle_never_decreases :
    cyclesAfter 0xFFFFFFFFFFFFFFFE 5 = 0xFFFFFFFFFFFFFFFF ∧ cyclesAfter 7 5 = 12 := by decide

/-- FS Off and on; the static mode 4, the dynamic mode with frm = 4 and with frm = 5, and the illegal mode 5. These serve
the floating-point arithmetic, conversion and move statements. -/
theorem witness_FloatArithmetic :
    (st rv64 []).hart.mstatus.fs = 0 ∧ (st rv64 [fsIs 1]).hart.mstatus.fs ≠ 0 ∧
    effRm (st rv64 [fsIs 1]).hart.frm 4 = some .rmm ∧ effRm (st rv64 [fsIs 1]).hart.frm 5 = none ∧
    effRm (st rv64 [fsIs 1, fun h => { h with frm := 4 }]).hart.frm 7 = some .rmm ∧
    effRm (st rv64 [fsIs 1, fun h => { h with frm := 5 }]).hart.frm 7 = none := by decide

theorem witness_SinglesAreBoxed :
    rv64.hasD = true ∧ rv32.hasD = false ∧
    ((fIs 1 0xFFFFFFFE3F800000 (start rv64)).getF 1).toNat / 2 ^ 32 ≠ 2 ^ 32 - 1 ∧
    ((fIs 1 0xFFFFFFFF3F800000 (start rv64)).getF 1).toNat / 2 ^ 32 = 2 ^ 32 - 1 := by decide

/-! Single-precision patterns for the statements about numbers. -/

theorem value_one : valueOf .s (0x3F800000 : BitVec 32) = 1 := by
  have h : unpack .s (0x3F800000 : BitVec 32) = .fin false 0x800000 (-23) := by decide
  rw [valueOf, h]
  norm_num [FVal.value]

theorem value_three : valueOf .s (0x40400000 : BitVec 32) = 3 := by
  have h : unpack .s (0x40400000 : BitVec 32) = .fin false 0xC00000 (-22) := by decide
  rw [valueOf, h]
  norm_num [FVal.value]

theorem value_minus_three : valueOf .s (0xC0400000 : BitVec 32) = -3 := by
  have h : unpack .s (0xC0400000 : BitVec 32) = .fin true 0xC00000 (-22) := by decide
  rw [valueOf, h]
  norm_num [FVal.value]

theorem value_half : valueOf .s (0x3F000000 : BitVec 32) = 1 / 2 := by
  have h : unpack .s (0x3F000000 : BitVec 32) = .fin false 0x800000 (-24) := by decide
  rw [valueOf, h]
  norm_num [FVal.value]

/-- With a = 3, b = d = 1 every clause has its hypotheses: sums, differences, products, quotients and the four fused
results differ from 0, and a is positive. -/
theorem witness_FloatResultsAreRounded :
    let v := fun w : BitVec 32 => ((valueOf .s w : ℚ) : ℝ)
    let sign := fun neg : Bool => if neg then (-1 : ℝ) else 1
    let a := (0x40400000 : BitVec 32)
    let b := (0x3F800000 : BitVec 32);
    isFinite .s a ∧ isFinite .s b ∧ v a + v b ≠ 0 ∧ v a - v b ≠ 0 ∧ v a * v b ≠ 0 ∧ v a ≠ 0 ∧ v b ≠ 0 ∧ 0 < v a ∧
    (∀ np na : Bool, sign np * (v a * v b) + sign na * v b ≠ 0) ∧ (-1 : Int) ≠ 0 := by
  refine ⟨by unfold isFinite; decide, by unfold isFinite; decide, ?_⟩
  norm_num [value_one, value_three]

/-- A signaling and a quiet NaN, the infinities, the zeros, a least subnormal and a negative normal number, and sums and
differences of finite numbers that are exactly 0. -/
theorem witness_FloatSpecialResults :
    isNaN .s (0x7F800001 : BitVec 32) = true ∧ isSNaN .s (0x7F800001 : BitVec 32) = true ∧
    isNaN .s (0xFFC00000 : BitVec 32) = true ∧ isSNaN .s (0xFFC00000 : BitVec 32) = false ∧
    (0xFF800000 : BitVec 32).toNat % 2 ^ 31 = 0xFF * 2 ^ 23 ∧ (0x80000000 : BitVec 32).toNat % 2 ^ 31 = 0 ∧
    ¬(1 : BitVec 32).toNat % 2 ^ 31 = 0 ∧ expOf .s (1 : BitVec 32) < 255 ∧ expOf .s (0xC0400000 : BitVec 32) < 255 ∧
    signOf .s (0xC0400000 : BitVec 32) = true ∧ isNaN .s (0xFF800000 : BitVec 32) = false ∧
    isNaN .s (0x3F800000 : BitVec 32) = false ∧ ¬(0x3F800000 : BitVec 32).toNat % 2 ^ 31 = 0 := by decide

theorem witness_FloatSpecialResults_zero_sum :
    valueOf .s (0x40400000 : BitVec 32) + valueOf .s (0xC0400000 : BitVec 32) = 0 ∧
    valueOf .s (0x40400000 : BitVec 32) - valueOf .s (0x40400000 : BitVec 32) = 0 ∧
    (if true then (-1 : ℚ) else 1) * (valueOf .s (0x3F800000 : BitVec 32) * valueOf .s (0x40400000 : BitVec 32)) +
      (if false then -1 else 1) * valueOf .s (0x40400000 : BitVec 32) = 0 := by
  rw [value_one, value_three, value_minus_three]; norm_num

/-- A NaN; an infinity; and, for an unsigned conversion, a number below the range, one in it that is not an integer and
is a tie, and one in it that is exact. -/
theorem witness_ConversionToInteger :
    isNaN .s (0x7FC00000 : BitVec 32) = true ∧
    (isNaN .s (0xFF800000 : BitVec 32) = false ∧ ¬isFinite .s (0xFF800000 : BitVec 32)) ∧
    (isFinite .s (0xC0400000 : BitVec 32) ∧ RoundsToInt .rne (valueOf .s (0xC0400000 : BitVec 32)) (-3)) ∧
    (isFinite .s (0x3F000000 : BitVec 32) ∧ RoundsToInt .rne (valueOf .s (0x3F000000 : BitVec 32)) 0 ∧
      RoundsToInt .rmm (valueOf .s (0x3F000000 : BitVec 32)) 1) ∧
    (isFinite .s (0x40400000 : BitVec 32) ∧ RoundsToInt .rtz (valueOf .s (0x40400000 : BitVec 32)) 3) := by
  rw [value_half, value_three, value_minus_three]
  refine ⟨by decide, ⟨by decide, by unfold isFinite; decide⟩, ⟨by unfold isFinite; decide, ?_⟩,
    ⟨by unfold isFinite; decide, ?_, ?_⟩, by unfold isFinite; decide, ?_⟩ <;> norm_num [RoundsToInt, abs_lt]

theorem witness_FloatOrderAndClass :
    (¬isNaN .s (0x7F800000 : BitVec 32) = true ∧ ¬isNaN .s (0x80000000 : BitVec 32) = true) ∧
    isNaN .s (0x7F800001 : BitVec 32) = true ∧ isNaN .s (0x7FC00000 : BitVec 32) = true := by decide

/-- AVL between VLMAX = 4 and 8; a supported setting; and two that are not: a reserved bit, and SEW above ELEN. -/
theorem witness_SetVectorLength :
    (4 < 5 ∧ 5 < 2 * 4) ∧ (8 < 32 ∧ 8 * 2 ^ (8 / 4 % 8) ≤ rv64.elen) ∧
    ¬(0x28 < 32 ∧ 8 * 2 ^ (0x28 / 4 % 8) ≤ rv64.elen) ∧ ¬(0x10 < 32 ∧ 8 * 2 ^ (0x10 / 4 % 8) ≤ rv64.elen) := by decide

/-- A proper setting, four elements of which the first is before vstart, at the last addresses of the memory. -/
def vectorState (a : Nat) : State := st rv64 [e32 4 1, xIs 10 a, memIs 0x80001000 4 [0xDEADBEEF]]

/-- An access of every body element is allowed; the last element lies above the memory; and the checks of a legal and of
an illegal instruction, by vill and by the width. -/
theorem witness_VectorLoads :
    (vectorState 0x8000FFF0).cfg.wf = true ∧ (vectorState 0x8000FFF0).hart.vectorOk ∧
    (vectorState 0x8000FFF0).hart.vloadOk 4 1 32 = true ∧
    (∀ j, (vectorState 0x8000FFF0).hart.inBody 1 j → AccessOk rv64 .load (BitVec.ofNat 64 (0x8000FFF0 + j * 4)) 4) ∧
    ((vectorState 0x8000FFF4).hart.inBody 1 3 ∧
      (∀ k < 3, (vectorState 0x8000FFF4).hart.inBody 1 k →
        AccessOk rv64 .load (BitVec.ofNat 64 (0x8000FFF4 + k * 4)) 4) ∧
      accessCheck rv64 .load (BitVec.ofNat 64 (0x8000FFF4 + 3 * 4)) 4 = some .loadAccessFault) ∧
    (st rv64 []).hart.vloadOk 4 1 32 = false ∧ (vectorState 0x8000FFF0).hart.vloadOk 0 0 32 = false ∧
    (st rv64 [e32 4 0, fun h => { h with vtype := 0 }]).hart.vloadOk 4 1 16 = false := by
  refine ⟨by decide, by unfold Hart.vectorOk; decide, by decide, ?_, ⟨by unfold Hart.inBody; decide, ?_, by decide⟩,
    by decide, by decide, by decide⟩
  · rintro j ⟨-, h, -⟩
    have h : j < 4 := h
    unfold AccessOk
    interval_cases j <;> decide
  · intro k hk _
    unfold AccessOk
    interval_cases k <;> decide

theorem witness_VectorStores :
    Memory.wf (vectorState 0x8000FFF0).hart.mem = true ∧ (vectorState 0x8000FFF0).hart.vstoreOk 4 32 = true ∧
    (vectorState 0x8000FFF0).hart.vstoreOk 4 64 = false ∧
    (∀ j, (vectorState 0x8000FFF0).hart.inBody 1 j → AccessOk rv64 .store (BitVec.ofNat 64 (0x8000FFF0 + j * 4)) 4) ∧
    (vectorState 0x8000FFF4).hart.inBody 1 3 ∧
    (∀ k < 3, (vectorState 0x8000FFF4).hart.inBody 1 k →
      AccessOk rv64 .store (BitVec.ofNat 64 (0x8000FFF4 + k * 4)) 4) ∧
    accessCheck rv64 .store (BitVec.ofNat 64 (0x8000FFF4 + 3 * 4)) 4 = some .storeAccessFault := by
  refine ⟨by decide, by decide, by decide, ?_, by unfold Hart.inBody; decide, ?_, by decide⟩
  · rintro j ⟨-, h, -⟩
    have h : j < 4 := h
    unfold AccessOk
    interval_cases j <;> decide
  · intro k hk _
    unfold AccessOk
    interval_cases k <;> decide

/-- Elements 1 and 2 are stored and element 3 raises its fault: the bytes stored before it, and stale_code (R556). -/
theorem test_vsw_trap_keeps_earlier_elements :
    let r := (vectorState 0x8000FFF4).hart.vstoreUnit 4 10 1 32;
    ∃ h, r = .trap h .storeAccessFault 0x80010000 ∧ h.vstart = 3 ∧
      h.stale = [0x8000FFF8, 0x8000FFF9, 0x8000FFFA, 0x8000FFFB, 0x8000FFFC, 0x8000FFFD, 0x8000FFFE, 0x8000FFFF] :=
  ⟨_, rfl, by decide, by decide⟩

/-- Legal and illegal operands of the arithmetic and of the comparisons, under LMUL = 1 and LMUL = 8. They serve
VectorAddLogicShift, VectorMinMaxMultiply and VectorComparisons. -/
theorem witness_VectorArithmetic :
    let s := vectorState 0
    let t := st rv64 [e32 4 0, fun h => { h with vtype := 11 }];
    (s.cfg.wf = true ∧ s.hart.vectorOk ∧ s.hart.varithOk 4 0 [8, 12] = true ∧ s.hart.varithOk 0 0 [8, 12] = false ∧
      s.hart.vcompareOk 0 [8, 12] = true) ∧
    (t.cfg.wf = true ∧ t.hart.vectorOk ∧ t.hart.varithOk 24 1 [8, 16] = true ∧ t.hart.varithOk 24 1 [8, 12] = false ∧
      t.hart.vcompareOk 31 [8, 16] = true ∧ t.hart.vcompareOk 15 [8, 16] = false) := by unfold Hart.vectorOk; decide

theorem witness_MemoryIsWrittenByStoresOnly :
    (∃ t, exec (.add 5 6 7) (st rv64 []) = .next ((st rv64 []).withHart t)) ∧ ¬StoresToMemory (.add 5 6 7) ∧
    (∃ t, exec (.sw 5 6 0) (st rv64 []) = .next ((st rv64 []).withHart t)) ∧ StoresToMemory (.sw 5 6 0) ∧
    byteAllowed rv64 .store 0x80010000 = false ∧ Memory.wf (st rv64 []).hart.mem = true :=
  ⟨⟨_, rfl⟩, id, ⟨_, rfl⟩, trivial, by decide, by decide⟩

/-- In U-mode add completes and is no exception, and csrrw of mscratch is one. -/
theorem witness_UserIsolation :
    let s := st rv64 [privIs .u];
    s.hart.priv = .u ∧ (∃ t, exec (.add 5 6 7) s = .next (s.withHart t)) ∧ ¬s.Traps (.add 5 6 7) ∧
    s.Traps (.csrrw 5 0x340 6) :=
  ⟨rfl, ⟨_, rfl⟩, not_traps_of_retires (t := _) rfl (by decide), _, .illegalInstruction, _, rfl, rfl⟩

/-- In S-mode sret lowers the mode, and csrrw of sstatus keeps it. -/
theorem witness_SupervisorIsolation :
    let s := st rv64 [privIs .s];
    s.hart.priv ≠ .m ∧ (∃ t, exec .sret s = .next (s.withHart t) ∧ t.priv ≠ s.hart.priv) ∧
    (∃ t, exec (.csrrw 5 0x100 6) s = .next (s.withHart t)) ∧ ¬s.Traps (.csrrw 5 0x100 6) :=
  ⟨by decide, ⟨_, rfl, by decide⟩, ⟨_, rfl⟩, not_traps_of_retires (t := _) rfl (by decide)⟩

end Sys2Proof.Tests
end

section
/-! What an instruction other than a CSR access or a trap return can do, said once for every such instruction: it
completes having worked on the state of user mode alone, or it raises an exception after at most the element transfers
of a vector access. The invariant, the isolation claims and the counter claim are derived from it. -/

namespace Sys2Proof.Machine

open Sys2Proof

variable {c : Config}

/-! ## The parts of the hart that plain instructions touch -/

/-- The hart h, with the fields of k that the elements of a vector access change before an exception (R556, R706). -/
def Hart.withElements (h k : Hart c) : Hart c :=
  { h with v := k.v, vstart := k.vstart, mem := k.mem, stale := k.stale, ioOut := k.ioOut, draws := k.draws }

/-- The hart h, with the fields of k that are the state of user mode: registers, flags, the vector setting, memory, the
reservation, the waiting and FS. -/
def Hart.withUser (h k : Hart c) : Hart c :=
  { h with
    x := k.x, f := k.f, v := k.v, fflags := k.fflags, vstart := k.vstart, vl := k.vl, vtype := k.vtype,
    mem := k.mem, stale := k.stale, ioOut := k.ioOut, reservation := k.reservation, draws := k.draws,
    waiting := k.waiting, mstatus := { h.mstatus with fs := k.mstatus.fs } }

/-- From h to k only elements of a vector access have been transferred, and the invariant's parts on them are kept. -/
structure Hart.Transfers (h k : Hart c) : Prop where
  frame : k = h.withElements k
  mem : h.memOk → k.memOk
  stale : h.staleOk → k.staleOk
  vector : h.vectorOk → k.vectorOk

/-- From h to k only state of user mode has changed, FS only where it is not Off, and the invariant's parts are kept. -/
structure Hart.Works (h k : Hart c) : Prop where
  frame : k = h.withUser k
  fs : h.mstatus.fs = 0 → k.mstatus.fs = 0
  mem : h.memOk → k.memOk
  stale : h.staleOk → k.staleOk
  vector : h.vectorOk → k.vectorOk

theorem Hart.Transfers.refl (h : Hart c) : h.Transfers h := ⟨rfl, id, id, id⟩

theorem Hart.Transfers.trans {h k l : Hart c} (hk : h.Transfers k) (kl : k.Transfers l) : h.Transfers l where
  frame := calc
    l = k.withElements l := kl.frame
    _ = (h.withElements k).withElements l := congrArg (·.withElements l) hk.frame
    _ = h.withElements l := rfl
  mem := kl.mem ∘ hk.mem
  stale := kl.stale ∘ hk.stale
  vector := kl.vector ∘ hk.vector

theorem Hart.Works.refl (h : Hart c) : h.Works h := ⟨rfl, id, id, id, id⟩

theorem Hart.Works.trans {h k l : Hart c} (hk : h.Works k) (kl : k.Works l) : h.Works l where
  frame := calc
    l = k.withUser l := kl.frame
    _ = (h.withUser k).withUser l := congrArg (·.withUser l) hk.frame
    _ = h.withUser l := rfl
  fs := kl.fs ∘ hk.fs
  mem := kl.mem ∘ hk.mem
  stale := kl.stale ∘ hk.stale
  vector := kl.vector ∘ hk.vector

theorem Hart.Transfers.works {h k : Hart c} (hk : h.Transfers k) : h.Works k where
  frame := by rw [hk.frame]; rfl
  fs := by rw [hk.frame]; exact id
  mem := hk.mem
  stale := hk.stale
  vector := hk.vector

/-! ## The parts of the invariant depend on these fields only -/

theorem Hart.memOk_congr {h k : Hart c} (e : k.mem = h.mem) : k.memOk ↔ h.memOk := by
  unfold Hart.memOk; rw [e]

theorem Hart.staleOk_congr {h k : Hart c} (e : k.stale = h.stale) : k.staleOk ↔ h.staleOk := by
  unfold Hart.staleOk; rw [e]

theorem Hart.vectorOk_congr {h k : Hart c} (ht : k.vtype = h.vtype) (hl : k.vl = h.vl) (hs : k.vstart = h.vstart) :
    k.vectorOk ↔ h.vectorOk := by
  unfold Hart.vectorOk; rw [ht, hl, hs]

/-- The vector setting stays proper when vstart becomes an index below VLEN. -/
theorem Hart.vectorOk_of_vstart {h k : Hart c} (hv : h.vectorOk) (ht : k.vtype = h.vtype) (hl : k.vl = h.vl)
    (hs : k.vstart.toNat < c.vlen) : k.vectorOk := by
  unfold Hart.vectorOk at hv ⊢
  rw [ht, hl]
  exact ⟨hv.1, hs⟩

theorem lmulOf_le_sewOf {n : Nat} (vtype : BitVec n) : lmulOf vtype ≤ sewOf vtype := by
  unfold lmulOf sewOf
  have h2 : (vtype.extractLsb' 0 2).toNat ≤ 3 := Nat.le_of_lt_succ (vtype.extractLsb' 0 2).isLt
  calc 2 ^ (vtype.extractLsb' 0 2).toNat ≤ 2 ^ 3 := Nat.pow_le_pow_right (by norm_num) h2
    _ ≤ 8 * 2 ^ (vtype.extractLsb' 2 3).toNat := Nat.le_mul_of_pos_right _ (Nat.two_pow_pos _)

theorem vlmaxOf_le_vlen (c : Config) {n : Nat} (vtype : BitVec n) : vlmaxOf c vtype ≤ c.vlen := by
  unfold vlmaxOf
  refine Nat.div_le_of_le_mul ?_
  exact Nat.mul_le_mul_right _ (lmulOf_le_sewOf vtype)

/-- vl never passes VLEN. -/
theorem Hart.vectorOk.vl_le {h : Hart c} (hv : h.vectorOk) : h.vl.toNat ≤ c.vlen := by
  rcases hv.1 with ⟨-, hvl⟩ | ⟨-, hvl⟩
  · simp [hvl]
  · exact hvl.trans (vlmaxOf_le_vlen c _)

/-- Work that leaves memory, stale_code and the vector setting alone. -/
theorem Hart.Works.of_frame {h k : Hart c} (frame : k = h.withUser k) (fs : h.mstatus.fs = 0 → k.mstatus.fs = 0)
    (mem : k.mem = h.mem) (stale : k.stale = h.stale)
    (vset : k.vtype = h.vtype ∧ k.vl = h.vl ∧ k.vstart = h.vstart) : h.Works k :=
  ⟨frame, fs, (Hart.memOk_congr mem).2, (Hart.staleOk_congr stale).2, (Hart.vectorOk_congr vset.1 vset.2.1 vset.2.2).2⟩

/-! ## What the operations of the state do -/

theorem Hart.works_setX (h : Hart c) (r : BitVec 5) (v : BitVec c.xlen) : h.Works (h.setX r v) :=
  .of_frame (by unfold Hart.setX; split <;> rfl) (by simp) (by simp) (by simp) (by simp)

theorem Hart.works_setF (h : Hart c) (r : BitVec 5) (v : BitVec c.flen) (hfs : h.mstatus.fs ≠ 0) :
    h.Works (h.setF r v) :=
  .of_frame rfl (fun h0 => absurd h0 hfs) rfl rfl ⟨rfl, rfl, rfl⟩

theorem Hart.works_setFlags (h : Hart c) (fl : BitVec 5) (hfs : h.mstatus.fs ≠ 0) : h.Works (h.setFlags fl) :=
  .of_frame (by unfold Hart.setFlags; split <;> rfl) (fun h0 => absurd h0 hfs) (by simp) (by simp) (by simp)

theorem Hart.setF_fs_ne (h : Hart c) (r : BitVec 5) (v : BitVec c.flen) : (h.setF r v).mstatus.fs ≠ 0 :=
  show (3 : BitVec 2) ≠ 0 by decide

theorem Hart.transfers_afterRead (h : Hart c) (a : BitVec c.xlen) (n : Nat) : h.Transfers (h.afterRead a n) := by
  unfold Hart.afterRead
  split
  · exact ⟨rfl, id, id, id⟩
  · exact .refl h

/-- Every listed address of a memory with a store in it exists when those before did. -/
theorem Hart.memOk_writeMem {h : Hart c} (hm : h.memOk) (a : BitVec c.xlen) (n : Nat) (v : BitVec 64) :
    (h.writeMem a n v).memOk := by
  obtain ⟨hwf, hlt⟩ := hm
  refine ⟨Hart.writeMem_wf hwf a n v, fun p hp => ?_⟩
  rw [Hart.writeMem_mem] at hp
  split at hp
  · exact hlt p hp
  · rcases Memory.mem_store hp with ⟨k, -, e⟩ | hp
    · rw [e]; exact byteAddr_lt _ _
    · exact hlt p hp

theorem Hart.staleOk_writeMem {h : Hart c} (hs : h.staleOk) (a : BitVec c.xlen) (n : Nat) (v : BitVec 64) :
    (h.writeMem a n v).staleOk := by
  obtain ⟨hsort, hlt⟩ := hs
  unfold Hart.staleOk
  rw [Hart.writeMem_stale]
  refine ⟨staleStore_sorted hsort _ _, fun b hb => ?_⟩
  rcases mem_staleStore.1 hb with hb | ⟨k, -, rfl⟩
  · exact hlt b hb
  · exact byteAddr_lt _ _

theorem Hart.transfers_writeMem (h : Hart c) (a : BitVec c.xlen) (n : Nat) (v : BitVec 64) :
    h.Transfers (h.writeMem a n v) where
  frame := by unfold Hart.writeMem; split <;> rfl
  mem hm := Hart.memOk_writeMem hm a n v
  stale hs := Hart.staleOk_writeMem hs a n v
  vector := by rw [Hart.writeMem_eq]; exact id

theorem Hart.transfers_setV (h : Hart c) (n : Nat) (e : BitVec c.vlen) : h.Transfers (h.setV n e) :=
  ⟨rfl, id, id, id⟩

/-! ## How a plain instruction ends -/

/-- The ways a plain instruction ends, from the hart h: it has worked on user state, and a target it jumps to is even
where pc was, or it traps after transferring elements. -/
inductive Res.Plain (h : Hart c) : Res c → Prop
  | next {k : Hart c} (hk : h.Works k) : Res.Plain h (.next k)
  | jump {k : Hart c} {target : BitVec c.xlen} (hk : h.Works k)
      (heven : h.pc.getLsbD 0 = false → target.getLsbD 0 = false) : Res.Plain h (.jump k target)
  | trap {k : Hart c} {e : Exc} {tval : BitVec c.xlen} (hk : h.Transfers k) : Res.Plain h (.trap k e tval)
  | illegal : Res.Plain h .illegal

theorem Res.plain_ite {h : Hart c} {p : Prop} [Decidable p] {r r' : Res c} (hr : p → Res.Plain h r)
    (hr' : ¬p → Res.Plain h r') : Res.Plain h (if p then r else r') := by
  split
  · exact hr ‹_›
  · exact hr' ‹_›

/-! ### Integer results, branches and jumps -/

theorem Hart.plain_result (h : Hart c) (rd : BitVec 5) (v : BitVec c.xlen) : Res.Plain h (h.result rd v) :=
  .next (h.works_setX rd v)

theorem offsetX_even (c : Config) {n : Nat} (off : BitVec n) : (offsetX c off).getLsbD 0 = false := by
  simp [offsetX, BitVec.getLsbD_signExtend, BitVec.getElem_append]

/-- A sum of even words is even. -/
theorem getLsbD_zero_add {n : Nat} {a b : BitVec n} (ha : a.getLsbD 0 = false) (hb : b.getLsbD 0 = false) :
    (a + b).getLsbD 0 = false := by
  rcases Nat.eq_zero_or_pos n with rfl | hn
  · simp
  · simp [BitVec.getLsbD_add hn, ha, hb]

theorem evenAddr_even {n : Nat} (a : BitVec n) : (evenAddr a).getLsbD 0 = false := by
  unfold evenAddr; simp

theorem Hart.plain_branch (h : Hart c) (taken : Bool) {n : Nat} (offset : BitVec n) :
    Res.Plain h (h.branch taken offset) :=
  Res.plain_ite (fun _ => .jump (.refl h) fun hpc => getLsbD_zero_add hpc (offsetX_even c offset))
    (fun _ => .next (.refl h))

theorem Hart.plain_jumpBy (h : Hart c) {n : Nat} (offset : BitVec n) :
    Res.Plain h (.jump h (h.pc + offsetX c offset)) :=
  .jump (.refl h) fun hpc => getLsbD_zero_add hpc (offsetX_even c offset)

theorem Hart.plain_jumpTo (h : Hart c) (a : BitVec c.xlen) : Res.Plain h (.jump h (evenAddr a)) :=
  .jump (.refl h) fun _ => evenAddr_even a

theorem Hart.plain_linkBy (h : Hart c) (rd : BitVec 5) (len : Nat) {n : Nat} (offset : BitVec n) :
    Res.Plain h (h.link rd len (h.pc + offsetX c offset)) :=
  .jump (h.works_setX rd _) fun hpc => getLsbD_zero_add hpc (offsetX_even c offset)

theorem Hart.plain_linkTo (h : Hart c) (rd : BitVec 5) (len : Nat) (a : BitVec c.xlen) :
    Res.Plain h (h.link rd len (evenAddr a)) :=
  .jump (h.works_setX rd _) fun _ => evenAddr_even a

/-! ### Memory and atomics -/

theorem Hart.plain_withLoad (h : Hart c) (k : Access) (a : BitVec c.xlen) (n : Nat) {use : Hart c → BitVec 64 → Res c}
    (huse : ∀ v, Res.Plain h (use (h.afterRead a n) v)) : Res.Plain h (h.withLoad k a n use) := by
  unfold Hart.withLoad
  split
  · exact .trap (.refl h)
  · exact huse _

theorem Hart.plain_loadX (h : Hart c) (rd : BitVec 5) (a : BitVec c.xlen) (n : Nat) (ext : BitVec 64 → BitVec c.xlen) :
    Res.Plain h (h.loadX rd a n ext) :=
  h.plain_withLoad .load a n fun v => .next ((h.transfers_afterRead a n).works.trans (Hart.works_setX _ rd (ext v)))

theorem Hart.plain_storeMem (h : Hart c) (a : BitVec c.xlen) (n : Nat) (v : BitVec 64) :
    Res.Plain h (h.storeMem a n v) := by
  unfold Hart.storeMem Hart.withStore
  split
  · exact .trap (.refl h)
  · exact .next (h.transfers_writeMem a n v).works

theorem Hart.plain_amo (h : Hart c) (rd rs1 : BitVec 5) (n : Nat) (f : BitVec 64 → BitVec 64)
    (ext : BitVec 64 → BitVec c.xlen) : Res.Plain h (h.amo rd rs1 n f ext) := by
  unfold Hart.amo
  exact h.plain_withLoad .amo _ n fun v => .next <|
    ((h.transfers_afterRead _ n).trans (Hart.transfers_writeMem _ _ n (f v))).works.trans (Hart.works_setX _ rd (ext v))

theorem Hart.works_reservation (h : Hart c) (r : Option (BitVec c.xlen)) : h.Works { h with reservation := r } :=
  .of_frame rfl id rfl rfl ⟨rfl, rfl, rfl⟩

theorem Hart.plain_loadReserved (h : Hart c) (rd rs1 : BitVec 5) :
    Res.Plain h (h.withLoad .lr (h.getX rs1) 8 fun h' v =>
      .next { h'.setX rd (unsignedLoad c 64 v) with reservation := some (h.getX rs1) }) :=
  h.plain_withLoad .lr _ 8 fun v => .next <|
    ((h.transfers_afterRead _ 8).works.trans (Hart.works_setX _ rd (unsignedLoad c 64 v))).trans (Hart.works_reservation _ _)

theorem Hart.works_scStore (h : Hart c) (rd : BitVec 5) (a : BitVec c.xlen) (v : BitVec 64) :
    h.Works (h.scStore rd a v) := by
  unfold Hart.scStore
  split
  · exact ((h.transfers_writeMem a 8 v).works.trans (Hart.works_setX _ rd 0)).trans (Hart.works_reservation _ _)
  · exact (h.works_setX rd 1).trans (Hart.works_reservation _ _)

theorem Hart.plain_storeConditional (h : Hart c) (rd : BitVec 5) (a : BitVec c.xlen) (v : BitVec 64) :
    Res.Plain h (match accessCheck c .sc a 8 with
      | some e => .trap h e a
      | none => .next (h.scStore rd a v)) := by
  split
  · exact .trap (.refl h)
  · exact .next (h.works_scStore rd a v)

/-! ### Floating point: FS is not Off where a register or a flag is written -/

theorem Hart.plain_withFp (h : Hart c) {r : Res c} (hr : h.mstatus.fs ≠ 0 → Res.Plain h r) :
    Res.Plain h (h.withFp r) :=
  Res.plain_ite (fun _ => .illegal) hr

theorem Hart.plain_withRm (h : Hart c) (rm : BitVec 3) {k : Rounding → Res c}
    (hk : h.mstatus.fs ≠ 0 → ∀ m, Res.Plain h (k m)) : Res.Plain h (h.withRm rm k) :=
  h.plain_withFp fun hfs => by
    split
    · exact .illegal
    · exact hk hfs _

theorem Hart.plain_fpF (h : Hart c) (rd : BitVec 5) (w : BitVec c.flen) (fl : BitVec 5) (hfs : h.mstatus.fs ≠ 0) :
    Res.Plain h (.next ((h.setF rd w).setFlags fl)) :=
  .next ((h.works_setF rd w hfs).trans (Hart.works_setFlags _ fl (h.setF_fs_ne rd w)))

theorem Hart.plain_fpX (h : Hart c) (rd : BitVec 5) (v : BitVec c.xlen) (fl : BitVec 5) (hfs : h.mstatus.fs ≠ 0) :
    Res.Plain h (.next ((h.setX rd v).setFlags fl)) :=
  .next ((h.works_setX rd v).trans (Hart.works_setFlags _ fl (by simpa using hfs)))

theorem Hart.plain_roundS (h : Hart c) (rm : BitVec 3) (rd : BitVec 5) (op : Rounding → Rounded) :
    Res.Plain h (h.withRm rm fun m => h.putS rd (op m)) :=
  h.plain_withRm rm fun hfs m => h.plain_fpF rd _ (op m).2 hfs

theorem Hart.plain_roundD (h : Hart c) (rm : BitVec 3) (rd : BitVec 5) (op : Rounding → Rounded) :
    Res.Plain h (h.withRm rm fun m => h.putD rd (op m)) :=
  h.plain_withRm rm fun hfs m => h.plain_fpF rd _ (op m).2 hfs

theorem Hart.plain_convert32 (h : Hart c) (rm : BitVec 3) (rd : BitVec 5) (op : Rounding → Int × BitVec 5) :
    Res.Plain h (h.withRm rm fun m => h.putInt32 rd (op m)) :=
  h.plain_withRm rm fun hfs m => h.plain_fpX rd _ (op m).2 hfs

theorem Hart.plain_convert64 (h : Hart c) (rm : BitVec 3) (rd : BitVec 5) (op : Rounding → Int × BitVec 5) :
    Res.Plain h (h.withRm rm fun m => h.putInt64 rd (op m)) :=
  h.plain_withRm rm fun hfs m => h.plain_fpX rd _ (op m).2 hfs

theorem Hart.plain_putS (h : Hart c) (rd : BitVec 5) (r : Rounded) : Res.Plain h (h.withFp (h.putS rd r)) :=
  h.plain_withFp (h.plain_fpF rd _ r.2)

theorem Hart.plain_putD (h : Hart c) (rd : BitVec 5) (r : Rounded) : Res.Plain h (h.withFp (h.putD rd r)) :=
  h.plain_withFp (h.plain_fpF rd _ r.2)

theorem Hart.plain_putBool (h : Hart c) (rd : BitVec 5) (r : Bool × BitVec 5) :
    Res.Plain h (h.withFp (h.putBool rd r)) :=
  h.plain_withFp (h.plain_fpX rd _ r.2)

theorem Hart.plain_setF (h : Hart c) (rd : BitVec 5) (w : BitVec c.flen) :
    Res.Plain h (h.withFp (.next (h.setF rd w))) :=
  h.plain_withFp fun hfs => .next (h.works_setF rd w hfs)

theorem Hart.plain_fpResult (h : Hart c) (rd : BitVec 5) (v : BitVec c.xlen) :
    Res.Plain h (h.withFp (h.result rd v)) :=
  h.plain_withFp fun _ => h.plain_result rd v

theorem Hart.plain_loadF (h : Hart c) (rd : BitVec 5) (a : BitVec c.xlen) (n : Nat) (ext : BitVec 64 → BitVec c.flen) :
    Res.Plain h (h.withFp (h.withLoad .load a n fun h' v => .next (h'.setF rd (ext v)))) :=
  h.plain_withFp fun hfs => h.plain_withLoad .load a n fun v => .next <|
    (h.transfers_afterRead a n).works.trans (Hart.works_setF _ rd (ext v) (by rwa [Hart.afterRead_eq]))

theorem Hart.plain_loadS (h : Hart c) (rd : BitVec 5) (a : BitVec c.xlen) : Res.Plain h (h.loadS rd a) :=
  h.plain_loadF rd a 4 fun v => box32 c (low32 v)

theorem Hart.plain_loadD (h : Hart c) (rd : BitVec 5) (a : BitVec c.xlen) : Res.Plain h (h.loadD rd a) :=
  h.plain_loadF rd a 8 fun v => v.setWidth c.flen

theorem Hart.plain_storeF (h : Hart c) (rs2 : BitVec 5) (a : BitVec c.xlen) (n : Nat) :
    Res.Plain h (h.storeF rs2 a n) :=
  h.plain_withFp fun _ => h.plain_storeMem a n _

/-! ### Fences and waiting -/

theorem Hart.plain_fenceI (h : Hart c) : Res.Plain h (.next { h with stale := [] }) :=
  .next ⟨rfl, id, id, fun _ => ⟨.nil, by simp⟩, id⟩

theorem Hart.plain_sfence (h : Hart c) (b : Bool) : Res.Plain h (if b then .illegal else .next h) :=
  Res.plain_ite (fun _ => .illegal) fun _ => .next (.refl h)

theorem Hart.plain_wfi (h : Hart c) (b w : Bool) : Res.Plain h (if b then .illegal else .next { h with waiting := w }) :=
  Res.plain_ite (fun _ => .illegal) fun _ => .next (.of_frame rfl id rfl rfl ⟨rfl, rfl, rfl⟩)

/-! ### The vector setting -/

theorem newVl_le (avl vlmax : Nat) : newVl avl vlmax ≤ vlmax := by
  unfold newVl
  split
  · assumption
  · split
    · exact le_refl _
    · exact max_le (by omega) (min_le_right _ _)

theorem Hart.plain_setVL (h : Hart c) (rd rs1 : BitVec 5) (newtype : BitVec c.xlen) :
    Res.Plain h (h.setVL rd rs1 newtype) := by
  unfold Hart.setVL
  refine Res.plain_ite (fun hsup => .next ?_) fun _ => .next ?_
  · refine ⟨?_, by simp, (Hart.memOk_congr (by simp)).2, (Hart.staleOk_congr (by simp)).2, fun hv => ⟨.inr ⟨hsup, ?_⟩, ?_⟩⟩
    · unfold Hart.setX; split <;> rfl
    · rw [BitVec.toNat_ofNat]
      exact (Nat.mod_le _ _).trans (newVl_le _ _)
    · exact (Nat.zero_le _).trans_lt hv.2
  · refine ⟨?_, by simp, (Hart.memOk_congr (by simp)).2, (Hart.staleOk_congr (by simp)).2, fun hv => ⟨.inl ⟨rfl, rfl⟩, ?_⟩⟩
    · unfold Hart.setX; split <;> rfl
    · exact (Nat.zero_le _).trans_lt hv.2

/-! ### The element loop -/

/-- One element of a vector instruction: it transfers something, and may raise an exception. -/
inductive Res.Elem (h : Hart c) : Res c → Prop
  | next {k : Hart c} (hk : h.Transfers k) : Res.Elem h (.next k)
  | trap {k : Hart c} {e : Exc} {tval : BitVec c.xlen} (hk : h.Transfers k) : Res.Elem h (.trap k e tval)

theorem Hart.Transfers.vl {h k : Hart c} (hk : h.Transfers k) : k.vl = h.vl := by rw [hk.frame]; rfl

/-- Setting vstart, to 0 or to the index of a body element, is a transfer. -/
theorem Hart.Transfers.vstart {h k : Hart c} (hk : h.Transfers k) (n : Nat) (hn : n = 0 ∨ n < h.vl.toNat) :
    h.Transfers { k with vstart := BitVec.ofNat c.xlen n } where
  frame := by conv_lhs => rw [hk.frame]
              rfl
  mem := hk.mem
  stale := hk.stale
  vector hv := by
    refine Hart.vectorOk_of_vstart (hk.vector hv) rfl rfl ((Nat.mod_le _ _).trans_lt ?_)
    rcases hn with rfl | hn
    · exact (Nat.zero_le _).trans_lt hv.2
    · exact hn.trans_le hv.vl_le

theorem plain_vloop {h : Hart c} {body : Nat → Hart c → Res c} (hbody : ∀ j k, Res.Elem k (body j k)) (count j : Nat)
    (k : Hart c) (hk : h.Transfers k) (hcount : count ≤ h.vl.toNat - j) : Res.Plain h (vloop body count j k) := by
  induction count generalizing j k with
  | zero => exact .next (hk.vstart 0 (.inl rfl)).works
  | succ n ih =>
    rw [vloop]
    have hb := hbody j k
    generalize body j k = r at hb ⊢
    cases hb with
    | next hl => exact ih (j + 1) _ (hk.trans hl) (by omega)
    | trap hl => exact .trap ((hk.trans hl).vstart j (.inr (by omega)))

theorem Hart.plain_elements (h : Hart c) (vm : BitVec 1) {body : Nat → Hart c → Res c}
    (hbody : ∀ j k, Res.Elem k (body j k)) : Res.Plain h (h.elements vm body) := by
  refine plain_vloop (fun j k => ?_) _ _ h (.refl h) (le_refl _)
  split
  · exact hbody j k
  · exact .next (.refl k)

theorem Hart.plain_varith (h : Hart c) (vd vs2 : BitVec 5) (vm : BitVec 1) (src : List (BitVec 5)) (f : ElemOp)
    (op1 : (h : Hart c) → Nat → BitVec h.sew) : Res.Plain h (h.varith vd vs2 vm src f op1) :=
  Res.plain_ite (fun _ => h.plain_elements vm fun _ _ => .next (Hart.transfers_setV _ _ _)) fun _ => .illegal

theorem Hart.plain_vmulAdd (h : Hart c) (vd vs2 : BitVec 5) (vm : BitVec 1) (src : List (BitVec 5)) (f : ElemOp3)
    (op1 : (h : Hart c) → Nat → BitVec h.sew) : Res.Plain h (h.vmulAdd vd vs2 vm src f op1) :=
  Res.plain_ite (fun _ => h.plain_elements vm fun _ _ => .next (Hart.transfers_setV _ _ _)) fun _ => .illegal

theorem Hart.plain_vcompare (h : Hart c) (vd vs2 : BitVec 5) (vm : BitVec 1) (src : List (BitVec 5)) (cmp : ElemCmp)
    (op1 : (h : Hart c) → Nat → BitVec h.sew) : Res.Plain h (h.vcompare vd vs2 vm src cmp op1) :=
  Res.plain_ite (fun _ => h.plain_elements vm fun _ _ => .next (Hart.transfers_setV _ _ _)) fun _ => .illegal

theorem transfers_readPieces (a : BitVec c.xlen) (w k : Nat) (h : Hart c) : h.Transfers (readPieces a w k h).2 := by
  induction k with
  | zero => exact .refl h
  | succ k ih => exact ih.trans (Hart.transfers_afterRead _ _ _)

theorem Hart.transfers_readElem (h : Hart c) (a : BitVec c.xlen) (w : Nat) : h.Transfers (h.readElem a w).2 := by
  unfold Hart.readElem
  split
  · exact h.transfers_afterRead _ _
  · exact transfers_readPieces a w _ h

theorem transfers_writePieces {w : Nat} (a : BitVec c.xlen) (e : BitVec w) (k : Nat) (h : Hart c) :
    h.Transfers (writePieces a e k h) := by
  induction k with
  | zero => exact .refl h
  | succ k ih => exact ih.trans (Hart.transfers_writeMem _ _ _ _)

theorem Hart.transfers_writeElem {w : Nat} (h : Hart c) (a : BitVec c.xlen) (e : BitVec w) :
    h.Transfers (h.writeElem a e) := by
  unfold Hart.writeElem
  split
  · exact h.transfers_writeMem _ _ _
  · exact transfers_writePieces a e _ h

theorem Hart.elem_loadElem (h : Hart c) (vd : BitVec 5) (j : Nat) (a : BitVec c.xlen) (w : Nat) (signed : Bool) :
    Res.Elem h (h.loadElem vd j a w signed) := by
  unfold Hart.loadElem
  split
  · exact .trap (.refl h)
  · exact .next ((h.transfers_readElem a w).trans (Hart.transfers_setV _ _ _))

theorem Hart.elem_storeElem (h : Hart c) (vs3 : BitVec 5) (j : Nat) (a : BitVec c.xlen) (w : Nat) :
    Res.Elem h (h.storeElem vs3 j a w) := by
  unfold Hart.storeElem
  split
  · exact .trap (.refl h)
  · exact .next (h.transfers_writeElem a _)

/-- The vector loads: the elements are loaded, or the checks fail. -/
theorem Hart.plain_vload (h : Hart c) (vd : BitVec 5) (vm : BitVec 1) (w : Nat) (signed legal : Bool)
    (addr : Nat → Hart c → BitVec c.xlen) :
    Res.Plain h (if legal then h.elements vm fun j h' => h'.loadElem vd j (addr j h') w signed else .illegal) :=
  Res.plain_ite (fun _ => h.plain_elements vm fun _ _ => Hart.elem_loadElem _ _ _ _ _ _) fun _ => .illegal

/-- The vector stores: the elements are stored, or the checks fail. -/
theorem Hart.plain_vstore (h : Hart c) (vs3 : BitVec 5) (vm : BitVec 1) (w : Nat) (legal : Bool)
    (addr : Nat → Hart c → BitVec c.xlen) :
    Res.Plain h (if legal then h.elements vm fun j h' => h'.storeElem vs3 j (addr j h') w else .illegal) :=
  Res.plain_ite (fun _ => h.plain_elements vm fun _ _ => Hart.elem_storeElem _ _ _ _ _) fun _ => .illegal

end Sys2Proof.Machine
end

section
namespace Sys2Proof.Machine

open Sys2Proof

/-- The instructions that are neither a CSR access nor a trap return. -/
def isPlain (i : Instr) : Bool :=
  match i with
  | .csrrw .. | .csrrs .. | .csrrc .. | .csrrwi .. | .csrrsi .. | .csrrci .. | .mret | .sret => false
  | _ => true

/-- Every plain instruction ends in one of the plain ways: by its shape. -/
theorem exec_plain (i : Instr) (s : State) (hi : isPlain i = true) :
    ∃ r, exec i s = s.run (encode i) r ∧ Res.Plain s.hart r := by
  cases i
  case lrD => exact ⟨_, rfl, s.hart.plain_loadReserved _ _⟩
  case scD => exact ⟨_, rfl, s.hart.plain_storeConditional _ _ _⟩
  case amoaddD | amoandD | amomaxD | amomaxuD | amominD | amominuD | amominuW | amoorD | amoswapD | amoxorD =>
    exact ⟨_, rfl, s.hart.plain_amo _ _ _ _ _⟩
  case cLw | cLwsp | cLd | cLdsp | lb | lbu | lh | lhu | lw | lwu | ld =>
    exact ⟨_, rfl, s.hart.plain_loadX _ _ _ _⟩
  case cSw | cSwsp | cSd | cSdsp | sb | sh | sw | sd => exact ⟨_, rfl, s.hart.plain_storeMem _ _ _⟩
  case cBeqz | cBnez | beq | bne | blt | bge | bltu | bgeu => exact ⟨_, rfl, s.hart.plain_branch _ _⟩
  case cJ => exact ⟨_, rfl, s.hart.plain_jumpBy _⟩
  case cJr => exact ⟨_, rfl, s.hart.plain_jumpTo _⟩
  case cJal | jal => exact ⟨_, rfl, s.hart.plain_linkBy _ _ _⟩
  case cJalr | jalr => exact ⟨_, rfl, s.hart.plain_linkTo _ _ _⟩
  case cEbreak | ecall | ebreak => exact ⟨_, rfl, .trap (.refl _)⟩
  case cAdd | cAddi | cSub | cAddi16sp | cAddi4spn | cAnd | cAndi | cOr | cXor | cSlli | cSrli | cSrai | cMv |
    cLi | cLui | cAddw | cAddiw | cSubw | sll | slli | srl | srli | sra | srai | add | addi | sub | lui | auipc
    | and | andi | or | ori | xor | xori | slt | sltu | slti | sltiu | addw | addiw | subw | sllw | slliw | sraw
    | sraiw | srliw | srlw | mul | mulh | mulhsu | mulhu | div | divu | rem | remu | mulw | divw | divuw | remw
    | remuw =>
    exact ⟨_, rfl, s.hart.plain_result _ _⟩
  case cFlw | cFlwsp | flw => exact ⟨_, rfl, s.hart.plain_loadS _ _⟩
  case cFsw | cFswsp | cFsd | cFsdsp | fsd | fsw => exact ⟨_, rfl, s.hart.plain_storeF _ _ _⟩
  case cFld | cFldsp | fld => exact ⟨_, rfl, s.hart.plain_loadD _ _⟩
  case fmaddD | fmsubD | fnmsubD | fnmaddD | faddD | fsubD | fmulD | fdivD | fsqrtD | fcvtDS | fcvtDW | fcvtDWu
    | fcvtDL | fcvtDLu =>
    exact ⟨_, rfl, s.hart.plain_roundD _ _ _⟩
  case fsgnjD | fsgnjnD | fsgnjxD | fmvDX | fsgnjS | fsgnjnS | fsgnjxS | fmvWX =>
    exact ⟨_, rfl, s.hart.plain_setF _ _⟩
  case fminD | fmaxD => exact ⟨_, rfl, s.hart.plain_putD _ _⟩
  case fcvtSD | fmaddS | fmsubS | fnmaddS | fnmsubS | faddS | fsubS | fmulS | fdivS | fsqrtS | fcvtSW | fcvtSWu
    | fcvtSL | fcvtSLu =>
    exact ⟨_, rfl, s.hart.plain_roundS _ _ _⟩
  case fcvtWD | fcvtWuD | fcvtWS | fcvtWuS => exact ⟨_, rfl, s.hart.plain_convert32 _ _ _⟩
  case feqD | fltD | fleD | feqS | fltS | fleS => exact ⟨_, rfl, s.hart.plain_putBool _ _⟩
  case fmvXD | fclassD | fmvXW | fclassS => exact ⟨_, rfl, s.hart.plain_fpResult _ _⟩
  case fcvtLD | fcvtLuD | fcvtLS | fcvtLuS => exact ⟨_, rfl, s.hart.plain_convert64 _ _ _⟩
  case fminS | fmaxS => exact ⟨_, rfl, s.hart.plain_putS _ _⟩
  case fence => exact ⟨_, rfl, .next (.refl _)⟩
  case fenceI => exact ⟨_, rfl, s.hart.plain_fenceI⟩
  case sfenceVma => exact ⟨_, rfl, s.hart.plain_sfence _⟩
  case wfi => exact ⟨_, rfl, s.hart.plain_wfi _ _⟩
  case vaddVv | vaddVx | vaddVi | vsubVv | vsubVx | vrsubVx | vrsubVi | vandVv | vandVx | vandVi | vorVv | vorVx
    | vorVi | vxorVv | vxorVx | vxorVi | vsllVv | vsllVx | vsllVi | vsrlVv | vsrlVx | vsrlVi | vsraVv | vsraVx |
    vsraVi | vminuVv | vminuVx | vminVv | vminVx | vmaxuVv | vmaxuVx | vmaxVv | vmaxVx | vmulVv | vmulVx |
    vmulhVv | vmulhVx | vmulhuVv | vmulhuVx | vmulhsuVv | vmulhsuVx =>
    exact ⟨_, rfl, s.hart.plain_varith _ _ _ _ _ _⟩
  case vmseqVv | vmseqVx | vmseqVi | vmsneVv | vmsneVx | vmsneVi | vmsltuVv | vmsltuVx | vmsltVv | vmsltVx |
    vmsleuVv | vmsleuVx | vmsleuVi | vmsleVv | vmsleVx | vmsleVi | vmsgtuVx | vmsgtuVi | vmsgtVx | vmsgtVi =>
    exact ⟨_, rfl, s.hart.plain_vcompare _ _ _ _ _ _⟩
  case vmaccVv | vmaccVx | vnmsacVv | vnmsacVx | vmaddVv | vmaddVx | vnmsubVv | vnmsubVx =>
    exact ⟨_, rfl, s.hart.plain_vmulAdd _ _ _ _ _ _⟩
  case vsetvli | vsetvl => exact ⟨_, rfl, s.hart.plain_setVL _ _ _⟩
  case vlbV | vlhV | vlwV | vlbuV | vlhuV | vlwuV | vleV | vlsbV | vlshV | vlswV | vlsbuV | vlshuV | vlswuV |
    vlseV | vlxbV | vlxhV | vlxwV | vlxbuV | vlxhuV | vlxwuV | vlxeV =>
    exact ⟨_, rfl, s.hart.plain_vload _ _ _ _ _ _⟩
  case vsbV | vshV | vswV | vseV | vssbV | vsshV | vsswV | vsseV | vsxbV | vsxhV | vsxwV | vsxeV =>
    exact ⟨_, rfl, s.hart.plain_vstore _ _ _ _ _⟩
  case csrrw | csrrs | csrrc | csrrwi | csrrsi | csrrci | mret | sret => cases hi

end Sys2Proof.Machine
end

section
/-! How every instruction ends, from its shape: the plain ones, the CSR instructions, mret and sret. -/

namespace Sys2Proof.Machine

open Sys2Proof

variable {c : Config}

/-- An instruction is 2 or 4 bytes long (R140, R141). -/
theorem codeBytes_even (code : Code) (n : Nat) : (BitVec.ofNat n code.bytes).getLsbD 0 = false := by
  have hb : code.bytes % 2 = 0 := by cases code <;> simp [Code.bytes]
  simp [BitVec.getLsbD_ofNat, Nat.testBit_zero, hb]

/-- How a plain instruction ends: an exception after some transfers, or work on user state and a new pc, even where the
old one was. -/
theorem exec_plain_ends {i : Instr} (s : State) (hi : isPlain i = true) :
    (∃ (k : Hart s.cfg) (e : Exc) (tval : BitVec s.cfg.xlen), s.hart.Transfers k ∧
      exec i s = .next (s.withHart (k.raise e tval))) ∨
    ∃ (k : Hart s.cfg) (target : BitVec s.cfg.xlen), s.hart.Works k ∧
      (s.hart.pc.getLsbD 0 = false → target.getLsbD 0 = false) ∧
      exec i s = .next (s.withHart ({ k with pc := target }).retire) := by
  obtain ⟨r, he, hr⟩ := exec_plain i s hi
  cases hr with
  | @next k hk =>
    refine .inr ⟨k, k.pc + BitVec.ofNat s.cfg.xlen (encode i).bytes, hk, fun hpc => getLsbD_zero_add ?_ ?_, he⟩
    · rw [hk.frame]; exact hpc
    · exact codeBytes_even (encode i) s.cfg.xlen
  | jump hk heven => exact .inr ⟨_, _, hk, heven, he⟩
  | trap hk => exact .inl ⟨_, _, _, hk, he⟩
  | illegal => exact .inl ⟨_, _, _, .refl _, he⟩

/-- A CSR instruction is the common operation, with the write that `writtenCsr` names. -/
theorem exec_csr (i : Instr) (s : State) (hi : isPlain i = false) (hm : i ≠ .mret) (hs : i ≠ .sret) :
    ∃ (rd : BitVec 5) (csr : BitVec 12) (reads writes : Bool) (new : BitVec s.cfg.xlen → BitVec s.cfg.xlen),
      exec i s = s.run (encode i) (s.hart.csrOp rd csr reads writes new) ∧
        writtenCsr i = if writes then some csr else none := by
  cases i
  case csrrw rd csr rs1 => exact ⟨rd, csr, _, true, _, rfl, rfl⟩
  case csrrwi rd csr zimm => exact ⟨rd, csr, _, true, _, rfl, rfl⟩
  case csrrs rd csr field | csrrc rd csr field | csrrsi rd csr field | csrrci rd csr field =>
    refine ⟨rd, csr, true, field != 0, _, rfl, ?_⟩
    by_cases h0 : field = 0 <;> simp [writtenCsr, h0]
  case mret => exact absurd rfl hm
  case sret => exact absurd rfl hs
  all_goals cases hi

/-! ## The numbers of the CSRs (R48, R49) -/

/-- The number of a CSR (R49). -/
def Csr.number : Csr → Nat
  | .fflags => 0x001 | .frm => 0x002 | .fcsr => 0x003
  | .vstart => 0x008 | .vxsat => 0x009 | .vxrm => 0x00A | .vcsr => 0x00F
  | .sstatus => 0x100 | .sie => 0x104 | .stvec => 0x105 | .scounteren => 0x106
  | .sscratch => 0x140 | .sepc => 0x141 | .scause => 0x142 | .stval => 0x143 | .sip => 0x144 | .satp => 0x180
  | .mstatus => 0x300 | .misa => 0x301 | .medeleg => 0x302 | .mideleg => 0x303 | .mie => 0x304 | .mtvec => 0x305
  | .mcounteren => 0x306 | .mscratch => 0x340 | .mepc => 0x341 | .mcause => 0x342 | .mtval => 0x343 | .mip => 0x344
  | .pmpcfg0 => 0x3A0 | .pmpcfg1 => 0x3A1 | .pmpcfg2 => 0x3A2 | .pmpcfg3 => 0x3A3
  | .tselect => 0x7A0 | .tdata1 => 0x7A1 | .tdata2 => 0x7A2 | .tdata3 => 0x7A3
  | .mcycle => 0xB00 | .minstret => 0xB02 | .mcycleh => 0xB80 | .minstreth => 0xB82
  | .cycle => 0xC00 | .time => 0xC01 | .instret => 0xC02 | .vl => 0xC20 | .vtype => 0xC21 | .vlenb => 0xC22
  | .cycleh => 0xC80 | .timeh => 0xC81 | .instreth => 0xC82
  | .mvendorid => 0xF11 | .marchid => 0xF12 | .mimpid => 0xF13 | .mhartid => 0xF14
  | .pmpaddr i => 0x3B0 + i | .mhpmcounter i => 0xB00 + i | .mhpmcounterh i => 0xB80 + i
  | .mhpmevent i => 0x320 + i | .hpmcounter i => 0xC00 + i | .hpmcounterh i => 0xC80 + i

theorem csrInRange_number {n : Nat} {r : Csr} (h : csrInRange n = some r) : n = r.number := by
  unfold csrInRange at h
  split_ifs at h with h1 h2 h3 h4 h5 h6 <;> cases h <;> simp only [Bool.and_eq_true, decide_eq_true_eq] at * <;>
    simp only [Csr.number] <;> omega

/-- A number names the CSR of that number. -/
theorem csrOf_number {n : BitVec 12} {r : Csr} (h : csrOf n = some r) : n.toNat = r.number := by
  unfold csrOf at h
  split at h
  on_goal -1 => exact csrInRange_number h
  all_goals cases h; rfl

/-! ## The access check, taken apart (R45) -/

/-- What a passed access check says. -/
structure Hart.Accesses (h : Hart c) (n : BitVec 12) (writes : Bool) (r : Csr) : Prop where
  named : csrOf n = some r
  present : r.present c = true
  level : (n.extractLsb' 8 2).toNat ≤ h.priv.level
  writable : ¬(writes = true ∧ n.extractLsb' 10 2 = 3)
  gate : h.csrGate r = true

theorem Hart.csrAccess_eq_some {h : Hart c} {n : BitVec 12} {writes : Bool} {r : Csr} :
    h.csrAccess n writes = some r ↔ h.Accesses n writes r := by
  unfold Hart.csrAccess
  constructor
  · intro ha
    split at ha
    · cases ha
    · next q hq =>
      split at ha
      · next hc =>
        cases ha
        simp only [Bool.and_eq_true, decide_eq_true_eq, Bool.not_eq_true', Bool.and_eq_false_iff, beq_eq_false_iff_ne] at hc
        obtain ⟨⟨⟨hp, hl⟩, hw⟩, hg⟩ := hc
        exact ⟨hq, hp, hl, fun ⟨h1, h2⟩ => by rcases hw with hw | hw; · simp [h1] at hw
                                              · exact hw h2, hg⟩
      · cases ha
  · rintro ⟨hq, hp, hl, hw, hg⟩
    rw [hq]
    have hw' : (writes && n.extractLsb' 10 2 == 3) = false := by
      simpa [Bool.and_eq_false_iff, or_iff_not_imp_left] using hw
    simp only [hp, hl, hw', hg, decide_true, Bool.and_true, Bool.not_false, if_true]

/-- The mode reaches the level that the number of the CSR carries. -/
theorem Hart.Accesses.level_number {h : Hart c} {n : BitVec 12} {writes : Bool} {r : Csr} (ha : h.Accesses n writes r) :
    r.number / 256 % 4 ≤ h.priv.level := by
  have hl := ha.level
  rw [BitVec.extractLsb'_toNat, Nat.shiftRight_eq_div_pow, csrOf_number ha.named] at hl
  exact hl

/-- The hart after the write and the read of a CSR instruction. -/
def Hart.csrDone (h : Hart c) (r : Csr) (rd : BitVec 5) (reads writes : Bool) (new : BitVec c.xlen → BitVec c.xlen) :
    Hart c :=
  let written := if writes then h.writeCsr r (new (h.csrOld r)) else h
  if reads then written.setX rd (h.readCsr r) else written

/-- How a CSR instruction ends: illegal, or done with the CSR it names. -/
theorem exec_csr_ends {i : Instr} (s : State) (hi : isPlain i = false) (hm : i ≠ .mret) (hs : i ≠ .sret) :
    s.RaisesIllegal i ∨
    ∃ (rd : BitVec 5) (csr : BitVec 12) (reads writes : Bool) (new : BitVec s.cfg.xlen → BitVec s.cfg.xlen) (r : Csr),
      s.hart.Accesses csr writes r ∧ (writtenCsr i = if writes then some csr else none) ∧
      exec i s = s.run (encode i) (.wrote (s.hart.csrDone r rd reads writes new) (writes && r.isCycle)
        (writes && r.isInstret)) := by
  obtain ⟨rd, csr, reads, writes, new, he, hw⟩ := exec_csr i s hi hm hs
  unfold Hart.csrOp at he
  split at he
  · exact .inl (State.raisesIllegal_of he)
  · next r hr => exact .inr ⟨rd, csr, reads, writes, new, r, Hart.csrAccess_eq_some.1 hr, hw, he⟩

@[simp] theorem Hart.writeCsr_pc (h : Hart c) (r : Csr) (v : BitVec c.xlen) : (h.writeCsr r v).pc = h.pc := by
  cases r <;> simp only [Hart.writeCsr, Hart.dirtyFs] <;> split <;> rfl

@[simp] theorem Hart.csrDone_pc (h : Hart c) (r : Csr) (rd : BitVec 5) (reads writes : Bool)
    (new : BitVec c.xlen → BitVec c.xlen) : (h.csrDone r rd reads writes new).pc = h.pc := by
  cases reads <;> cases writes <;> simp [Hart.csrDone]

/-! ## The trap returns -/

/-- How mret ends: outside M-mode it is illegal. -/
theorem exec_mret_ends (s : State) :
    s.RaisesIllegal .mret ∨ s.hart.priv = .m ∧
      exec .mret s = .next (s.withHart ({ s.hart.mretState with pc := s.hart.mepc }).retire) := by
  have he : exec .mret s = s.run Enc.mret (if s.hart.priv != .m then .illegal else .jump s.hart.mretState s.hart.mepc) := rfl
  split at he
  · exact .inl he
  · next hm => exact .inr ⟨by simpa using hm, he⟩

/-- How sret ends: it completes only where S-mode exists, outside U-mode. -/
theorem exec_sret_ends (s : State) :
    s.RaisesIllegal .sret ∨ s.cfg.hasS = true ∧ s.hart.priv ≠ .u ∧
      exec .sret s = .next (s.withHart ({ s.hart.sretState with pc := s.hart.sepc }).retire) := by
  have he : exec .sret s = s.run Enc.sret (if !s.cfg.hasS || s.hart.priv == .u || (s.hart.priv == .s && s.hart.mstatus.tsr)
      then .illegal else .jump s.hart.sretState s.hart.sepc) := rfl
  split at he
  · exact .inl he
  · next hm =>
    simp only [Bool.or_eq_true, Bool.not_eq_true', beq_iff_eq, not_or, Bool.not_eq_false] at hm
    obtain ⟨⟨hS, hu⟩, -⟩ := hm
    exact .inr ⟨hS, hu, he⟩

end Sys2Proof.Machine
end

section
/-! The invariant: every operation that a step is made of keeps it (R40, R53 to R59, R75, R81, R544, R705, R735). -/

namespace Sys2Proof.Machine

open Sys2Proof

variable {c : Config}

/-! ## Plain work -/

/-- Work on user state keeps the invariant: FS stays 0 where there is no floating point, since it was Off. -/
theorem Hart.Works.inv {h k : Hart c} (hk : h.Works k) (hi : h.Inv) : k.Inv := by
  obtain ⟨hmem, hstale, heven, htvec, hmode, ⟨hS, hF, hU, hSU⟩, hmask, hvec⟩ := hi
  have hfs := hk.fs
  refine ⟨hk.mem hmem, hk.stale hstale, ?_, ?_, ?_, ?_, ?_, hk.vector hvec⟩
  · rw [hk.frame]; exact heven
  · rw [hk.frame]; exact htvec
  · rw [hk.frame]; exact hmode
  · rw [hk.frame]; exact ⟨hS, fun h0 => hfs (hF h0), hU, hSU⟩
  · rw [hk.frame]; exact hmask

theorem Hart.Inv.pc_even {h : Hart c} (hi : h.Inv) : h.pc.getLsbD 0 = false := by
  obtain ⟨-, -, ⟨hpc, -, -⟩, -⟩ := hi
  exact hpc

theorem Hart.Inv.sample {h : Hart c} (hi : h.Inv) : h.sample.Inv := by
  unfold Hart.sample
  split <;> exact hi

/-! ## Traps and returns -/

/-- The handler's address is even (R711). -/
theorem vector_even {n : Nat} (tvec : BitVec n) (intr : Bool) (code : Nat) :
    (vector tvec intr code).getLsbD 0 = false := by
  have hbase : ((tvec >>> 2) <<< 2).getLsbD 0 = false := by simp
  have h4 : (BitVec.ofNat n (4 * code)).getLsbD 0 = false := by
    simp [BitVec.getLsbD_ofNat, Nat.testBit_zero]; omega
  unfold vector
  dsimp only
  split
  · exact getLsbD_zero_add hbase h4
  · exact hbase

/-- Taking a trap keeps the invariant: a trap goes to S-mode only where that mode exists. -/
theorem Hart.Inv.trap {h : Hart c} (hi : h.Inv) (intr : Bool) (code : Nat) (tval : BitVec c.xlen) :
    (h.trap intr code tval).Inv := by
  obtain ⟨hmem, hstale, ⟨hpc, hmepc, hsepc⟩, htvec, ⟨hpriv, hmpp⟩, ⟨hS, hF, hU, hSU⟩, hmask, hvec⟩ := hi
  unfold Hart.trap
  split
  · next hd =>
    have hasS : c.hasS = true := by
      unfold Hart.delegated at hd
      simp only [Bool.and_eq_true] at hd
      exact hd.1.1
    exact ⟨hmem, hstale, ⟨vector_even _ _ _, hmepc, hpc⟩, htvec, ⟨hasS, hmpp⟩,
      ⟨fun h0 => absurd hasS (by simp [h0]), hF, hU, hSU⟩, hmask, hvec⟩
  · exact ⟨hmem, hstale, ⟨vector_even _ _ _, hpc, hsepc⟩, htvec, ⟨rfl, hpriv⟩, ⟨hS, hF, hU, hSU⟩, hmask, hvec⟩

theorem Hart.Inv.raise {h : Hart c} (hi : h.Inv) (e : Exc) (tval : BitVec c.xlen) : (h.raise e tval).Inv :=
  hi.trap false e.code tval

theorem Hart.Inv.mretState {h : Hart c} (hi : h.Inv) : h.mretState.Inv := by
  obtain ⟨hmem, hstale, heven, htvec, ⟨hpriv, hmpp⟩, ⟨hS, hF, hU, hSU⟩, hmask, hvec⟩ := hi
  refine ⟨hmem, hstale, heven, htvec, ⟨hmpp, ?_⟩, ⟨hS, hF, fun h0 => ?_, hSU⟩, hmask, hvec⟩
  · change Priv.present c (if c.hasU then .u else .m) = true
    cases hu : c.hasU <;> simp [Priv.present, hu]
  · change (if h.mstatus.mpp = .m then h.mstatus.mprv else false) = false
    rw [hU h0, ite_self]

/-- sret enters U-mode where SPP is clear, which exists where S-mode does, and S-mode otherwise. -/
theorem Hart.Inv.sretState {h : Hart c} (hi : h.Inv) (hasS : c.hasS = true) (hasU : c.hasU = true) :
    h.sretState.Inv := by
  obtain ⟨hmem, hstale, heven, htvec, ⟨hpriv, hmpp⟩, ⟨hS, hF, hU, hSU⟩, hmask, hvec⟩ := hi
  refine ⟨hmem, hstale, heven, htvec, ⟨?_, hmpp⟩, ⟨fun h0 => absurd hasS (by simp [h0]), hF, fun _ => rfl, hSU⟩,
    hmask, hvec⟩
  change Priv.present c (if h.mstatus.spp then .s else .u) = true
  split
  · exact hasS
  · exact hasU

/-! ## CSR writes -/

/-- MPP names an existing mode after any write (R53). -/
theorem mppWritten_present {old : Priv} (h : old.present c = true) (bits : BitVec 2) :
    (mppWritten c old bits).present c = true := by
  unfold mppWritten
  split
  · split
    · assumption
    · exact h
  · split
    · assumption
    · exact h
  · rfl
  · exact h

/-- Nothing is left of a masked word outside the mask. -/
theorem and_and_not {n : Nat} (v m : BitVec n) : v &&& m &&& ~~~m = 0 := by
  rw [BitVec.and_assoc, BitVec.and_not_self, show (0 : BitVec n) = 0#n from rfl, BitVec.and_zero]

theorem and_not_eq_zero_iff {n : Nat} {v m : BitVec n} :
    v &&& ~~~m = 0 ↔ ∀ i < n, v.getLsbD i = true → m.getLsbD i = true := by
  constructor
  · intro h i hi hv
    have h' := congrArg (BitVec.getLsbD · i) h
    simpa [hi, hv] using h'
  · intro h
    apply BitVec.eq_of_getLsbD_eq
    intro i hi
    cases hv : v.getLsbD i
    · simp [hv]
    · simp [hv, hi, h i hi hv]

/-- What mideleg can delegate, mie can enable where there is S-mode (R56, R57). -/
theorem midelegMask_le_mieMask (hasS : c.hasS = true) : midelegMask c &&& ~~~mieMask c = 0 := by
  unfold midelegMask mieMask
  rw [if_pos hasS, and_not_eq_zero_iff]
  intro i hi h
  have e : (0x222 : Nat) = 0x222 &&& 0xAAA := by decide
  rw [BitVec.getLsbD_ofNat, e, Nat.testBit_and] at h
  rw [BitVec.getLsbD_ofNat]
  simp only [Bool.and_eq_true] at h ⊢
  exact ⟨h.1, h.2.2⟩

/-- A write through sie stays within the bits of mie (R57). -/
theorem mie_sieWritten {h : Hart c} (hm : h.trapMaskOk) (hasS : c.hasS = true) (v : BitVec c.xlen) :
    (h.mie &&& ~~~h.mideleg ||| v &&& h.mideleg) &&& ~~~mieMask c = 0 := by
  obtain ⟨-, hdeleg, hmie⟩ := hm
  have hmask := midelegMask_le_mieMask hasS
  rw [and_not_eq_zero_iff] at *
  intro i hlt hi
  rw [BitVec.getLsbD_or, BitVec.getLsbD_and, BitVec.getLsbD_and, Bool.or_eq_true, Bool.and_eq_true, Bool.and_eq_true] at hi
  rcases hi with ⟨hi, -⟩ | ⟨-, hi⟩
  · exact hmie i hlt hi
  · exact hmask i hlt (hdeleg i hlt hi)

/-- The hardwired bits of mstatus hold after a write of it (R53). -/
theorem statusOk_mstatusWritten (h : Hart c) (v : BitVec c.xlen) :
    Hart.statusOk { h with mstatus := mstatusWritten c h.mstatus v } := by
  refine ⟨fun h0 => ?_, fun h0 => ?_, fun h0 => ?_, fun h0 h1 => ?_⟩
  · simp [mstatusWritten, h0]
  · simp [mstatusWritten, h0]
  · simp [mstatusWritten, h0]
  · simp [mstatusWritten, h0, h1]

/-- A write of sstatus leaves the other fields of mstatus (R54). -/
theorem statusOk_sstatusWritten {h : Hart c} (hs : h.statusOk) (v : BitVec c.xlen) :
    Hart.statusOk { h with mstatus := sstatusWritten c h.mstatus v } := by
  obtain ⟨hS, hF, hU, hSU⟩ := hs
  obtain ⟨hS', hF', -, -⟩ := statusOk_mstatusWritten h v
  refine ⟨fun h0 => ?_, hF', hU, hSU⟩
  obtain ⟨-, -, -, -, -, htvm, htsr⟩ := hS h0
  obtain ⟨hsie, hspie, hspp, hsum, hmxr, -, -⟩ := hS' h0
  exact ⟨hsie, hspie, hspp, hsum, hmxr, htvm, htsr⟩

theorem and_not_one_even {n : Nat} (v : BitVec n) : (v &&& ~~~1).getLsbD 0 = false := evenAddr_even v

/-- FS may become Dirty where there is floating point. -/
theorem Hart.Inv.dirtyFs {h : Hart c} (hi : h.Inv) (hasF : c.hasF = true) : h.dirtyFs.Inv := by
  obtain ⟨hmem, hstale, heven, htvec, hmode, ⟨hS, -, hU, hSU⟩, hrest⟩ := hi
  exact ⟨hmem, hstale, heven, htvec, hmode, ⟨hS, fun h0 => absurd hasF (by simp [h0]), hU, hSU⟩, hrest⟩

/-- A write of a CSR that exists keeps the invariant. -/
theorem Hart.Inv.writeCsr {h : Hart c} (hi : h.Inv) {r : Csr} (hp : r.present c = true) (v : BitVec c.xlen) :
    (h.writeCsr r v).Inv := by
  obtain ⟨hmem, hstale, ⟨hpc, hmepc, hsepc⟩, ⟨hmtvec, hstvec⟩, ⟨hpriv, hmpp⟩, hstatus, hmask, hvec⟩ := hi
  have hmask' := hmask
  obtain ⟨hmedeleg, hmideleg, hmie⟩ := hmask
  cases r
  case fflags | frm | fcsr =>
    exact Hart.Inv.dirtyFs
      ⟨hmem, hstale, ⟨hpc, hmepc, hsepc⟩, ⟨hmtvec, hstvec⟩, ⟨hpriv, hmpp⟩, hstatus, ⟨hmedeleg, hmideleg, hmie⟩, hvec⟩ hp
  case vstart =>
    refine ⟨hmem, hstale, ⟨hpc, hmepc, hsepc⟩, ⟨hmtvec, hstvec⟩, ⟨hpriv, hmpp⟩, hstatus, hmask',
      Hart.vectorOk_of_vstart hvec rfl rfl ?_⟩
    exact (Nat.mod_le _ _).trans_lt (Nat.mod_lt _ ((Nat.zero_le _).trans_lt hvec.2))
  case sstatus =>
    exact ⟨hmem, hstale, ⟨hpc, hmepc, hsepc⟩, ⟨hmtvec, hstvec⟩, ⟨hpriv, hmpp⟩, statusOk_sstatusWritten hstatus v,
      hmask', hvec⟩
  case mstatus =>
    exact ⟨hmem, hstale, ⟨hpc, hmepc, hsepc⟩, ⟨hmtvec, hstvec⟩, ⟨hpriv, mppWritten_present hmpp _⟩,
      statusOk_mstatusWritten h v, hmask', hvec⟩
  case sie =>
    exact ⟨hmem, hstale, ⟨hpc, hmepc, hsepc⟩, ⟨hmtvec, hstvec⟩, ⟨hpriv, hmpp⟩, hstatus,
      ⟨hmedeleg, hmideleg, mie_sieWritten hmask' hp v⟩, hvec⟩
  case mie =>
    exact ⟨hmem, hstale, ⟨hpc, hmepc, hsepc⟩, ⟨hmtvec, hstvec⟩, ⟨hpriv, hmpp⟩, hstatus,
      ⟨hmedeleg, hmideleg, and_and_not _ _⟩, hvec⟩
  case medeleg =>
    exact ⟨hmem, hstale, ⟨hpc, hmepc, hsepc⟩, ⟨hmtvec, hstvec⟩, ⟨hpriv, hmpp⟩, hstatus,
      ⟨and_and_not _ _, hmideleg, hmie⟩, hvec⟩
  case mideleg =>
    exact ⟨hmem, hstale, ⟨hpc, hmepc, hsepc⟩, ⟨hmtvec, hstvec⟩, ⟨hpriv, hmpp⟩, hstatus,
      ⟨hmedeleg, and_and_not _ _, hmie⟩, hvec⟩
  case sepc =>
    exact ⟨hmem, hstale, ⟨hpc, hmepc, and_not_one_even v⟩, ⟨hmtvec, hstvec⟩, ⟨hpriv, hmpp⟩, hstatus, hmask', hvec⟩
  case mepc =>
    exact ⟨hmem, hstale, ⟨hpc, and_not_one_even v, hsepc⟩, ⟨hmtvec, hstvec⟩, ⟨hpriv, hmpp⟩, hstatus, hmask', hvec⟩
  case stvec =>
    rw [Hart.writeCsr]
    split
    · next hv => exact ⟨hmem, hstale, ⟨hpc, hmepc, hsepc⟩, ⟨hmtvec, hv⟩, ⟨hpriv, hmpp⟩, hstatus, hmask', hvec⟩
    · exact ⟨hmem, hstale, ⟨hpc, hmepc, hsepc⟩, ⟨hmtvec, hstvec⟩, ⟨hpriv, hmpp⟩, hstatus, hmask', hvec⟩
  case mtvec =>
    rw [Hart.writeCsr]
    split
    · next hv => exact ⟨hmem, hstale, ⟨hpc, hmepc, hsepc⟩, ⟨hv, hstvec⟩, ⟨hpriv, hmpp⟩, hstatus, hmask', hvec⟩
    · exact ⟨hmem, hstale, ⟨hpc, hmepc, hsepc⟩, ⟨hmtvec, hstvec⟩, ⟨hpriv, hmpp⟩, hstatus, hmask', hvec⟩
  case sip | mip =>
    rw [Hart.writeCsr]
    split <;>
      exact ⟨hmem, hstale, ⟨hpc, hmepc, hsepc⟩, ⟨hmtvec, hstvec⟩, ⟨hpriv, hmpp⟩, hstatus, hmask', hvec⟩
  all_goals
    exact ⟨hmem, hstale, ⟨hpc, hmepc, hsepc⟩, ⟨hmtvec, hstvec⟩, ⟨hpriv, hmpp⟩, hstatus, hmask', hvec⟩

/-! ## A whole instruction and a whole step -/

theorem Hart.Inv.csrDone {h : Hart c} (hi : h.Inv) {r : Csr} (hp : r.present c = true) (rd : BitVec 5)
    (reads writes : Bool) (new : BitVec c.xlen → BitVec c.xlen) : (h.csrDone r rd reads writes new).Inv := by
  have hw : (if writes then h.writeCsr r (new (h.csrOld r)) else h).Inv := by
    split
    · exact hi.writeCsr hp _
    · exact hi
  unfold Hart.csrDone
  dsimp only
  split
  · exact (Hart.works_setX _ rd _).inv hw
  · exact hw

theorem Config.wf.hasU_of_hasS {c : Config} (hw : c.wf = true) (hS : c.hasS = true) : c.hasU = true := by
  simp only [Config.wf, Bool.and_eq_true] at hw
  obtain ⟨⟨⟨⟨⟨⟨⟨⟨⟨⟨-, hSU⟩, -⟩, -⟩, -⟩, -⟩, -⟩, -⟩, -⟩, -⟩, -⟩ := hw
  simpa [hS] using hSU

/-- A new pc that is even keeps the invariant. -/
theorem Hart.Inv.withPc {h : Hart c} (hi : h.Inv) {target : BitVec c.xlen} (ht : target.getLsbD 0 = false) :
    Hart.Inv { h with pc := target } := by
  obtain ⟨hmem, hstale, ⟨-, hmepc, hsepc⟩, hrest⟩ := hi
  exact ⟨hmem, hstale, ⟨ht, hmepc, hsepc⟩, hrest⟩

/-- Every instruction keeps the invariant, by the way it ends. -/
theorem exec_inv {s : State} (hi : s.Inv) {i : Instr} {t : State} (he : exec i s = .next t) : t.Inv := by
  obtain ⟨hwf, hinv⟩ := hi
  obtain ⟨-, -, ⟨-, hmepc, hsepc⟩, -⟩ := id hinv
  have done : ∀ {k : Hart s.cfg}, exec i s = .next (s.withHart k) → k.Inv → t.Inv := by
    intro k hk hki
    rw [he] at hk
    cases Host.Outcome.next.inj hk
    exact ⟨hwf, hki⟩
  have illegal : s.RaisesIllegal i → t.Inv := fun h => done h (hinv.raise _ _)
  by_cases hplain : isPlain i = true
  · obtain ⟨k, e, tval, hk, hx⟩ | ⟨k, target, hk, heven, hx⟩ := exec_plain_ends s hplain
    · exact done hx ((hk.works.inv hinv).raise e tval)
    · exact done hx ((hk.inv hinv).withPc (heven hinv.pc_even))
  by_cases hm : i = .mret
  · subst hm
    obtain h | ⟨-, hx⟩ := exec_mret_ends s
    · exact illegal h
    · exact done hx (hinv.mretState.withPc hmepc)
  by_cases hs : i = .sret
  · subst hs
    obtain h | ⟨hS, -, hx⟩ := exec_sret_ends s
    · exact illegal h
    · exact done hx ((hinv.sretState hS (Config.wf.hasU_of_hasS hwf hS)).withPc hsepc)
  obtain h | ⟨rd, csr, reads, writes, new, r, ha, -, hx⟩ := exec_csr_ends s (by simpa using hplain) hm hs
  · exact illegal h
  · refine done hx ((hinv.csrDone ha.present rd reads writes new).withPc (getLsbD_zero_add ?_ (codeBytes_even _ _)))
    rw [Hart.csrDone_pc]
    exact hinv.pc_even

/-- What a fetch leaves: device reads are recorded (R110, R111). -/
theorem Hart.fetch_transfers {h : Hart c} {code : Code} {k : Hart c} (hf : h.fetch = .fetched code k) : h.Transfers k := by
  unfold Hart.fetch at hf
  dsimp only at hf
  split_ifs at hf
  · cases hf
    exact h.transfers_afterRead _ _
  · cases hf
    exact (h.transfers_afterRead _ _).trans (Hart.transfers_afterRead _ _ _)

/-- The same of a fetch that raises the access fault. -/
theorem Hart.fetch_fault_transfers {h k : Hart c} (hf : h.fetch = .fault k) : h.Transfers k := by
  unfold Hart.fetch at hf
  dsimp only at hf
  split_ifs at hf
  · cases hf
    exact .refl h
  · cases hf
    exact h.transfers_afterRead _ _

theorem execCode_inv {s : State} (hi : s.Inv) {code : Code} {t : State} (he : s.execCode code = .next t) : t.Inv := by
  unfold State.execCode at he
  split at he
  · exact exec_inv hi he
  · cases Host.Outcome.next.inj he
    exact ⟨hi.1, hi.2.raise _ _⟩

/-- The interrupt or the instruction of a step keeps the invariant. -/
theorem runStep_inv {s : State} (hi : s.Inv) {t : State} (he : s.runStep = .next t) : t.Inv := by
  unfold State.runStep at he
  split at he
  · cases Host.Outcome.next.inj he
    exact ⟨hi.1, hi.2.trap _ _ _⟩
  · split at he
    · cases he
    · next k hf =>
      cases Host.Outcome.next.inj he
      exact ⟨hi.1, ((Hart.fetch_fault_transfers hf).works.inv hi.2).raise _ _⟩
    · next code k hf => exact execCode_inv (s := s.withHart k) ⟨hi.1, (Hart.fetch_transfers hf).works.inv hi.2⟩ he

/-- Settles O11: sampling, waking, taking an interrupt, fetching and executing each keep the invariant. -/
theorem stepKeepsInvariant : Obligations.StepKeepsInvariant := by
  unfold Obligations.StepKeepsInvariant
  intro s t hi he
  have hsample : (s.withHart s.hart.sample).Inv := ⟨hi.1, hi.2.sample⟩
  unfold step at he
  split at he
  · cases he
  · dsimp only at he
    split at he
    · split at he
      · cases Host.Outcome.next.inj he
        exact hsample
      · exact runStep_inv (s := s.withHart { s.hart.sample with waiting := false }) hsample he
    · exact runStep_inv hsample he

end Sys2Proof.Machine
end

section
/-! Isolation: what an instruction executed below M-mode cannot change (R45, R332, R333, R706, R735), and the reset
state's invariant. -/

namespace Sys2Proof.Machine

open Sys2Proof

variable {c : Config}

/-- Settles O10, part by part; the model's own reset state is of a configuration the spec admits. -/
theorem resetKeepsInvariant : Obligations.ResetKeepsInvariant := by
  unfold Obligations.ResetKeepsInvariant
  have key : ∀ c : Config, c.wf = true → (State.resetOf c).Inv := by
    intro c hw
    have hvlen : 0 < c.vlen ∧ c.resetPc.getLsbD 0 = false := by
      simp only [Config.wf, Bool.and_eq_true, decide_eq_true_eq, Bool.not_eq_true'] at hw
      obtain ⟨⟨⟨⟨⟨⟨⟨⟨⟨⟨-, -⟩, -⟩, -⟩, -⟩, h32⟩, -⟩, -⟩, -⟩, hpc⟩, -⟩ := hw
      exact ⟨by omega, hpc⟩
    have hpc : (c.resetPc.setWidth c.xlen).getLsbD 0 = false := by
      rw [BitVec.getLsbD_setWidth, hvlen.2, Bool.and_false]
    have h0 : (0 : BitVec c.xlen).getLsbD 0 = false := BitVec.getLsbD_zero
    have htvec : tvecLegal (0 : BitVec c.xlen) = true := by simp [tvecLegal]
    exact ⟨hw, ⟨rfl, fun p hp => absurd hp List.not_mem_nil⟩, ⟨.nil, fun a ha => absurd ha List.not_mem_nil⟩,
      ⟨hpc, h0, h0⟩, ⟨htvec, htvec⟩, ⟨rfl, rfl⟩,
      ⟨fun _ => ⟨rfl, rfl, rfl, rfl, rfl, rfl, rfl⟩, fun _ => rfl, fun _ => rfl, fun _ _ => rfl⟩,
      ⟨BitVec.zero_and, BitVec.zero_and, BitVec.zero_and⟩, .inl ⟨rfl, rfl⟩, hvlen.1⟩
  exact ⟨key, key _ (by decide)⟩

/-! ## What an exception and plain work leave -/

theorem State.RaisesIllegal.traps {s : State} {i : Instr} (h : s.RaisesIllegal i) : s.Traps i :=
  ⟨s.hart, _, _, h, rfl⟩

theorem State.traps_of_transfers {s : State} {i : Instr} {k : Hart s.cfg} {e : Exc} {tval : BitVec s.cfg.xlen}
    (hk : s.hart.Transfers k) (hx : exec i s = .next (s.withHart (k.raise e tval))) : s.Traps i :=
  ⟨k, e, tval, hx, hk.frame⟩

/-- The hart k with the machine's own registers of h: those that no instruction below M-mode can change. -/
def Hart.withMachineOf (k h : Hart c) : Hart c :=
  { k with
    mtvec := h.mtvec, mepc := h.mepc, mcause := h.mcause, mtval := h.mtval, mscratch := h.mscratch,
    medeleg := h.medeleg, mideleg := h.mideleg, mcounteren := h.mcounteren,
    mstatus := { h.mstatus with
      sie := k.mstatus.sie, spie := k.mstatus.spie, spp := k.mstatus.spp, fs := k.mstatus.fs,
      mprv := k.mstatus.mprv, sum := k.mstatus.sum, mxr := k.mstatus.mxr }
    stip := h.stip, seip := h.seip, lines := h.lines, time := h.time, scFail := h.scFail, samples := h.samples }

/-- From h to k no machine register has changed, MPRV has not been set, and mie only where interrupts are delegated. -/
structure Hart.KeepsMachine (h k : Hart c) : Prop where
  frame : k = k.withMachineOf h
  mprv : k.mstatus.mprv = true → h.mstatus.mprv = true
  mie : ∀ n, h.mideleg.getLsbD n = false → k.mie.getLsbD n = h.mie.getLsbD n

theorem Hart.KeepsMachine.trans {h k l : Hart c} (hk : h.KeepsMachine k) (kl : k.KeepsMachine l) :
    h.KeepsMachine l where
  frame := calc
    l = l.withMachineOf k := kl.frame
    _ = l.withMachineOf (k.withMachineOf h) := congrArg l.withMachineOf hk.frame
    _ = l.withMachineOf h := rfl
  mprv := hk.mprv ∘ kl.mprv
  mie n hn := by
    have hd : k.mideleg = h.mideleg := by rw [hk.frame]; rfl
    rw [kl.mie n (hd ▸ hn), hk.mie n hn]

theorem Hart.Works.keepsMachine {h k : Hart c} (hk : h.Works k) : h.KeepsMachine k where
  frame := by rw [hk.frame]; rfl
  mprv := by rw [hk.frame]; exact id
  mie n _ := by rw [hk.frame]; rfl

/-- The end of an instruction that completes: pc and the counters. -/
theorem Hart.keepsMachine_end (k : Hart c) (target : BitVec c.xlen) (n d : BitVec 64) (m : Nat) :
    k.KeepsMachine { k with pc := target, minstret := n, mcycle := d, draws := m } :=
  ⟨rfl, id, fun _ _ => rfl⟩

theorem Hart.keepsMachine_sretState (h : Hart c) : h.KeepsMachine h.sretState :=
  ⟨rfl, fun h0 => absurd h0 (by simp [Hart.sretState]), fun _ _ => rfl⟩

/-! ## CSR writes below M-mode -/

/-- A write of a CSR of level 0 changes only the floating-point and vector CSRs, and FS. -/
theorem Hart.writeCsr_user (h : Hart c) {r : Csr} (hr : r.number / 256 % 4 = 0) (v : BitVec c.xlen) :
    h.writeCsr r v = { h with
      fflags := (h.writeCsr r v).fflags, frm := (h.writeCsr r v).frm, vstart := (h.writeCsr r v).vstart,
      vxsat := (h.writeCsr r v).vxsat, vxrm := (h.writeCsr r v).vxrm,
      mstatus := { h.mstatus with fs := (h.writeCsr r v).mstatus.fs } } := by
  cases r
  case sstatus | sie | stvec | scounteren | sscratch | sepc | scause | stval | sip | mstatus | medeleg | mideleg | mie |
      mtvec | mcounteren | mscratch | mepc | mcause | mtval | mip | mcycle | minstret | mcycleh | minstreth =>
    exact absurd hr (by decide)
  all_goals rfl

/-- A write of a CSR of level 0 or 1 keeps the machine's registers. -/
theorem Hart.writeCsr_keepsMachine (h : Hart c) {r : Csr} (hr : r.number / 256 % 4 ≤ 1) (v : BitVec c.xlen) :
    h.KeepsMachine (h.writeCsr r v) := by
  cases r
  case mstatus | medeleg | mideleg | mie | mtvec | mcounteren | mscratch | mepc | mcause | mtval | mip | mcycle |
      minstret | mcycleh | minstreth =>
    exact absurd hr (by decide)
  case sie =>
    refine ⟨rfl, id, fun n hn => ?_⟩
    rw [Hart.writeCsr]
    by_cases hlt : n < c.xlen
    · rw [BitVec.getLsbD_or, BitVec.getLsbD_and, BitVec.getLsbD_and, BitVec.getLsbD_not, hn]
      simp only [hlt, decide_true, Bool.not_false, Bool.and_true, Bool.and_false, Bool.or_false]
    · simp [BitVec.getLsbD_of_ge _ n (Nat.le_of_not_lt hlt)]
  case stvec | sip =>
    rw [Hart.writeCsr]
    split <;> exact ⟨rfl, id, fun _ _ => rfl⟩
  all_goals exact ⟨rfl, id, fun _ _ => rfl⟩

@[simp] theorem Hart.writeCsr_priv (h : Hart c) (r : Csr) (v : BitVec c.xlen) : (h.writeCsr r v).priv = h.priv := by
  cases r <;> simp only [Hart.writeCsr, Hart.dirtyFs] <;> split <;> rfl

@[simp] theorem Hart.csrDone_priv (h : Hart c) (r : Csr) (rd : BitVec 5) (reads writes : Bool)
    (new : BitVec c.xlen → BitVec c.xlen) : (h.csrDone r rd reads writes new).priv = h.priv := by
  cases reads <;> cases writes <;> simp [Hart.csrDone]

/-- A CSR instruction writes x[rd] on top of its write. -/
theorem Hart.csrDone_eq (h : Hart c) (r : Csr) (rd : BitVec 5) (reads writes : Bool)
    (new : BitVec c.xlen → BitVec c.xlen) :
    h.csrDone r rd reads writes new =
      { (if writes then h.writeCsr r (new (h.csrOld r)) else h) with x := (h.csrDone r rd reads writes new).x } := by
  unfold Hart.csrDone
  dsimp only
  split
  · unfold Hart.setX; split <;> rfl
  · rfl

theorem Hart.csrDone_keepsMachine (h : Hart c) {r : Csr} (hr : r.number / 256 % 4 ≤ 1) (rd : BitVec 5)
    (reads writes : Bool) (new : BitVec c.xlen → BitVec c.xlen) : h.KeepsMachine (h.csrDone r rd reads writes new) := by
  rw [Hart.csrDone_eq]
  split
  · exact (h.writeCsr_keepsMachine hr _).trans ⟨rfl, id, fun _ _ => rfl⟩
  · exact ⟨rfl, id, fun _ _ => rfl⟩

/-- Below M the level is U's or S's. -/
theorem Priv.level_le_one {p : Priv} (hp : p ≠ .m) : p.level ≤ 1 := by
  cases p
  · exact Nat.zero_le 1
  · exact le_refl 1
  · exact absurd rfl hp

/-! ## User mode -/

/-- Only minstret and minstreth are the retired-instruction counter, and their level is M. -/
theorem Csr.isInstret_eq_false {r : Csr} (hr : r.number / 256 % 4 ≤ 1) : r.isInstret = false := by
  cases r
  case minstret | minstreth => exact absurd hr (by decide)
  all_goals rfl

theorem Hart.finish_wrote (h k : Hart c) (code : Code) (cycle instret : Bool) :
    h.finish code (.wrote k cycle instret) =
      { k with pc := k.pc + BitVec.ofNat c.xlen code.bytes, minstret := if instret then k.minstret else k.minstret + 1,
               mcycle := cyclesAfter k.mcycle ((if cycle then 0 else 1) + Config.cycles k.draws),
               draws := k.draws + 1 } := rfl

/-- Settles O59: in U-mode plain instructions work on user state, the CSRs within reach are those of level 0, and the
returns are illegal. -/
theorem userIsolation : Obligations.UserIsolation := by
  unfold Obligations.UserIsolation
  intro i s t hu he
  have done : ∀ {k : Hart s.cfg}, exec i s = .next (s.withHart k) → t = k := fun hk => State.next_inj (he.symm.trans hk)
  by_cases hplain : isPlain i = true
  · obtain ⟨k, e, tval, hk, hx⟩ | ⟨k, target, hk, -, hx⟩ := exec_plain_ends s hplain
    · exact .inl (State.traps_of_transfers hk hx)
    · right
      rw [done hx, hk.frame]
      exact ⟨rfl, rfl⟩
  by_cases hm : i = .mret
  · subst hm
    obtain h | ⟨hp, -⟩ := exec_mret_ends s
    · exact .inl h.traps
    · exact absurd (hu.symm.trans hp) (by decide)
  by_cases hs : i = .sret
  · subst hs
    obtain h | ⟨-, hp, -⟩ := exec_sret_ends s
    · exact .inl h.traps
    · exact absurd hu hp
  obtain h | ⟨rd, csr, reads, writes, new, r, ha, -, hx⟩ := exec_csr_ends s (by simpa using hplain) hm hs
  · exact .inl h.traps
  · right
    have hr : r.number / 256 % 4 = 0 := Nat.le_zero.1 (ha.level_number.trans_eq (by rw [hu]; rfl))
    obtain rfl := done hx
    rw [Hart.finish_wrote, Csr.isInstret_eq_false (by omega), Bool.and_false, Hart.csrDone_eq]
    split
    · rw [Hart.writeCsr_user _ hr]
      exact ⟨rfl, rfl⟩
    · exact ⟨rfl, rfl⟩

/-! ## Below machine mode -/

/-- What O60 says of an instruction that keeps the machine's registers. -/
theorem Hart.KeepsMachine.fields {h t : Hart c} (hk : h.KeepsMachine t) :
    t.mtvec = h.mtvec ∧ t.mepc = h.mepc ∧ t.mcause = h.mcause ∧
      t.mtval = h.mtval ∧ t.mscratch = h.mscratch ∧ t.medeleg = h.medeleg ∧
      t.mideleg = h.mideleg ∧ t.mcounteren = h.mcounteren ∧
      t.mstatus = { h.mstatus with
        sie := t.mstatus.sie, spie := t.mstatus.spie, spp := t.mstatus.spp, fs := t.mstatus.fs,
        mprv := t.mstatus.mprv, sum := t.mstatus.sum, mxr := t.mstatus.mxr } ∧
      (t.mstatus.mprv = true → h.mstatus.mprv = true) ∧
      (∀ k, h.mideleg.getLsbD k = false → t.mie.getLsbD k = h.mie.getLsbD k) ∧
      t.stip = h.stip ∧ t.seip = h.seip ∧ t.lines = h.lines ∧ t.time = h.time ∧
      t.scFail = h.scFail ∧ t.samples = h.samples := by
  have hmprv := hk.mprv
  have hmie := hk.mie
  have frame := hk.frame
  refine ⟨?_, ?_, ?_, ?_, ?_, ?_, ?_, ?_, ?_, hmprv, hmie, ?_, ?_, ?_, ?_, ?_, ?_⟩
  all_goals rw [frame]; rfl

/-- How an instruction may change the mode and the machine's registers, by the way it ends. -/
theorem exec_isolates {i : Instr} {s : State} {t : Hart s.cfg} (he : exec i s = .next (s.withHart t)) :
    s.Traps i ∨ (t.priv = s.hart.priv ∧ (s.hart.priv ≠ .m → s.hart.KeepsMachine t)) ∨
      (i = .mret ∧ s.hart.priv = .m) ∨
      (i = .sret ∧ t.priv ≠ .m ∧ t.priv.level ≤ s.hart.priv.level ∧ s.hart.KeepsMachine t) := by
  have done : ∀ {k : Hart s.cfg}, exec i s = .next (s.withHart k) → t = k := fun hk => State.next_inj (he.symm.trans hk)
  by_cases hplain : isPlain i = true
  · obtain ⟨k, e, tval, hk, hx⟩ | ⟨k, target, hk, -, hx⟩ := exec_plain_ends s hplain
    · exact .inl (State.traps_of_transfers hk hx)
    · obtain rfl := done hx
      exact .inr (.inl ⟨by rw [hk.frame]; rfl, fun _ => hk.keepsMachine.trans (Hart.keepsMachine_end k target _ _ _)⟩)
  by_cases hm : i = .mret
  · subst hm
    obtain h | ⟨hp, -⟩ := exec_mret_ends s
    · exact .inl h.traps
    · exact .inr (.inr (.inl ⟨rfl, hp⟩))
  by_cases hs : i = .sret
  · subst hs
    obtain h | ⟨-, hp, hx⟩ := exec_sret_ends s
    · exact .inl h.traps
    · obtain rfl := done hx
      have hto : (if s.hart.mstatus.spp then Priv.s else Priv.u) ≠ .m ∧
          (if s.hart.mstatus.spp then Priv.s else Priv.u).level ≤ s.hart.priv.level := by
        have h1 : 1 ≤ s.hart.priv.level := by
          cases hq : s.hart.priv
          · exact absurd hq hp
          · exact le_refl _
          · exact Nat.le_add_left 1 2
        split
        · exact ⟨by decide, h1⟩
        · exact ⟨by decide, Nat.zero_le _⟩
      exact .inr (.inr (.inr ⟨rfl, hto.1, hto.2,
        s.hart.keepsMachine_sretState.trans (Hart.keepsMachine_end _ s.hart.sepc _ _ _)⟩))
  obtain h | ⟨rd, csr, reads, writes, new, r, ha, -, hx⟩ := exec_csr_ends s (by simpa using hplain) hm hs
  · exact .inl h.traps
  · obtain rfl := done hx
    refine .inr (.inl ⟨Hart.csrDone_priv .., fun hm => ?_⟩)
    have hlevel : s.hart.priv.level ≤ 1 := Priv.level_le_one hm
    exact (s.hart.csrDone_keepsMachine (ha.level_number.trans hlevel) rd reads writes new).trans
      (Hart.keepsMachine_end _ _ _ _ _)

/-- Settles O60. -/
theorem supervisorIsolation : Obligations.SupervisorIsolation := by
  unfold Obligations.SupervisorIsolation
  intro i s t he
  obtain h | ⟨hp, hk⟩ | ⟨rfl, hp⟩ | ⟨rfl, hto, hle, hk⟩ := exec_isolates he
  · exact ⟨fun _ => .inl h, fun _ => h, fun _ => .inl h⟩
  · exact ⟨fun hne => absurd hp hne, fun hlt => absurd hlt (by rw [hp]; exact lt_irrefl _),
      fun hm => .inr ⟨hp ▸ hm, (hk hm).fields⟩⟩
  · refine ⟨fun _ => .inr (.inl rfl), fun hlt => absurd hlt ?_, fun hm => absurd hp hm⟩
    rw [hp]
    cases t.priv <;> decide
  · exact ⟨fun _ => .inr (.inr rfl), fun hlt => absurd hlt (Nat.not_lt.2 hle), fun _ => .inr ⟨hto, hk.fields⟩⟩

end Sys2Proof.Machine
end

section
/-! The counters: mcycle and minstret over an instruction and over a step (R64, R740, R745). -/

namespace Sys2Proof.Machine

open Sys2Proof

variable {c : Config}

/-! ## Which instructions write the counters -/

@[simp] theorem Hart.writeCsr_mcycle (h : Hart c) {r : Csr} (hr : r.isCycle = false) (v : BitVec c.xlen) :
    (h.writeCsr r v).mcycle = h.mcycle := by
  cases r
  case mcycle | mcycleh => exact absurd hr (by decide)
  case stvec | sip | mtvec | mip => rw [Hart.writeCsr]; split <;> rfl
  all_goals rfl

@[simp] theorem Hart.writeCsr_minstret (h : Hart c) {r : Csr} (hr : r.isInstret = false) (v : BitVec c.xlen) :
    (h.writeCsr r v).minstret = h.minstret := by
  cases r
  case minstret | minstreth => exact absurd hr (by decide)
  case stvec | sip | mtvec | mip => rw [Hart.writeCsr]; split <;> rfl
  all_goals rfl

/-- mcycle and mcycleh have the numbers 0xB00 and 0xB80. -/
theorem csrOf_isCycle {n : BitVec 12} {r : Csr} (h : csrOf n = some r) (hr : r.isCycle = true) : n = 0xB00 ∨ n = 0xB80 := by
  have hn := csrOf_number h
  cases r
  case mcycle => exact .inl (BitVec.eq_of_toNat_eq hn)
  case mcycleh => exact .inr (BitVec.eq_of_toNat_eq hn)
  all_goals cases hr

/-- minstret and minstreth have the numbers 0xB02 and 0xB82. -/
theorem csrOf_isInstret {n : BitVec 12} {r : Csr} (h : csrOf n = some r) (hr : r.isInstret = true) :
    n = 0xB02 ∨ n = 0xB82 := by
  have hn := csrOf_number h
  cases r
  case minstret => exact .inl (BitVec.eq_of_toNat_eq hn)
  case minstreth => exact .inr (BitVec.eq_of_toNat_eq hn)
  all_goals cases hr

theorem Hart.csrDone_mcycle (h : Hart c) {r : Csr} (rd : BitVec 5) (reads : Bool) {writes : Bool}
    (hr : (writes && r.isCycle) = false) (new : BitVec c.xlen → BitVec c.xlen) :
    (h.csrDone r rd reads writes new).mcycle = h.mcycle := by
  rw [Hart.csrDone_eq]
  cases writes
  · rfl
  · exact h.writeCsr_mcycle hr _

theorem Hart.csrDone_minstret (h : Hart c) {r : Csr} (rd : BitVec 5) (reads : Bool) {writes : Bool}
    (hr : (writes && r.isInstret) = false) (new : BitVec c.xlen → BitVec c.xlen) :
    (h.csrDone r rd reads writes new).minstret = h.minstret := by
  rw [Hart.csrDone_eq]
  cases writes
  · rfl
  · exact h.writeCsr_minstret hr _

/-! ## An exception, and an instruction that completes -/

theorem Hart.trap_counters (h : Hart c) (intr : Bool) (code : Nat) (tval : BitVec c.xlen) :
    (h.trap intr code tval).mcycle = h.mcycle ∧ (h.trap intr code tval).minstret = h.minstret := by
  unfold Hart.trap
  split <;> exact ⟨rfl, rfl⟩

/-- An exception leaves minstret and does not take mcycle back. -/
theorem State.Traps.counters {s : State} {i : Instr} (h : s.Traps i) {t : Hart s.cfg}
    (he : exec i s = .next (s.withHart t)) :
    t.minstret = s.hart.minstret ∧ s.hart.mcycle.toNat ≤ t.mcycle.toNat := by
  obtain ⟨k, e, tval, hx, hk⟩ := h
  obtain rfl := State.next_inj (he.symm.trans hx)
  obtain ⟨hc, hi⟩ := k.trap_counters false e.code tval
  have hkc : k.mcycle = s.hart.mcycle := by rw [hk]
  have hki : k.minstret = s.hart.minstret := by rw [hk]
  refine ⟨hi.trans hki, ?_⟩
  rw [← hkc, ← hc]
  exact Hart.mcycle_le_tick _ 0

/-- An advance of mcycle by at least 1, as O38 says it. -/
theorem mcycle_advance {old new : BitVec 64} {n : Nat} (h : new = cyclesAfter old (1 + n)) :
    old.toNat ≤ new.toNat ∧ (old.toNat < new.toNat ∨ new.toNat = 2 ^ 64 - 1) := by
  rw [h, cyclesAfter_toNat]
  have := old.isLt
  omega

/-- What an instruction that takes no exception leaves in the counters it does not write. -/
theorem exec_counters {i : Instr} {s : State} {t : Hart s.cfg} (he : exec i s = .next (s.withHart t)) :
    s.Traps i ∨
      (writtenCsr i ≠ some 0xB02 → writtenCsr i ≠ some 0xB82 → t.minstret = s.hart.minstret + 1) ∧
      (writtenCsr i ≠ some 0xB00 → writtenCsr i ≠ some 0xB80 →
        ∃ n, t.mcycle = cyclesAfter s.hart.mcycle (1 + n)) := by
  have done : ∀ {k : Hart s.cfg}, exec i s = .next (s.withHart k) → t = k := fun hk => State.next_inj (he.symm.trans hk)
  by_cases hplain : isPlain i = true
  · obtain ⟨k, e, tval, hk, hx⟩ | ⟨k, target, hk, -, hx⟩ := exec_plain_ends s hplain
    · exact .inl (State.traps_of_transfers hk hx)
    · obtain rfl := done hx
      rw [hk.frame]
      exact .inr ⟨fun _ _ => rfl, fun _ _ => ⟨_, rfl⟩⟩
  by_cases hm : i = .mret
  · subst hm
    obtain h | ⟨-, hx⟩ := exec_mret_ends s
    · exact .inl h.traps
    · obtain rfl := done hx
      exact .inr ⟨fun _ _ => rfl, fun _ _ => ⟨_, rfl⟩⟩
  by_cases hs : i = .sret
  · subst hs
    obtain h | ⟨-, -, hx⟩ := exec_sret_ends s
    · exact .inl h.traps
    · obtain rfl := done hx
      exact .inr ⟨fun _ _ => rfl, fun _ _ => ⟨_, rfl⟩⟩
  obtain h | ⟨rd, csr, reads, writes, new, r, ha, hw, hx⟩ := exec_csr_ends s (by simpa using hplain) hm hs
  · exact .inl h.traps
  · obtain rfl := done hx
    rw [Hart.finish_wrote]
    refine .inr ⟨fun h1 h2 => ?_, fun h1 h2 => ?_⟩
    · have hr : (writes && r.isInstret) = false := by
        by_contra hb
        simp only [Bool.not_eq_false, Bool.and_eq_true] at hb
        obtain ⟨rfl, hr⟩ := hb
        obtain rfl | rfl := csrOf_isInstret ha.named hr
        · exact h1 hw
        · exact h2 hw
      dsimp only
      rw [hr, Hart.csrDone_minstret _ _ _ hr]
      rfl
    · have hr : (writes && r.isCycle) = false := by
        by_contra hb
        simp only [Bool.not_eq_false, Bool.and_eq_true] at hb
        obtain ⟨rfl, hr⟩ := hb
        obtain rfl | rfl := csrOf_isCycle ha.named hr
        · exact h1 hw
        · exact h2 hw
      dsimp only
      rw [hr, Hart.csrDone_mcycle _ _ _ hr]
      exact ⟨_, rfl⟩

/-- Every instruction answers a next state. -/
theorem exec_next (i : Instr) (s : State) : ∃ t : Hart s.cfg, exec i s = .next (s.withHart t) := by
  by_cases hplain : isPlain i = true
  · obtain ⟨r, he, -⟩ := exec_plain i s hplain
    exact ⟨_, he⟩
  by_cases hm : i = .mret
  · exact ⟨_, by rw [hm]; rfl⟩
  by_cases hs : i = .sret
  · exact ⟨_, by rw [hs]; rfl⟩
  obtain ⟨rd, csr, reads, writes, new, he, -⟩ := exec_csr i s (by simpa using hplain) hm hs
  exact ⟨_, he⟩

/-! ## A step -/

/-- Sampling the inputs leaves everything but the inputs. -/
theorem Hart.sample_not_waiting (h : Hart c) :
    ({ h with waiting := false } : Hart c).sample = { h.sample with waiting := false } := by
  rcases hs : h.samples with _ | ⟨p, rest⟩ <;> simp [Hart.sample, hs]

/-- The interrupt or the instruction of a step: mcycle does not fall, or the instruction fetched writes it. -/
theorem runStep_mcycle {s t : State} (he : s.runStep = .next t) :
    s.hart.mcycle.toNat ≤ t.hart.mcycle.toNat ∨
      ∃ code k i, s.hart.interrupt = none ∧ s.hart.fetch = .fetched code k ∧ decode s.cfg code = some i ∧
        (writtenCsr i = some 0xB00 ∨ writtenCsr i = some 0xB80) := by
  have raised : ∀ (k : Hart s.cfg) (intr : Bool) (code : Nat) (tval : BitVec s.cfg.xlen), s.hart.Transfers k →
      t = s.withHart ((k.trap intr code tval).tick 0) → s.hart.mcycle.toNat ≤ t.hart.mcycle.toNat := by
    intro k intr code tval hk ht
    have hkc : k.mcycle = s.hart.mcycle := by rw [hk.frame]; rfl
    rw [ht, ← hkc, ← (k.trap_counters intr code tval).1]
    exact Hart.mcycle_le_tick _ 0
  unfold State.runStep at he
  split at he
  · exact .inl (raised _ _ _ _ (.refl _) (Host.Outcome.next.inj he).symm)
  · next hint =>
    split at he
    · cases he
    · next k hf => exact .inl (raised _ _ _ _ (Hart.fetch_fault_transfers hf) (Host.Outcome.next.inj he).symm)
    · next code k hf =>
      have hk := Hart.fetch_transfers hf
      unfold State.execCode at he
      split at he
      · next i hd =>
        by_cases hw : writtenCsr i = some 0xB00 ∨ writtenCsr i = some 0xB80
        · exact .inr ⟨code, k, i, hint, hf, hd, hw⟩
        · left
          obtain ⟨h1, h2⟩ := not_or.1 hw
          have hkc : k.mcycle = s.hart.mcycle := by rw [hk.frame]; rfl
          obtain ⟨k', he'⟩ := exec_next i (s.withHart k)
          obtain rfl := Host.Outcome.next.inj (he.symm.trans he')
          rw [← hkc]
          obtain h | ⟨-, hc⟩ := exec_counters he'
          · exact (h.counters he').2
          · obtain ⟨n, hn⟩ := hc h1 h2
            exact (mcycle_advance hn).1
      · exact .inl (raised _ _ _ _ hk (Host.Outcome.next.inj he).symm)

/-- Settles O38: the step by its interrupt or its instruction, the instruction by the way it ends. -/
theorem counters : Obligations.Counters := by
  unfold Obligations.Counters
  intro s
  refine ⟨fun t he => ?_, fun i t he => ⟨fun h => (h.counters he).1, fun h h1 h2 => ?_, fun h1 h2 => ?_⟩⟩
  · have run : ∀ {t}, State.runStep (s.withHart { s.hart.sample with waiting := false }) = .next t →
        s.hart.pcUnspecified = false → s.hart.mcycle.toNat ≤ t.hart.mcycle.toNat ∨
        ∃ code h i, (s.withHart { s.hart with waiting := false }).Fetches code h ∧ decode s.cfg code = some i ∧
          (writtenCsr i = some 0xB00 ∨ writtenCsr i = some 0xB80) := by
      intro t hrun hpc
      obtain h | ⟨code, k, i, hint, hf, hd, hw⟩ := runStep_mcycle hrun
      · left
        simpa using h
      · refine .inr ⟨code, k, i, ⟨hpc, rfl, ?_, ?_⟩, hd, hw⟩
        · exact (congrArg Hart.interrupt s.hart.sample_not_waiting).trans hint
        · exact (congrArg Hart.fetch s.hart.sample_not_waiting).trans hf
    unfold step at he
    split at he
    · cases he
    · next hpc =>
      dsimp only at he
      split at he
      · split at he
        · left
          obtain rfl := Host.Outcome.next.inj he
          simpa using s.hart.sample.mcycle_le_tick 0
        · exact run he (by simpa using hpc)
      · next hwait =>
        have hw : s.hart.sample.waiting = false := by simpa using hwait
        have hsame : s.hart.sample = { s.hart.sample with waiting := false } := by
          conv_rhs => rw [← hw]
        rw [hsame] at he
        exact run he (by simpa using hpc)
  · obtain h' | ⟨hi, -⟩ := exec_counters he
    · exact absurd h' h
    · exact hi h1 h2
  · obtain h' | ⟨-, hc⟩ := exec_counters he
    · exact ⟨(h'.counters he).2, fun h => absurd h' h⟩
    · obtain ⟨n, hn⟩ := hc h1 h2
      exact ⟨(mcycle_advance hn).1, fun _ => (mcycle_advance hn).2⟩

end Sys2Proof.Machine
end

section
/-! Trap entry, the register-register instructions and the jumps. -/

namespace Sys2Proof.Machine

open Sys2Proof

variable {c : Config}

/-! ## Trap entry (R710, R711) -/

theorem Hart.delegated_iff {h : Hart c} {intr : Bool} {code : Nat} :
    h.delegated intr code = true ↔
      c.hasS = true ∧ h.priv ≠ .m ∧ (if intr then h.mideleg else h.medeleg).getLsbD code = true := by
  unfold Hart.delegated
  simp only [Bool.and_eq_true, bne_iff_ne, ne_eq, and_assoc]

/-- Settles O12: the two ways `Hart.trap` goes, with the cause word and the vector as numbers. -/
theorem trapEntry : Obligations.TrapEntry := by
  unfold Obligations.TrapEntry
  refine ⟨?_, fun c => ⟨rfl, rfl, rfl, rfl, rfl⟩⟩
  intro c h intr code tval hcode t cause handler toS
  have hxlen : 2 ≤ c.xlen := by rcases xlen_cases c with e | e <;> omega
  have hcause : (causeWord c intr code).toNat = cause := causeWord_toNat c intr code hcode
  have hvector (tvec : BitVec c.xlen) : (vector tvec intr code).toNat = handler tvec.toNat :=
    vector_toNat hxlen tvec intr code
  constructor
  · intro hno
    have ht : t = h.trapToM intr code tval := if_neg fun hd => hno (Hart.delegated_iff.1 hd)
    clear_value t
    subst ht
    exact ⟨rfl, hcause, rfl, rfl, rfl, hvector _, rfl, rfl, rfl, rfl, rfl⟩
  · intro hyes
    have ht : t = h.trapToS intr code tval := if_pos (Hart.delegated_iff.2 hyes)
    clear_value t
    subst ht
    refine ⟨rfl, hcause, rfl, ?_, rfl, hvector _, rfl, rfl, rfl, rfl, rfl⟩
    simp only [Hart.trapToS, beq_eq_decide]

/-! ## Register-register instructions (R270 to R290) -/

/-- A comparison leaves 1 or 0 where its condition decides so. -/
theorem boolX_eq {b : Bool} {p : Prop} [Decidable p] (h : b = true ↔ p) : boolX c b = if p then 1 else 0 := by
  unfold boolX
  simp only [h]

/-- Settles O18: each instruction is the shared result shape, with its value as an integer. -/
theorem integerRegisterRegister : Obligations.IntegerRegisterRegister := by
  unfold Obligations.IntegerRegisterRegister
  intro s rd rs1 rs2
  exact ⟨State.writesX_of rfl (add_eq_ofInt_toNat _ _), State.writesX_of rfl (sub_eq_ofInt_toNat _ _),
    State.writesX_of rfl (shiftLeft_eq_ofInt _ _), State.writesX_of rfl (shiftRight_eq_ofInt _ _),
    State.writesX_of rfl (sshiftRight_eq_ofInt _ _), State.writesX_of rfl rfl, State.writesX_of rfl rfl,
    State.writesX_of rfl rfl, State.writesX_of rfl (boolX_eq BitVec.slt_iff_toInt_lt),
    State.writesX_of rfl (boolX_eq BitVec.ult_iff_toNat_lt)⟩

/-! ## Jumps (R307, R308, R363 to R366) -/

/-- Settles O28: each jump is the shared link or jump shape. -/
theorem jumps : Obligations.Jumps := by
  unfold Obligations.Jumps
  intro s rd rs1 o20 o12 o11
  dsimp only
  simp only [← offsetX_eq, ← evenAddr_eq]
  exact ⟨State.linksTo_of rfl rfl, State.linksTo_of rfl rfl, State.jumpsTo_of rfl, State.jumpsTo_of rfl,
    State.linksTo_of rfl rfl, State.linksTo_of rfl rfl⟩

end Sys2Proof.Machine
end

section
/-! Atomics and the floating-point instructions that round nothing: loads, stores, sign injection, minima and maxima,
comparisons, classification, moves, and the boxing of singles. -/

namespace Sys2Proof.Machine

open Sys2Proof

variable {c : Config}

/-! ## Atomic memory operations (R460 to R473) -/

/-- A 64-bit word as the number a claim reads signed. -/
theorem ofNat_toNat_toInt (v : BitVec 64) : (BitVec.ofNat 64 v.toNat).toInt = v.toInt := by
  rw [BitVec.ofNat_toNat, BitVec.setWidth_eq]

theorem minUnsigned_toNat {n : Nat} (a b : BitVec n) : (minUnsigned a b).toNat = min a.toNat b.toNat := by
  unfold minUnsigned
  split
  · next h => exact (min_eq_left (BitVec.ule_iff_toNat_le.1 h)).symm
  · next h => exact (min_eq_right (le_of_not_ge fun h' => h (BitVec.ule_iff_toNat_le.2 h'))).symm

theorem maxUnsigned_toNat {n : Nat} (a b : BitVec n) : (maxUnsigned a b).toNat = max a.toNat b.toNat := by
  unfold maxUnsigned
  split
  · next h => exact (max_eq_left (BitVec.ule_iff_toNat_le.1 h)).symm
  · next h => exact (max_eq_right (le_of_not_ge fun h' => h (BitVec.ule_iff_toNat_le.2 h'))).symm

theorem minSigned_toNat {n : Nat} (a b : BitVec n) :
    (minSigned a b).toNat = if b.toInt < a.toInt then b.toNat else a.toNat := by
  unfold minSigned
  by_cases h : a.toInt ≤ b.toInt
  · rw [if_pos (BitVec.sle_iff_toInt_le.2 h), if_neg (not_lt.2 h)]
  · rw [if_neg fun h' => h (BitVec.sle_iff_toInt_le.1 h'), if_pos (not_le.1 h)]

theorem maxSigned_toNat {n : Nat} (a b : BitVec n) :
    (maxSigned a b).toNat = if a.toInt < b.toInt then b.toNat else a.toNat := by
  unfold maxSigned
  by_cases h : b.toInt ≤ a.toInt
  · rw [if_pos (BitVec.sle_iff_toInt_le.2 h), if_neg (not_lt.2 h)]
  · rw [if_neg fun h' => h (BitVec.sle_iff_toInt_le.1 h'), if_pos (not_le.1 h)]

/-- The low word of a register, as a number. -/
theorem to64_low32_toNat (c : Config) (v : BitVec c.xlen) : (to64 (low32 v)).toNat = v.toNat % 2 ^ 32 := by
  unfold to64 low32
  rw [BitVec.toNat_setWidth, BitVec.toNat_setWidth, Nat.mod_eq_of_lt]
  omega

/-- A doubleword AMO, from its operation on numbers. -/
theorem State.amoRule_double {s : State} {i : Instr} {rd rs1 : BitVec 5} {f : BitVec 64 → BitVec 64} {op : Nat → Nat}
    (hm : Memory.wf s.hart.mem = true)
    (h : exec i s = s.run (encode i) (s.hart.amo rd rs1 8 f (unsignedLoad s.cfg 64)))
    (hf : ∀ v, (f v).toNat = op v.toNat) :
    s.AmoRule i rd (s.hart.getX rs1) 8 op fun v => BitVec.ofNat s.cfg.xlen v :=
  State.amoRule_of hm (le_refl 8) h (fun v _ => hf v) fun _ hv => unsignedLoad_eq s.cfg rfl hv

/-- Settles O39: the shared atomic shape, with each operation as a number. -/
theorem atomicOperations : Obligations.AtomicOperations := by
  unfold Obligations.AtomicOperations
  intro s rd rs2 rs1 aq rl hm
  have hb := to64_toNat s.cfg (s.hart.getX rs2)
  dsimp only
  rw [← hb]
  refine ⟨State.amoRule_double hm rfl fun v => BitVec.toNat_add .., State.amoRule_double hm rfl fun v => BitVec.toNat_and ..,
    State.amoRule_double hm rfl fun v => BitVec.toNat_or .., State.amoRule_double hm rfl fun v => BitVec.toNat_xor ..,
    State.amoRule_double hm rfl fun v => rfl, State.amoRule_double hm rfl fun v => ?_,
    State.amoRule_double hm rfl fun v => maxUnsigned_toNat .., State.amoRule_double hm rfl fun v => ?_,
    State.amoRule_double hm rfl fun v => minUnsigned_toNat ..,
    State.amoRule_of hm (by decide) rfl (fun v _ => ?_) fun v _ => signedLoad_eq s.cfg 32 v⟩
  · simp only [maxSigned_toNat, ofNat_toNat_toInt]
  · simp only [minSigned_toNat, ofNat_toNat_toInt]
  · rw [minUnsigned_toNat, to64_low32_toNat, hb]

/-! ## lr.d and sc.d (R461, R463) -/

/-- A checked read that passes goes on with the value. -/
theorem Hart.withLoad_of_ok (h : Hart c) {k : Access} {a : BitVec c.xlen} {n : Nat} (use : Hart c → BitVec 64 → Res c)
    (hok : AccessOk c k a n) : h.withLoad k a n use = use (h.afterRead a n) (h.readValue a n) := by
  unfold Hart.withLoad
  rw [accessCheck_eq_none.2 hok]

/-- A checked read that fails raises its exception. -/
theorem Hart.withLoad_of_some (h : Hart c) {k : Access} {a : BitVec c.xlen} {n : Nat} (use : Hart c → BitVec 64 → Res c)
    {e : Exc} (he : accessCheck c k a n = some e) : h.withLoad k a n use = .trap h e a := by
  unfold Hart.withLoad
  rw [he]

/-- x[rd] after a write of it, in any hart with those registers. -/
theorem Hart.xBecomes_of {h t k : Hart c} {rd : BitVec 5} {v : BitVec c.xlen} (hk : k.x = h.x)
    (ht : t.x = (k.setX rd v).x) : h.XBecomes t rd v :=
  ⟨(Hart.getX_congr ht rd).trans (k.getX_setX_same rd v),
    fun r hr => (Hart.getX_congr ht r).trans ((k.getX_setX_of_ne hr v).trans (Hart.getX_congr hk r))⟩

/-- Settles O40: the two instructions by the outcome of their checks, sc.d by the reservation. -/
theorem loadReservedStoreConditional : Obligations.LoadReservedStoreConditional := by
  unfold Obligations.LoadReservedStoreConditional
  intro s rd rs2 rs1 aq rl hm a fails
  have hlr : exec (.lrD rd rs1 aq rl) s = s.run (encode (.lrD rd rs1 aq rl)) (s.hart.withLoad .lr a 8 fun h' v =>
    .next { h'.setX rd (unsignedLoad s.cfg 64 v) with reservation := some a }) := rfl
  have hsc : exec (.scD rd rs2 rs1 aq rl) s = s.run (encode (.scD rd rs2 rs1 aq rl))
    (match accessCheck s.cfg .sc a 8 with
      | some e => .trap s.hart e a
      | none => .next (s.hart.scStore rd a (to64 (s.hart.getX rs2)))) := rfl
  refine ⟨fun hok => ?_, State.accessTraps_of fun e he => ?_, fun hok hres hfails => ?_, fun hok hno => ?_,
    State.accessTraps_of fun e he => ?_⟩
  · rw [Hart.withLoad_of_ok _ _ hok] at hlr
    refine ⟨_, _, hlr.trans (s.run_next _ _), fun hio => ?_, Hart.xBecomes_of (s.hart.afterRead_x a 8) rfl, rfl,
      ⟨?_, ?_⟩, Hart.readTrace_afterRead _ _ _ (by simp [Hart.finish_next]), ?_⟩
    · rw [unsignedLoad_eq s.cfg rfl (s.hart.readValue_lt a (le_refl 8)), s.hart.readValue_toNat a (le_refl 8) hio]
    · simp only [Hart.finish_next, Hart.setX_pc]
      rw [Hart.afterRead_eq]
      rfl
    · simp only [Hart.finish_next, Hart.setX_minstret]
      rw [Hart.afterRead_eq]
    · rw [Hart.finish_next]
      unfold Hart.setX
      rw [Hart.afterRead_eq s.hart a 8]
      split <;> rfl
  · rw [Hart.withLoad_of_some _ _ he] at hlr
    exact hlr
  · rw [accessCheck_eq_none.2 hok] at hsc
    have hstore : s.hart.scStore rd a (to64 (s.hart.getX rs2)) =
        { (s.hart.writeMem a 8 (to64 (s.hart.getX rs2))).setX rd 0 with reservation := none } := by
      have hno : (s.cfg.scMayFail && s.hart.scFail) = false := by
        rw [Bool.eq_false_iff, ne_eq, Bool.and_eq_true]
        exact hfails
      exact if_pos (by simp [hres, hno])
    rw [hstore] at hsc
    refine ⟨_, hsc, ?_, Hart.xBecomes_of (k := s.hart.writeMem a 8 (to64 (s.hart.getX rs2))) (by rw [Hart.writeMem_eq]) rfl,
      rfl, ⟨?_, ?_⟩, ?_⟩
    · rw [← to64_toNat]
      exact Hart.stored_writeMem hm a (le_refl 8) _ (by simp [Hart.finish_next]) (by simp [Hart.finish_next])
        (by simp [Hart.finish_next])
    · simp only [Hart.finish_next, Hart.setX_pc]
      rw [Hart.writeMem_eq]
      rfl
    · simp only [Hart.finish_next, Hart.setX_minstret]
      rw [Hart.writeMem_eq]
    · rw [Hart.finish_next]
      unfold Hart.setX
      rw [Hart.writeMem_eq]
      split <;> rfl
  · rw [accessCheck_eq_none.2 hok] at hsc
    have hfail : s.hart.scStore rd a (to64 (s.hart.getX rs2)) = { s.hart.setX rd 1 with reservation := none } := by
      refine if_neg ?_
      rcases hno with h | ⟨h1, h2⟩
      · simp [h]
      · simp [h1, h2]
    rw [hfail] at hsc
    refine ⟨_, hsc, Hart.xBecomes_of (k := s.hart) rfl rfl, rfl, ⟨?_, ?_⟩, ?_⟩
    · simp only [Hart.finish_next, Hart.setX_pc]
      rfl
    · simp only [Hart.finish_next, Hart.setX_minstret]
    · rw [Hart.finish_next]
      unfold Hart.setX
      split <;> rfl
  · rw [he] at hsc
    exact hsc

end Sys2Proof.Machine
end

section
/-! The floating-point instructions that round nothing: loads and stores, sign injection, minima and maxima,
comparisons, classification, moves, and the boxing of singles. -/

namespace Sys2Proof.Machine

open Sys2Proof

variable {c : Config}

/-! ## The gate, and the results behind it (R409) -/

/-- Behind the FS gate an instruction is illegal, or what it is without the gate. -/
theorem State.fpGated_of {s : State} {i : Instr} {r : Res s.cfg} {p : Prop}
    (h : exec i s = s.run (encode i) (s.hart.withFp r)) (hp : exec i s = s.run (encode i) r → p) : s.FpGated i p := by
  unfold Hart.withFp at h
  constructor
  · intro h0
    rw [if_pos h0] at h
    exact State.raisesIllegal_of h
  · intro h0
    rw [if_neg h0] at h
    exact hp h

/-- f[rd] after a write of it, in any hart with those registers. -/
theorem Hart.fBecomes_of {h t k : Hart c} {rd : BitVec 5} {w : BitVec c.flen} (hk : k.f = h.f)
    (ht : t.f = (k.setF rd w).f) : h.FBecomes t rd w := by
  have congr : ∀ {a b : Hart c}, a.f = b.f → ∀ r, a.getF r = b.getF r := fun e r => by unfold Hart.getF; rw [e]
  exact ⟨(congr ht rd).trans (k.getF_setF_same rd w),
    fun r hr => (congr ht r).trans ((k.getF_setF_of_ne hr w).trans (congr hk r))⟩

theorem Hart.setFlags_eq (h : Hart c) (fl : BitVec 5) :
    h.setFlags fl = { h with fflags := (h.setFlags fl).fflags, mstatus := (h.setFlags fl).mstatus } := by
  unfold Hart.setFlags
  split <;> rfl

/-- An f register and flags are written. -/
theorem State.writesF_of {s : State} {i : Instr} {rd : BitVec 5} {w w' : BitVec s.cfg.flen} {fl : BitVec 5}
    (h : exec i s = s.run (encode i) (.next ((s.hart.setF rd w).setFlags fl))) (hw : w = w') : s.WritesF i rd w' fl := by
  subst hw
  have hms : ((s.hart.setF rd w).setFlags fl).mstatus = { s.hart.mstatus with fs := 3 } := by
    rw [Hart.setFlags_mstatus]
    split <;> rfl
  refine ⟨_, h.trans (s.run_next _ _), Hart.fBecomes_of (k := s.hart) rfl ?_, ⟨?_, fun _ => hms, fun h0 => absurd trivial h0⟩,
    ⟨?_, ?_⟩, ?_⟩
  · rw [Hart.finish_next, Hart.setFlags_eq]
  · simp [Hart.finish_next]
  · simp [Hart.finish_next, Instr.ilen]
  · simp [Hart.finish_next]
  · rw [Hart.finish_next, Hart.setFlags_eq]
    rfl

/-- An f register is written, and no flag. -/
theorem State.writesF_of_noFlags {s : State} {i : Instr} {rd : BitVec 5} {w w' : BitVec s.cfg.flen}
    (h : exec i s = s.run (encode i) (.next (s.hart.setF rd w))) (hw : w = w') : s.WritesF i rd w' 0 :=
  State.writesF_of (w := w) (fl := 0) h hw

/-- An x register and flags are written. -/
theorem State.writesXF_of {s : State} {i : Instr} {rd : BitVec 5} {v : BitVec s.cfg.xlen} {fl : BitVec 5}
    (h : exec i s = s.run (encode i) (.next ((s.hart.setX rd v).setFlags fl))) : s.WritesXF i rd v fl := by
  have hms := (s.hart.setX rd v).setFlags_mstatus fl
  refine ⟨_, h.trans (s.run_next _ _), Hart.xBecomes_of (k := s.hart) rfl ?_, ⟨?_, fun hne => ?_, fun he => ?_⟩,
    ⟨?_, ?_⟩, ?_⟩
  · rw [Hart.finish_next, Hart.setFlags_eq]
  · simp [Hart.finish_next]
  · rw [if_neg hne, Hart.setX_mstatus] at hms
    exact hms
  · rw [if_pos (not_not.1 he), Hart.setX_mstatus] at hms
    exact hms
  · simp [Hart.finish_next, Instr.ilen]
  · simp [Hart.finish_next]
  · rw [Hart.finish_next, Hart.setFlags_eq]
    unfold Hart.setX
    split <;> rfl

theorem State.comparesX_of {s : State} {i : Instr} {rd : BitVec 5} {r : Bool × BitVec 5}
    (h : exec i s = s.run (encode i) (s.hart.withFp (s.hart.putBool rd r))) : s.ComparesX i rd r :=
  State.fpGated_of h fun h' => State.writesXF_of h'

/-! ## Loads and stores (R410, R411, R481, R482) -/

/-- A floating-point load, from what its extension makes of the number read. -/
theorem State.loadFRule_of {s : State} {i : Instr} {rd : BitVec 5} {a : BitVec s.cfg.xlen} {n : Nat}
    {f : BitVec 64 → BitVec s.cfg.flen} {ext : Nat → BitVec s.cfg.flen} (hn : n ≤ 8)
    (h : exec i s = s.run (encode i) (s.hart.withFp (s.hart.withLoad .load a n fun h' v => .next (h'.setF rd (f v)))))
    (hf : ∀ v : BitVec 64, f v = ext v.toNat) : s.LoadFRule i rd a n ext := by
  refine State.fpGated_of h fun h => ⟨fun hok => ?_, State.accessTraps_of fun e he => ?_⟩
  · rw [Hart.withLoad_of_ok _ _ hok] at h
    have hfl : (s.hart.afterRead a n).f = s.hart.f := by rw [Hart.afterRead_eq]
    refine ⟨_, f (s.hart.readValue a n), h.trans (s.run_next _ _), fun hio => ?_, Hart.fBecomes_of hfl rfl,
      ⟨?_, fun _ => ?_, fun h0 => absurd trivial h0⟩, ⟨?_, ?_⟩, Hart.readTrace_afterRead _ _ _ rfl, ?_⟩
    · rw [hf, s.hart.readValue_toNat a hn hio]
    · simp only [Hart.finish_next, Hart.setF_fflags]
      rw [Hart.afterRead_eq]
      exact BitVec.or_zero.symm
    · simp only [Hart.finish_next, Hart.setF_mstatus]
      rw [Hart.afterRead_eq]
    · simp only [Hart.finish_next, Hart.setF_pc]
      rw [Hart.afterRead_eq]
      rfl
    · simp only [Hart.finish_next, Hart.setF_minstret]
      rw [Hart.afterRead_eq]
    · rw [Hart.finish_next, Hart.setF, Hart.afterRead_eq s.hart a n]
  · rw [Hart.withLoad_of_some _ _ he] at h
    exact h

theorem State.loadS_of {s : State} {i : Instr} {rd : BitVec 5} {a : BitVec s.cfg.xlen}
    (h : exec i s = s.run (encode i) (s.hart.loadS rd a)) :
    s.LoadFRule i rd a 4 fun v => box32 s.cfg (BitVec.ofNat 32 v) :=
  State.loadFRule_of (by decide) h fun v => congrArg (box32 s.cfg) (setWidth_eq_ofNat v)

theorem State.loadD_of {s : State} {i : Instr} {rd : BitVec 5} {a : BitVec s.cfg.xlen}
    (h : exec i s = s.run (encode i) (s.hart.loadD rd a)) :
    s.LoadFRule i rd a 8 fun v => BitVec.ofNat s.cfg.flen v :=
  State.loadFRule_of (le_refl 8) h fun v => setWidth_eq_ofNat v

theorem flen_le (c : Config) : c.flen ≤ 64 := by rcases flen_cases c with e | e <;> omega

/-- What a floating-point store stores is the register, as a number. -/
theorem State.storeF_of {s : State} {i : Instr} {rs2 : BitVec 5} {a : BitVec s.cfg.xlen} {n : Nat}
    (hm : Memory.wf s.hart.mem = true) (hn : n ≤ 8) (h : exec i s = s.run (encode i) (s.hart.storeF rs2 a n)) :
    s.FpGated i (s.StoreRule i a n (s.hart.getF rs2).toNat) := by
  refine State.fpGated_of h fun h' => State.storeRule_of hm hn h' ?_
  unfold to64
  rw [BitVec.toNat_setWidth, Nat.mod_eq_of_lt]
  exact (s.hart.getF rs2).isLt.trans_le (Nat.pow_le_pow_right (by norm_num) (flen_le s.cfg))

/-- Settles O42: the shared load and store shapes, with the addresses as numbers. -/
theorem floatLoadsAndStores : Obligations.FloatLoadsAndStores := by
  unfold Obligations.FloatLoadsAndStores
  intro s r rs1 off d b u5 u6 hm
  dsimp only
  have scaled2 : ∀ {m : Nat} (u : BitVec m), BitVec.ofNat s.cfg.xlen (4 * u.toNat) = scaledX s.cfg u 2 :=
    fun u => (scaledX_eq s.cfg u 2).symm
  have scaled3 : ∀ {m : Nat} (u : BitVec m), BitVec.ofNat s.cfg.xlen (8 * u.toNat) = scaledX s.cfg u 3 :=
    fun u => (scaledX_eq s.cfg u 3).symm
  simp only [scaled2, scaled3, ← creg_eq]
  exact ⟨State.loadS_of rfl, State.loadS_of rfl, State.loadS_of rfl, State.loadD_of rfl, State.loadD_of rfl,
    State.loadD_of rfl, State.storeF_of hm (by decide) rfl, State.storeF_of hm (by decide) rfl,
    State.storeF_of hm (by decide) rfl, State.storeF_of hm (by decide) rfl, State.storeF_of hm (by decide) rfl,
    State.storeF_of hm (by decide) rfl⟩

/-! ## Sign injection, comparisons, classification and moves (R427 to R435, R492 to R507) -/

/-- A pattern with its sign replaced, as a number: the sign weighs the top power of two. -/
theorem withSign_eq {n : Nat} (a : BitVec (n + 1)) (sign : Bool) :
    withSign a sign = BitVec.ofNat (n + 1) (a.toNat % 2 ^ n + if sign then 2 ^ n else 0) := by
  have hmask : (BitVec.allOnes (n + 1) >>> 1).toNat = 2 ^ n - 1 := by
    rw [BitVec.toNat_ushiftRight, BitVec.toNat_allOnes, Nat.shiftRight_eq_div_pow]
    have := Nat.two_pow_pos n
    omega
  have hsign : (bitIf (n + 1) sign n).toNat = if sign then 2 ^ n else 0 := by
    cases sign
    · rfl
    · exact (BitVec.toNat_twoPow _ _).trans (Nat.mod_eq_of_lt (Nat.pow_lt_pow_right (by norm_num) (Nat.lt_succ_self n)))
  have hlt : a.toNat % 2 ^ n < 2 ^ n := Nat.mod_lt _ (Nat.two_pow_pos n)
  apply BitVec.eq_of_toNat_eq
  unfold withSign
  rw [Nat.add_sub_cancel, BitVec.toNat_or, BitVec.toNat_and, hmask, Nat.and_two_pow_sub_one_eq_mod, hsign,
    BitVec.toNat_ofNat]
  generalize a.toNat % 2 ^ n = m at hlt ⊢
  cases sign
  · rw [if_neg Bool.false_ne_true, Nat.or_zero, Nat.add_zero, Nat.mod_eq_of_lt (by rw [pow_succ]; omega)]
  · have hor := Nat.two_pow_add_eq_or_of_lt hlt 1
    rw [Nat.mul_one] at hor
    rw [if_pos rfl, Nat.or_comm, ← hor, Nat.add_comm, Nat.mod_eq_of_lt (by rw [pow_succ]; omega)]

/-- The same of a double written to an f register. -/
theorem withSign_setWidth (c : Config) (a : BitVec 64) (sign : Bool) :
    (withSign a sign).setWidth c.flen = BitVec.ofNat c.flen (a.toNat % 2 ^ 63 + if sign then 2 ^ 63 else 0) := by
  rw [withSign_eq (n := 63) a sign, BitVec.setWidth_ofNat_of_le (flen_le c)]

theorem twoPow_eq_ofNat (n k : Nat) : BitVec.twoPow n k = BitVec.ofNat n (2 ^ k) :=
  BitVec.eq_of_toNat_eq (by rw [BitVec.toNat_twoPow, BitVec.toNat_ofNat])

/-- Settles O46: each instruction is a shared shape behind the gate. -/
theorem floatMovesAndComparisons : Obligations.FloatMovesAndComparisons := by
  unfold Obligations.FloatMovesAndComparisons
  intro s rd rs1 rs2
  have single : ∀ (a : BitVec 32) (b : Bool), box32 s.cfg (withSign a b) =
      box32 s.cfg (BitVec.ofNat 32 (a.toNat % 2 ^ 31 + if b then 2 ^ 31 else 0)) :=
    fun a b => congrArg (box32 s.cfg) (withSign_eq (n := 31) a b)
  refine ⟨State.fpGated_of rfl fun h => State.writesF_of_noFlags h (single _ _),
    State.fpGated_of rfl fun h => State.writesF_of_noFlags h (single _ _),
    State.fpGated_of rfl fun h => State.writesF_of_noFlags h (single _ _),
    State.fpGated_of rfl fun h => State.writesF_of h rfl, State.fpGated_of rfl fun h => State.writesF_of h rfl,
    State.comparesX_of rfl, State.comparesX_of rfl, State.comparesX_of rfl,
    State.fpGated_of rfl fun h => State.writesX_of h (twoPow_eq_ofNat _ _),
    State.fpGated_of rfl fun h => State.writesF_of_noFlags h (withSign_setWidth s.cfg _ _),
    State.fpGated_of rfl fun h => State.writesF_of_noFlags h (withSign_setWidth s.cfg _ _),
    State.fpGated_of rfl fun h => State.writesF_of_noFlags h (withSign_setWidth s.cfg _ _),
    State.fpGated_of rfl fun h => State.writesF_of h (BitVec.setWidth_ofNat_of_le (flen_le s.cfg) _),
    State.fpGated_of rfl fun h => State.writesF_of h (BitVec.setWidth_ofNat_of_le (flen_le s.cfg) _),
    State.comparesX_of rfl, State.comparesX_of rfl, State.comparesX_of rfl,
    State.fpGated_of rfl fun h => State.writesX_of h (twoPow_eq_ofNat _ _),
    State.fpGated_of rfl fun h => State.writesX_of h (congrArg (sext32 s.cfg) (setWidth_eq_ofNat _)),
    State.fpGated_of rfl fun h => State.writesX_of h (setWidth_eq_ofNat _),
    State.fpGated_of rfl fun h => State.writesF_of_noFlags h (congrArg (box32 s.cfg) (setWidth_eq_ofNat _)),
    State.fpGated_of rfl fun h => State.writesF_of_noFlags h ?_⟩
  exact (setWidth_eq_ofNat _).trans (congrArg (BitVec.ofNat s.cfg.flen) (to64_toNat s.cfg _))

/-! ## Boxing (R403, R404) -/

theorem flen_of_hasD {c : Config} (hD : c.hasD = true) : c.flen = 64 := by simp [Config.flen, hD]

theorem flen_of_not_hasD {c : Config} (hD : c.hasD = false) : c.flen = 32 := by simp [Config.flen, hD]

/-- A boxed single, as a number: ones above it where there is room. -/
theorem box32_toNat (c : Config) (w : BitVec 32) :
    (box32 c w).toNat = w.toNat + if c.hasD then 2 ^ 64 - 2 ^ 32 else 0 := by
  have hw := w.isLt
  have happ : (BitVec.allOnes 32 ++ w).toNat = (2 ^ 32 - 1) * 2 ^ 32 + w.toNat := by
    rw [BitVec.toNat_append, BitVec.toNat_allOnes, Nat.shiftLeft_eq, mul_comm, Nat.two_pow_add_eq_or_of_lt hw]
  unfold box32
  rw [BitVec.toNat_setWidth, happ]
  cases hD : c.hasD
  · rw [flen_of_not_hasD hD]
    simp
    omega
  · rw [flen_of_hasD hD]
    simp
    omega

/-- The upper half of a 64-bit register is all ones exactly when it boxes a single. -/
theorem isBoxed_iff {c : Config} (v : BitVec c.flen) :
    (v.setWidth 64 >>> 32 != 0xFFFFFFFF) = false ↔ v.toNat / 2 ^ 32 = 2 ^ 32 - 1 := by
  have hv : v.toNat < 2 ^ 64 := v.isLt.trans_le (Nat.pow_le_pow_right (by norm_num) (flen_le c))
  rw [bne_eq_false_iff_eq, ← BitVec.toNat_inj, BitVec.toNat_ushiftRight, BitVec.toNat_setWidth, Nat.mod_eq_of_lt hv,
    Nat.shiftRight_eq_div_pow]
  rfl

/-- What a register reads as, unboxed, as a number (R403). -/
theorem Hart.getS_toNat (h : Hart c) (r : BitVec 5) :
    (h.getS r).toNat = if c.hasD = true ∧ (h.getF r).toNat / 2 ^ 32 ≠ 2 ^ 32 - 1 then 0x7FC00000
      else (h.getF r).toNat % 2 ^ 32 := by
  unfold Hart.getS
  dsimp only
  by_cases hD : c.hasD = true
  · by_cases hb : (h.getF r).toNat / 2 ^ 32 = 2 ^ 32 - 1
    · rw [(isBoxed_iff _).2 hb, Bool.and_false, if_neg Bool.false_ne_true, if_neg (by tauto), BitVec.toNat_setWidth]
    · have hb' : ((h.getF r).setWidth 64 >>> 32 != 0xFFFFFFFF) = true := by
        by_contra hc
        exact hb ((isBoxed_iff _).1 (by simpa using hc))
      rw [if_pos (by rw [hD, hb']; rfl), if_pos ⟨hD, hb⟩]
      rfl
  · rw [if_neg (by simp [hD]), if_neg (by tauto), BitVec.toNat_setWidth]

/-- Settles O47: the box and what a register reads as, as numbers. -/
theorem singlesAreBoxed : Obligations.SinglesAreBoxed := by
  unfold Obligations.SinglesAreBoxed
  intro c h r w
  have hget : (h.setS r w).getF r = box32 c w := h.getF_setF_same r _
  have hw := w.isLt
  refine ⟨BitVec.eq_of_toNat_eq ?_, rfl, by rw [hget, box32_toNat], fun hD hb => ?_, fun hD hb => ?_, fun hD => ?_,
    fun hD v => ?_⟩
  · rw [Hart.getS_toNat, hget, box32_toNat]
    cases hD : c.hasD
    · simp [Nat.mod_eq_of_lt hw]
    · rw [if_neg, if_pos rfl]
      · omega
      · rintro ⟨-, hne⟩
        apply hne
        rw [if_pos rfl]
        omega
  · rw [Hart.getS_toNat, if_pos ⟨hD, hb⟩]
  · rw [Hart.getS_toNat, if_neg (by tauto)]
  · have hv : (h.getF r).toNat < 2 ^ 32 := (h.getF r).isLt.trans_eq (congrArg (2 ^ ·) (flen_of_not_hasD hD))
    rw [Hart.getS_toNat, if_neg (by simp [hD]), Nat.mod_eq_of_lt hv]
  · change ((h.setF r (v.setWidth c.flen)).getF r).setWidth 64 = v
    rw [Hart.getF_setF_same, flen_of_hasD hD, BitVec.setWidth_eq, BitVec.setWidth_eq]

end Sys2Proof.Machine
end

section
/-! The vector arithmetic and the vector stores: each instruction is a shared form, with its element function as
integers. -/

namespace Sys2Proof.Machine

open Sys2Proof

variable {c : Config}

/-! ## The forms with a second operand that every element shares -/

/-- A width equation carries over to words made by the same rule at each width. -/
theorem heq_of_width {f : (n : Nat) → BitVec n} {a b : Nat} (h : a = b) : HEq (f a) (f b) := by
  subst h
  rfl

section
variable {s : State} {i : BitVec 5 → BitVec 5 → BitVec 5 → BitVec 1 → Instr} {vd vs2 r : BitVec 5} {vm : BitVec 1}
  {f g : ElemOp}

theorem State.vxRule_of (hw : s.cfg.wf = true) (hv : s.hart.vectorOk)
    (h : exec (i vd vs2 r vm) s = s.run (encode (i vd vs2 r vm)) (s.hart.vxOp vd vs2 r vm f))
    (hfg : ∀ {n} (a b : BitVec n), f a b = g a b) : s.VxRule i vd vs2 r vm g :=
  State.vconstRule_of hw hv h (fun k _ hx hs => by
    unfold Hart.scalar
    rw [Hart.getX_congr hx r]
    exact heq_of_width (f := fun n => (s.hart.getX r).signExtend n) hs) hfg

theorem State.viRule_of (hw : s.cfg.wf = true) (hv : s.hart.vectorOk)
    (h : exec (i vd vs2 r vm) s = s.run (encode (i vd vs2 r vm)) (s.hart.viOp vd vs2 r vm f))
    (hfg : ∀ {n} (a b : BitVec n), f a b = g a b) : s.ViRule i vd vs2 r vm g :=
  State.vconstRule_of hw hv h (fun _ _ _ hs => heq_of_width (f := fun n => r.signExtend n) hs) hfg

theorem State.vuRule_of (hw : s.cfg.wf = true) (hv : s.hart.vectorOk)
    (h : exec (i vd vs2 r vm) s = s.run (encode (i vd vs2 r vm)) (s.hart.vuOp vd vs2 r vm f))
    (hfg : ∀ {n} (a b : BitVec n), f a b = g a b) : s.VuRule i vd vs2 r vm g :=
  State.vconstRule_of hw hv h (fun _ _ _ hs => heq_of_width (f := fun n => r.setWidth n) hs) hfg

end

/-! ## Element functions, as integers -/

theorem vsll_eq {n : Nat} (a b : BitVec n) : vsll a b = BitVec.ofNat n (a.toNat * 2 ^ (b.toNat % n)) :=
  shiftLeft_eq_ofNat a _

theorem vsrl_eq {n : Nat} (a b : BitVec n) : vsrl a b = BitVec.ofNat n (a.toNat / 2 ^ (b.toNat % n)) :=
  shiftRight_eq_ofNat a _

theorem vsra_eq {n : Nat} (a b : BitVec n) : vsra a b = BitVec.ofInt n (a.toInt / 2 ^ (b.toNat % n)) :=
  sshiftRight_eq_ofInt a _

theorem minUnsigned_eq {n : Nat} (a b : BitVec n) : minUnsigned a b = if a.toNat ≤ b.toNat then a else b := by
  simp only [minUnsigned, BitVec.ule_iff_toNat_le]

theorem minSigned_eq {n : Nat} (a b : BitVec n) : minSigned a b = if a.toInt ≤ b.toInt then a else b := by
  simp only [minSigned, BitVec.sle_iff_toInt_le]

theorem maxUnsigned_eq {n : Nat} (a b : BitVec n) : maxUnsigned a b = if b.toNat ≤ a.toNat then a else b := by
  simp only [maxUnsigned, BitVec.ule_iff_toNat_le]

theorem maxSigned_eq {n : Nat} (a b : BitVec n) : maxSigned a b = if b.toInt ≤ a.toInt then a else b := by
  simp only [maxSigned, BitVec.sle_iff_toInt_le]

theorem highProduct_unsigned {n : Nat} (a b : BitVec n) :
    highProduct false false a b = BitVec.ofNat n (a.toNat * b.toNat / 2 ^ n) := by
  rw [highProduct_eq, ← ofInt_natCast]
  push_cast
  rfl

/-- A product added to a word, with one cut at the end. -/
theorem mul_add_eq_ofInt {n : Nat} (a b d : BitVec n) : a * b + d = BitVec.ofInt n (a.toInt * b.toInt + d.toInt) := by
  rw [mul_eq_ofInt, add_eq_ofInt]
  apply BitVec.eq_of_toInt_eq
  simp only [BitVec.toInt_ofInt, Int.bmod_add_bmod]

/-- A product subtracted from a word, with one cut at the end. -/
theorem neg_mul_add_eq_ofInt {n : Nat} (a b d : BitVec n) :
    -(a * b) + d = BitVec.ofInt n (d.toInt - a.toInt * b.toInt) := by
  rw [BitVec.add_comm, ← BitVec.sub_eq_add_neg, mul_eq_ofInt, sub_eq_ofInt]
  apply BitVec.eq_of_toInt_eq
  simp

/-- Settles O55. -/
theorem vectorAddLogicShift : Obligations.VectorAddLogicShift := by
  unfold Obligations.VectorAddLogicShift
  intro s vd vs2 r vm hw hv
  exact ⟨State.vvRule_of hw hv rfl add_eq_ofInt, State.vxRule_of hw hv rfl add_eq_ofInt,
    State.viRule_of hw hv rfl add_eq_ofInt,
    State.vvRule_of hw hv rfl sub_eq_ofInt, State.vxRule_of hw hv rfl sub_eq_ofInt,
    State.vxRule_of hw hv rfl fun a b => sub_eq_ofInt b a, State.viRule_of hw hv rfl fun a b => sub_eq_ofInt b a,
    State.vvRule_of hw hv rfl fun _ _ => rfl, State.vxRule_of hw hv rfl fun _ _ => rfl,
    State.viRule_of hw hv rfl fun _ _ => rfl,
    State.vvRule_of hw hv rfl fun _ _ => rfl, State.vxRule_of hw hv rfl fun _ _ => rfl,
    State.viRule_of hw hv rfl fun _ _ => rfl,
    State.vvRule_of hw hv rfl fun _ _ => rfl, State.vxRule_of hw hv rfl fun _ _ => rfl,
    State.viRule_of hw hv rfl fun _ _ => rfl,
    State.vvRule_of hw hv rfl vsll_eq, State.vxRule_of hw hv rfl vsll_eq, State.vuRule_of hw hv rfl vsll_eq,
    State.vvRule_of hw hv rfl vsrl_eq, State.vxRule_of hw hv rfl vsrl_eq, State.vuRule_of hw hv rfl vsrl_eq,
    State.vvRule_of hw hv rfl vsra_eq, State.vxRule_of hw hv rfl vsra_eq, State.vuRule_of hw hv rfl vsra_eq⟩

/-! ## Multiply-adds (R688) -/

/-- A multiply-add gives the same number for the same operands, whichever hart names their width. -/
theorem ElemOp3.congr (f : ElemOp3) {a b : Nat} (e : a = b) {x x' x'' : BitVec a} {y y' y'' : BitVec b} (h : HEq x y)
    (h' : HEq x' y') (h'' : HEq x'' y'') : (f x x' x'').toNat = (f y y' y'').toNat := by
  subst e
  rw [eq_of_heq h, eq_of_heq h', eq_of_heq h'']

/-- What the legality of an arithmetic instruction says of its groups. -/
theorem Hart.varithOk.groups {h : Hart c} {vd : BitVec 5} {vm : BitVec 1} {src : List (BitVec 5)}
    (hok : h.varithOk vd vm src = true) : vd.toNat % h.lmul = 0 ∧ ∀ r ∈ src, r.toNat % h.lmul = 0 := by
  unfold Hart.varithOk at hok
  simp only [Bool.and_eq_true, Bool.not_eq_true', List.all_eq_true] at hok
  obtain ⟨⟨⟨-, hg⟩, -⟩, hall⟩ := hok
  exact ⟨by simpa [Hart.groupOk] using hg, fun r hr => by simpa [Hart.groupOk] using hall r hr⟩

/-- A multiply-add writes `f` of the old vd element, the vs2 element and its third operand: it is the arithmetic shape
with the whole value as second operand. -/
theorem State.vmulAdd_of {s : State} (hw : s.cfg.wf = true) (hv : s.hart.vectorOk) {i : Instr} {vd vs2 : BitVec 5}
    {vm : BitVec 1} {src : List (BitVec 5)} {f g : ElemOp3} {op1 : (h : Hart s.cfg) → Nat → BitVec h.sew}
    {b : Nat → BitVec s.hart.sew} (h : exec i s = s.run (encode i) (s.hart.vmulAdd vd vs2 vm src f op1))
    (hsrc : vs2 ∈ src)
    (hop : ∀ j k, s.hart.varithOk vd vm src = true → j < s.hart.vlmax → ∀ res : Nat → Nat → Prop,
      s.hart.Upto vd vm res j k → HEq (op1 k j) (b j))
    (hfg : ∀ {n} (d a e : BitVec n), f d a e = g d a e) :
    s.VRule i vd vm src fun j => (g (s.hart.velem vd.toNat j) (s.hart.velem vs2.toNat j) (b j)).toNat :=
  State.varith_of hw hv (vs2 := vs2) (f := fun _ v => v)
    (op1 := fun k j => f (k.velem vd.toNat j) (k.velem vs2.toNat j) (op1 k j)) h fun j k hok hj hp => by
      obtain ⟨ha, hall⟩ := Hart.varithOk.groups hok
      have hs : k.sew = s.hart.sew := by unfold Hart.sew; rw [hp.vtype]
      exact (ElemOp3.congr f hs (hp.velem_source vd ha ha hj) (hp.velem_source vs2 ha (hall _ hsrc) hj)
        (hop j k hok hj _ hp)).trans (by rw [hfg])

section
variable {s : State} {i : BitVec 5 → BitVec 5 → BitVec 5 → BitVec 1 → Instr} {vd vs2 r : BitVec 5} {vm : BitVec 1}
  {f g : ElemOp3}

theorem State.vvRule3_of (hw : s.cfg.wf = true) (hv : s.hart.vectorOk)
    (h : exec (i vd vs2 r vm) s = s.run (encode (i vd vs2 r vm)) (s.hart.vvOp3 vd vs2 r vm f))
    (hfg : ∀ {n} (d a b : BitVec n), f d a b = g d a b) : s.VvRule3 i vd vs2 r vm g :=
  State.vmulAdd_of hw hv h (by simp) (fun j k hok hj res hp => by
    obtain ⟨ha, hall⟩ := Hart.varithOk.groups hok
    exact hp.velem_source r ha (hall r (by simp)) hj) hfg

theorem State.vxRule3_of (hw : s.cfg.wf = true) (hv : s.hart.vectorOk)
    (h : exec (i vd vs2 r vm) s = s.run (encode (i vd vs2 r vm)) (s.hart.vxOp3 vd vs2 r vm f))
    (hfg : ∀ {n} (d a b : BitVec n), f d a b = g d a b) : s.VxRule3 i vd vs2 r vm g :=
  State.vmulAdd_of hw hv h (by simp) (fun j k hok hj res hp => by
    have hs : k.sew = s.hart.sew := by unfold Hart.sew; rw [hp.vtype]
    unfold Hart.scalar
    rw [hp.getX r]
    exact heq_of_width (f := fun n => (s.hart.getX r).signExtend n) hs) hfg

end

/-- Settles O56. -/
theorem vectorMinMaxMultiply : Obligations.VectorMinMaxMultiply := by
  unfold Obligations.VectorMinMaxMultiply
  intro s vd vs2 r vm hw hv
  exact ⟨State.vvRule_of hw hv rfl minUnsigned_eq, State.vxRule_of hw hv rfl minUnsigned_eq,
    State.vvRule_of hw hv rfl minSigned_eq, State.vxRule_of hw hv rfl minSigned_eq,
    State.vvRule_of hw hv rfl maxUnsigned_eq, State.vxRule_of hw hv rfl maxUnsigned_eq,
    State.vvRule_of hw hv rfl maxSigned_eq, State.vxRule_of hw hv rfl maxSigned_eq,
    State.vvRule_of hw hv rfl mul_eq_ofInt, State.vxRule_of hw hv rfl mul_eq_ofInt,
    State.vvRule_of hw hv rfl (highProduct_eq true true), State.vxRule_of hw hv rfl (highProduct_eq true true),
    State.vvRule_of hw hv rfl highProduct_unsigned, State.vxRule_of hw hv rfl highProduct_unsigned,
    State.vvRule_of hw hv rfl (highProduct_eq true false), State.vxRule_of hw hv rfl (highProduct_eq true false),
    State.vvRule3_of hw hv rfl fun d a b => mul_add_eq_ofInt b a d,
    State.vxRule3_of hw hv rfl fun d a b => mul_add_eq_ofInt b a d,
    State.vvRule3_of hw hv rfl fun d a b => neg_mul_add_eq_ofInt b a d,
    State.vxRule3_of hw hv rfl fun d a b => neg_mul_add_eq_ofInt b a d,
    State.vvRule3_of hw hv rfl fun d a b => mul_add_eq_ofInt b d a,
    State.vxRule3_of hw hv rfl fun d a b => mul_add_eq_ofInt b d a,
    State.vvRule3_of hw hv rfl fun d a b => neg_mul_add_eq_ofInt b d a,
    State.vxRule3_of hw hv rfl fun d a b => neg_mul_add_eq_ofInt b d a⟩

/-! ## Stores (R551 to R558) -/

/-- SEW is a whole number of bytes, of doublewords above 64 bits, and below the address space. -/
theorem Hart.sew_bounds (h : Hart c) : 8 ∣ h.sew ∧ (64 < h.sew → 64 ∣ h.sew) ∧ h.sew ≤ 2 ^ c.xlen := by
  unfold Hart.sew sewOf
  have hk : (h.vtype.extractLsb' 2 3).toNat < 8 := (h.vtype.extractLsb' 2 3).isLt
  have hx : 2 ^ 32 ≤ 2 ^ c.xlen := Nat.pow_le_pow_right (by norm_num) (by rcases xlen_cases c with e | e <;> omega)
  refine ⟨Dvd.intro _ rfl, ?_, le_trans ?_ hx⟩ <;> interval_cases (h.vtype.extractLsb' 2 3).toNat <;> decide

/-- The address of a unit-stride element, as a number (R552). -/
theorem unitAddr_eq {h k : Hart c} (hx : k.x = h.x) (rs1 : BitVec 5) (w j : Nat) :
    k.unitAddr rs1 w j = BitVec.ofNat c.xlen ((h.getX rs1).toNat + j * w) := by
  unfold Hart.unitAddr
  rw [Hart.getX_congr hx, BitVec.ofNat_add, BitVec.ofNat_toNat, BitVec.setWidth_eq]

/-- The address of a strided element, as a number (R553). -/
theorem stridedAddr_eq {h k : Hart c} (hx : k.x = h.x) (rs1 rs2 : BitVec 5) (j : Nat) :
    k.stridedAddr rs1 rs2 j = BitVec.ofNat c.xlen ((h.getX rs1).toNat + j * (h.getX rs2).toNat) := by
  unfold Hart.stridedAddr
  rw [Hart.getX_congr hx, Hart.getX_congr hx, BitVec.ofNat_add, BitVec.ofNat_mul, BitVec.ofNat_toNat, BitVec.ofNat_toNat,
    BitVec.setWidth_eq, BitVec.setWidth_eq]

/-- The address of an indexed element, as a number (R554). -/
theorem indexedAddr_eq {h k : Hart c} (hx : k.x = h.x) (rs1 vs2 : BitVec 5) {j : Nat}
    (he : k.elem vs2.toNat j = h.elem vs2.toNat j) :
    k.indexedAddr rs1 vs2 j = BitVec.ofNat c.xlen ((h.getX rs1).toNat + h.elem vs2.toNat j) := by
  unfold Hart.indexedAddr
  rw [Hart.getX_congr hx, BitVec.ofNat_add, BitVec.ofNat_toNat, BitVec.setWidth_eq, ← he, setWidth_eq_ofNat]
  rfl

section
variable {s : State} {i : Instr} {vs3 rs1 rs2 : BitVec 5} {vm : BitVec 1} {w : Nat}

theorem State.vstoreUnit_of (hm : Memory.wf s.hart.mem = true)
    (hb : 8 ∣ w ∧ (64 < w → 64 ∣ w) ∧ w ≤ 2 ^ s.cfg.xlen)
    (h : exec i s = s.run (encode i) (s.hart.vstoreUnit vs3 rs1 vm w)) :
    s.VStoreRule i vs3 vm (s.hart.vstoreOk vs3 w) w fun j =>
      BitVec.ofNat s.cfg.xlen ((s.hart.getX rs1).toNat + j * (w / 8)) :=
  State.vstoreRule_of hm (addrIn := fun k j => k.unitAddr rs1 (w / 8) j) h
    (fun k j hk => unitAddr_eq (by rw [hk]) rs1 _ j) hb.1 hb.2.1 hb.2.2

theorem State.vstoreStrided_of (hm : Memory.wf s.hart.mem = true)
    (hb : 8 ∣ w ∧ (64 < w → 64 ∣ w) ∧ w ≤ 2 ^ s.cfg.xlen)
    (h : exec i s = s.run (encode i) (s.hart.vstoreStrided vs3 rs1 rs2 vm w)) :
    s.VStoreRule i vs3 vm (s.hart.vstoreOk vs3 w) w fun j =>
      BitVec.ofNat s.cfg.xlen ((s.hart.getX rs1).toNat + j * (s.hart.getX rs2).toNat) :=
  State.vstoreRule_of hm (addrIn := fun k j => k.stridedAddr rs1 rs2 j) h
    (fun k j hk => stridedAddr_eq (by rw [hk]) rs1 rs2 j) hb.1 hb.2.1 hb.2.2

theorem State.vstoreIndexed_of (hm : Memory.wf s.hart.mem = true)
    (hb : 8 ∣ w ∧ (64 < w → 64 ∣ w) ∧ w ≤ 2 ^ s.cfg.xlen)
    (h : exec i s = s.run (encode i) (s.hart.vstoreIndexed vs3 rs1 rs2 vm w)) :
    s.VStoreRule i vs3 vm (s.hart.vstoreOk vs3 w && s.hart.groupOk rs2) w fun j =>
      BitVec.ofNat s.cfg.xlen ((s.hart.getX rs1).toNat + s.hart.elem rs2.toNat j) :=
  State.vstoreRule_of hm (addrIn := fun k j => k.indexedAddr rs1 rs2 j) h
    (fun k j hk => indexedAddr_eq (by rw [hk]) rs1 rs2 (Hart.elem_congr (by rw [hk]) (by rw [hk]) _ _)) hb.1 hb.2.1 hb.2.2

end

/-- The widths 8, 16 and 32 of the sized accesses. -/
theorem width_bounds (c : Config) {w : Nat} (hw : w = 8 ∨ w = 16 ∨ w = 32) :
    8 ∣ w ∧ (64 < w → 64 ∣ w) ∧ w ≤ 2 ^ c.xlen := by
  have hx : 2 ^ 32 ≤ 2 ^ c.xlen := Nat.pow_le_pow_right (by norm_num) (by rcases xlen_cases c with e | e <;> omega)
  refine ⟨?_, fun h => ?_, ?_⟩ <;> omega

/-- Settles O54. -/
theorem vectorStores : Obligations.VectorStores := by
  unfold Obligations.VectorStores
  intro s vs3 rs1 rs2 vm hw hv hm
  have h8 := width_bounds s.cfg (w := 8) (by decide)
  have h16 := width_bounds s.cfg (w := 16) (by decide)
  have h32 := width_bounds s.cfg (w := 32) (by decide)
  have hsew := s.hart.sew_bounds
  exact ⟨State.vstoreUnit_of hm h8 rfl, State.vstoreUnit_of hm h16 rfl, State.vstoreUnit_of hm h32 rfl,
    State.vstoreUnit_of hm hsew rfl, State.vstoreStrided_of hm h8 rfl, State.vstoreStrided_of hm h16 rfl,
    State.vstoreStrided_of hm h32 rfl, State.vstoreStrided_of hm hsew rfl, State.vstoreIndexed_of hm h8 rfl,
    State.vstoreIndexed_of hm h16 rfl, State.vstoreIndexed_of hm h32 rfl, State.vstoreIndexed_of hm hsew rfl⟩

end Sys2Proof.Machine
end

section
/-! The vector loads: what reading an element gives, where the loop stands before each element, and what the
instruction leaves, whether it completes or an element raises an exception (R551 to R558). -/

namespace Sys2Proof.Machine

open Sys2Proof

variable {c : Config}

/-! ## Reading one element -/

/-- The bytes of two consecutive stretches, as one number. -/
theorem Memory.nat_add {x : Nat} (m : List Host.Cell) (a : BitVec x) (n k : Nat) :
    Memory.nat m a (n + k) = Memory.nat m a n + Memory.nat m (a + BitVec.ofNat x n) k * 256 ^ n := by
  induction k with
  | zero => simp [Memory.nat]
  | succ k ih =>
    rw [← Nat.add_assoc, Memory.nat, ih, Memory.nat, byteAddr_add, Nat.add_mul, Nat.pow_add]
    ring

/-- A stretch of memory that touches no device has no part that does. -/
theorem touchesIo_sub {a : BitVec c.xlen} {n k m : Nat} (hio : touchesIo c a n = false) (hk : k + m ≤ n) :
    touchesIo c (a + BitVec.ofNat c.xlen k) m = false :=
  touchesIo_eq_false.2 fun i hi => by
    rw [byteAddr_add]
    exact touchesIo_eq_false.1 hio _ (by omega)

theorem readPieces_frame (a : BitVec c.xlen) (w k : Nat) (h : Hart c) :
    (readPieces a w k h).2 =
      { h with ioOut := (readPieces a w k h).2.ioOut, draws := (readPieces a w k h).2.draws } := by
  induction k with
  | zero => rfl
  | succ k ih =>
    rw [readPieces, Hart.afterRead_eq, ih]

/-- The pieces read so far are the low bytes of the element. -/
theorem readPieces_toNat (h : Hart c) (a : BitVec c.xlen) {w k : Nat} (hk : 64 * k ≤ w)
    (hio : touchesIo c a (8 * k) = false) : (readPieces a w k h).1.toNat = Memory.nat h.mem a (8 * k) ∧
      Memory.nat h.mem a (8 * k) < 2 ^ (64 * k) := by
  induction k with
  | zero => simp [readPieces, Memory.nat]
  | succ k ih =>
    obtain ⟨ih, hlt⟩ := ih (by omega) (by simpa using touchesIo_sub (k := 0) (m := 8 * k) hio (by omega))
    have hmem : (readPieces a w k h).2.mem = h.mem := by rw [readPieces_frame]
    have hv := (readPieces a w k h).2.readValue_toNat (a + BitVec.ofNat c.xlen (8 * k)) (le_refl 8)
      (touchesIo_sub hio (by omega))
    rw [hmem] at hv
    have hv8 := (readPieces a w k h).2.readValue_lt (a + BitVec.ofNat c.xlen (8 * k)) (le_refl 8)
    have h256 : (256 : Nat) ^ (8 * k) = 2 ^ (64 * k) := by
      rw [show (256 : Nat) = 2 ^ 8 by norm_num, ← pow_mul]; congr 1; ring
    rw [hv] at hv8
    have hsplit : Memory.nat h.mem a (8 * (k + 1)) =
        2 ^ (64 * k) * Memory.nat h.mem (a + BitVec.ofNat c.xlen (8 * k)) 8 + Memory.nat h.mem a (8 * k) := by
      rw [Nat.mul_succ, Memory.nat_add, h256]; ring
    have hbound : Memory.nat h.mem a (8 * (k + 1)) < 2 ^ (64 * (k + 1)) := by
      rw [hsplit, Nat.mul_succ, pow_add]
      norm_num at hv8
      nlinarith [Nat.two_pow_pos (64 * k)]
    refine ⟨?_, hbound⟩
    have hshift : (((readPieces a w k h).2.readValue (a + BitVec.ofNat c.xlen (8 * k)) 8).setWidth w <<< (64 * k)).toNat =
        2 ^ (64 * k) * Memory.nat h.mem (a + BitVec.ofNat c.xlen (8 * k)) 8 := by
      rw [BitVec.toNat_shiftLeft, BitVec.toNat_setWidth, hv, Nat.shiftLeft_eq, mul_comm]
      have hw : 2 ^ (64 * (k + 1)) ≤ 2 ^ w := Nat.pow_le_pow_right (by norm_num) hk
      have h1 : Memory.nat h.mem (a + BitVec.ofNat c.xlen (8 * k)) 8 < 2 ^ w :=
        hv8.trans_le ((by norm_num : (256 : Nat) ^ 8 = 2 ^ 64).le.trans (Nat.pow_le_pow_right (by norm_num) (by omega)))
      rw [Nat.mod_eq_of_lt h1, Nat.mod_eq_of_lt]
      omega
    rw [readPieces, BitVec.toNat_or, hshift, ih, hsplit, Nat.or_comm, Nat.two_pow_add_eq_or_of_lt hlt]

theorem Hart.readElem_frame (h : Hart c) (a : BitVec c.xlen) (w : Nat) :
    (h.readElem a w).2 = { h with ioOut := (h.readElem a w).2.ioOut, draws := (h.readElem a w).2.draws } := by
  unfold Hart.readElem
  split
  · exact h.afterRead_eq a _
  · exact readPieces_frame a w _ h

/-- An element of w bits read from main memory is its bytes, little-endian (R101, R108). -/
theorem Hart.readElem_toNat (h : Hart c) (a : BitVec c.xlen) {w : Nat} (h8 : 8 ∣ w) (h64 : 64 < w → 64 ∣ w)
    (hio : touchesIo c a (w / 8) = false) : (h.readElem a w).1.toNat = Memory.nat h.mem a (w / 8) := by
  unfold Hart.readElem
  split
  · have hlt := h.readValue_lt a (n := w / 8) (by omega)
    rw [show (256 : Nat) = 2 ^ 8 by norm_num, ← pow_mul, Nat.mul_div_cancel' h8] at hlt
    rw [BitVec.toNat_setWidth, Nat.mod_eq_of_lt hlt, h.readValue_toNat a (by omega) hio]
  · have hd := h64 (by omega)
    rw [show w / 8 = 8 * (w / 64) by omega] at hio ⊢
    exact (readPieces_toNat h a (by omega) hio).1

/-! ## The element loop -/

/-- The loop over the elements of a group at vd ends at the first body element that raises an exception, with that
element's index in vstart. -/
theorem Hart.elements_trap_of {h : Hart c} {vd : BitVec 5} {vm : BitVec 1} (hm : maskOk vd vm = true) {body : Nat → Hart c → Res c} {res : Nat → Nat → Prop}
    {last : Nat} {e : Exc} {tval : BitVec c.xlen} (hlast : h.inBody vm last)
    (hb : ∀ j k, h.inBody vm j → j < last → h.Upto vd vm res j k →
      ∃ k', body j k = .next k' ∧ h.Upto vd vm res (j + 1) k')
    (htrap : ∀ k, h.Upto vd vm res last k → body last k = .trap k e tval) :
    ∃ k, h.elements vm body = .trap { k with vstart := BitVec.ofNat c.xlen last } e tval ∧ h.Upto vd vm res last k := by
  have hlo := hlast.1
  have hhi := hlast.2.1
  refine vloop_trap (h.upto_start vd vm res) hlo (by omega) (fun i k hi hlt hp => ?_) fun k hp => ?_
  · by_cases hbody : h.inBody vm i
    · rw [hp.active hm i, if_pos hbody.2.2]
      exact hb i k hbody hlt hp
    · have hact : h.active vm i = false := by
        by_contra hc
        exact hbody ⟨hi, by omega, by simpa using hc⟩
      rw [hp.active hm i, hact, if_neg Bool.false_ne_true]
      exact ⟨k, rfl, hp.skip hbody⟩
  · rw [hp.active hm last, if_pos hlast.2.2]
    exact htrap k hp

/-! ## The instruction -/

/-- One element of a vector load: allowed, it becomes what memory holds. -/
theorem Hart.Upto.load {h k : Hart c} {vd : BitVec 5} {vm : BitVec 1} {w : Nat} {signed : Bool}
    {addr : Nat → BitVec c.xlen} {j : Nat} (hw : c.wf = true) (hv : h.vectorOk) (hill : h.vill = false)
    (ha : vd.toNat % h.lmul = 0) (hle : w ≤ h.sew) (h8 : 8 ∣ w) (h64 : 64 < w → 64 ∣ w)
    (hp : h.Upto vd vm (fun i => h.LoadsElem (addr i) w signed) j k) (hbody : h.inBody vm j) (hj : j < h.vlmax)
    (hok : AccessOk c .load (addr j) (w / 8)) :
    ∃ k', k.loadElem vd j (addr j) w signed = .next k' ∧
      h.Upto vd vm (fun i => h.LoadsElem (addr i) w signed) (j + 1) k' := by
  have hs : k.sew = h.sew := by unfold Hart.sew; rw [hp.vtype]
  have hmem : k.mem = h.mem := by rw [hp.frame]
  unfold Hart.loadElem
  rw [accessCheck_eq_none.2 hok]
  refine ⟨_, rfl, Hart.Upto.write hw hv hill hp ha hj hbody (w := k.sew)
    (e := if signed then (k.readElem (addr j) w).1.signExtend k.sew else (k.readElem (addr j) w).1.setWidth k.sew)
    (fun hio => ?_) ?_ ?_⟩
  · have hval := k.readElem_toNat (addr j) h8 h64 hio
    rw [hmem] at hval
    rw [← hs, BitVec.setWidth_eq]
    cases signed
    · rw [if_neg Bool.false_ne_true, if_neg Bool.false_ne_true, ← hval, BitVec.toNat_setWidth, Nat.mod_eq_of_lt]
      exact (BitVec.isLt _).trans_le (Nat.pow_le_pow_right (by norm_num) (hs ▸ hle))
    · rw [if_pos rfl, if_pos rfl, ← hval, BitVec.ofNat_toNat, BitVec.setWidth_eq]
  · rw [Hart.readElem_frame]
    rfl
  · rw [Hart.setVelem_eq, Hart.readElem_frame, hp.frame]

/-- What a vector load leaves, from its call of the element loop. The address of an element is computed in the hart the
loop has reached. -/
theorem State.vloadRule_of {s : State} (hw : s.cfg.wf = true) (hv : s.hart.vectorOk) {i : Instr} {vd : BitVec 5}
    {vm : BitVec 1} {legal : Bool} {w : Nat} {signed : Bool} {addr : Nat → BitVec s.cfg.xlen}
    {addrIn : Nat → Hart s.cfg → BitVec s.cfg.xlen}
    (h : exec i s = s.run (encode i)
      (if legal then s.hart.elements vm fun j k => k.loadElem vd j (addrIn j k) w signed else .illegal))
    (hlegal : legal = true → s.hart.vloadOk vd vm w = true)
    (haddr : ∀ j k, legal = true → j < s.hart.vlmax → ∀ res, s.hart.Upto vd vm res j k → addrIn j k = addr j)
    (h8 : 8 ∣ w) (h64 : 64 < w → 64 ∣ w) : s.VLoadRule i vd vm legal w signed addr := by
  refine ⟨fun hl => ?_, fun hl hok => ?_, fun hl j e hb hok he => ?_⟩
  · rw [hl] at h
    exact State.raisesIllegal_of h
  all_goals
    have hlegal := hlegal hl
    unfold Hart.vloadOk at hlegal
    simp only [Bool.and_eq_true, Bool.not_eq_true', decide_eq_true_eq] at hlegal
    obtain ⟨⟨⟨hill, hle⟩, hg⟩, hm⟩ := hlegal
    have ha : vd.toNat % s.hart.lmul = 0 := by simpa [Hart.groupOk] using hg
    obtain ⟨-, -, -, -, -, -, -, hvl⟩ := Hart.layout hw hv hill
    rw [hl, if_pos rfl] at h
  · obtain ⟨k, hk, hp, -⟩ := Hart.elements_of hw hv hill hm (P := fun _ => True)
      (res := fun i => s.hart.LoadsElem (addr i) w signed)
      (body := fun j k => k.loadElem vd j (addrIn j k) w signed) trivial (fun j k hb hj hp _ => by
        rw [haddr j k hl hj _ hp]
        obtain ⟨k', hk', hp'⟩ := hp.load hw hv hill ha hle h8 h64 hb hj (hok j hb)
        exact ⟨k', hk', hp', trivial⟩)
    rw [hk] at h
    refine ⟨_, h.trans (s.run_next _ _), fun j hj => ⟨fun hb => ?_, fun hb => ?_⟩, hp.others, rfl, ⟨?_, ?_⟩, ?_⟩
    · exact (Hart.elem_congr (h := k) rfl rfl _ _) ▸ (hp.elems j hj).1 hb hb.2.1
    · exact (Hart.elem_congr (h := k) rfl rfl _ _).trans ((hp.elems j hj).2 fun hh => hb hh.1)
    · rw [Hart.finish_next, hp.frame]
      rfl
    · rw [Hart.finish_next, hp.frame]
    · rw [Hart.finish_next, hp.frame]
  · have hjlt : j < s.hart.vlmax := hb.2.1.trans_le hvl
    obtain ⟨k, hk, hp⟩ := Hart.elements_trap_of hm
      (res := fun i => s.hart.LoadsElem (addr i) w signed)
      (body := fun j k => k.loadElem vd j (addrIn j k) w signed) (e := e) (tval := addr j) hb
      (fun i k hbi hlt hp => by
        rw [haddr i k hl (hlt.trans hjlt) _ hp]
        exact hp.load hw hv hill ha hle h8 h64 hbi (hlt.trans hjlt) (hok i hlt hbi))
      (fun k hp => by
        rw [haddr j k hl hjlt _ hp, Hart.loadElem, he])
    rw [hk] at h
    refine ⟨_, h.trans (s.run_next _ _), ?_, fun n hn => ⟨fun hbn hlt => ?_, fun hbn => ?_⟩, hp.others, ?_⟩
    · have h1 := hb.2.1
      have h2 := s.hart.vl.isLt
      exact (BitVec.toNat_ofNat ..).trans (Nat.mod_eq_of_lt (by omega))
    · exact (Hart.elem_congr (h := k) rfl rfl _ _) ▸ (hp.elems n hn).1 hbn hlt
    · exact (Hart.elem_congr (h := k) rfl rfl _ _).trans ((hp.elems n hn).2 hbn)
    · rw [hp.frame]

section
variable {s : State} {i : Instr} {vd rs1 rs2 : BitVec 5} {vm : BitVec 1} {w : Nat} {signed : Bool}

theorem Hart.Upto.x {h k : Hart c} {vd vm res j} (hp : h.Upto vd vm res j k) : k.x = h.x := by rw [hp.frame]

theorem State.vloadUnit_of (hw : s.cfg.wf = true) (hv : s.hart.vectorOk) (h8 : 8 ∣ w) (h64 : 64 < w → 64 ∣ w)
    (h : exec i s = s.run (encode i) (s.hart.vloadUnit vd rs1 vm w signed)) :
    s.VLoadRule i vd vm (s.hart.vloadOk vd vm w) w signed fun j =>
      BitVec.ofNat s.cfg.xlen ((s.hart.getX rs1).toNat + j * (w / 8)) :=
  State.vloadRule_of hw hv (addrIn := fun j k => k.unitAddr rs1 (w / 8) j) h id
    (fun j _ _ _ _ hp => unitAddr_eq hp.x rs1 _ j) h8 h64

theorem State.vloadStrided_of (hw : s.cfg.wf = true) (hv : s.hart.vectorOk) (h8 : 8 ∣ w) (h64 : 64 < w → 64 ∣ w)
    (h : exec i s = s.run (encode i) (s.hart.vloadStrided vd rs1 rs2 vm w signed)) :
    s.VLoadRule i vd vm (s.hart.vloadOk vd vm w) w signed fun j =>
      BitVec.ofNat s.cfg.xlen ((s.hart.getX rs1).toNat + j * (s.hart.getX rs2).toNat) :=
  State.vloadRule_of hw hv (addrIn := fun j k => k.stridedAddr rs1 rs2 j) h id
    (fun j _ _ _ _ hp => stridedAddr_eq hp.x rs1 rs2 j) h8 h64

/-- The index element is read when the loop reaches it, before it can be overwritten. -/
theorem State.vloadIndexed_of (hw : s.cfg.wf = true) (hv : s.hart.vectorOk) (h8 : 8 ∣ w) (h64 : 64 < w → 64 ∣ w)
    (h : exec i s = s.run (encode i) (s.hart.vloadIndexed vd rs1 rs2 vm w signed)) :
    s.VLoadRule i vd vm (s.hart.vloadOk vd vm w && s.hart.groupOk rs2) w signed fun j =>
      BitVec.ofNat s.cfg.xlen ((s.hart.getX rs1).toNat + s.hart.elem rs2.toNat j) :=
  State.vloadRule_of hw hv (addrIn := fun j k => k.indexedAddr rs1 rs2 j) h (fun hl => (Bool.and_eq_true_iff.1 hl).1)
    (fun j k hl hj _ hp => by
      obtain ⟨hok, hg2⟩ := Bool.and_eq_true_iff.1 hl
      unfold Hart.vloadOk at hok
      simp only [Bool.and_eq_true] at hok
      obtain ⟨⟨-, hg⟩, -⟩ := hok
      exact indexedAddr_eq hp.x rs1 rs2 (hp.elem_source (by simpa [Hart.groupOk] using hg)
        (by simpa [Hart.groupOk] using hg2) rs2.isLt hj)) h8 h64

end

/-- Settles O53. -/
theorem vectorLoads : Obligations.VectorLoads := by
  unfold Obligations.VectorLoads
  intro s vd rs1 rs2 vm hw hv
  obtain ⟨a8, b8, -⟩ := width_bounds s.cfg (w := 8) (by decide)
  obtain ⟨a16, b16, -⟩ := width_bounds s.cfg (w := 16) (by decide)
  obtain ⟨a32, b32, -⟩ := width_bounds s.cfg (w := 32) (by decide)
  obtain ⟨asew, bsew, -⟩ := s.hart.sew_bounds
  exact ⟨State.vloadUnit_of hw hv a8 b8 rfl, State.vloadUnit_of hw hv a16 b16 rfl, State.vloadUnit_of hw hv a32 b32 rfl,
    State.vloadUnit_of hw hv a8 b8 rfl, State.vloadUnit_of hw hv a16 b16 rfl, State.vloadUnit_of hw hv a32 b32 rfl,
    State.vloadUnit_of hw hv asew bsew rfl,
    State.vloadStrided_of hw hv a8 b8 rfl, State.vloadStrided_of hw hv a16 b16 rfl,
    State.vloadStrided_of hw hv a32 b32 rfl, State.vloadStrided_of hw hv a8 b8 rfl,
    State.vloadStrided_of hw hv a16 b16 rfl, State.vloadStrided_of hw hv a32 b32 rfl,
    State.vloadStrided_of hw hv asew bsew rfl,
    State.vloadIndexed_of hw hv a8 b8 rfl, State.vloadIndexed_of hw hv a16 b16 rfl,
    State.vloadIndexed_of hw hv a32 b32 rfl, State.vloadIndexed_of hw hv a8 b8 rfl,
    State.vloadIndexed_of hw hv a16 b16 rfl, State.vloadIndexed_of hw hv a32 b32 rfl,
    State.vloadIndexed_of hw hv asew bsew rfl⟩

end Sys2Proof.Machine
end

section
/-! The vector comparisons: a mask element lies where the loop reads no more, so that vd may be v0 under a mask, and with
LMUL = 1 a source (R88 to R92, R603, R639, R640). -/

namespace Sys2Proof.Machine

open Sys2Proof

variable {c : Config}

/-! ## Where mask elements lie (R88, R89) -/

/-- LMUL divides SEW, so the VLMAX mask elements fill a register. -/
theorem Hart.mlen_mul_lmul (h : Hart c) : h.mlen * h.lmul = h.sew := by
  have h8 : 8 ∣ h.sew := h.sew_bounds.1
  unfold Hart.mlen
  refine Nat.div_mul_cancel (Dvd.dvd.trans ?_ h8)
  rcases h.lmul_cases with e | e | e | e <;> rw [e] <;> decide

theorem Hart.mlen_pos (h : Hart c) : 0 < h.mlen := by
  have h8 := h.eight_le_sew
  have hm := h.mlen_mul_lmul
  exact Nat.pos_of_ne_zero fun h0 => by rw [h0, Nat.zero_mul] at hm; omega

/-- A mask element lies within its register. -/
theorem Hart.maskElem_le {h : Hart c} (hw : c.wf = true) (hv : h.vectorOk) (hill : h.vill = false) {j : Nat}
    (hj : j < h.vlmax) : h.mlen * j + h.mlen ≤ c.vlen := by
  obtain ⟨E, q, -, -, hs, hq, hm, -⟩ := Hart.layout hw hv hill
  calc h.mlen * j + h.mlen = h.mlen * (j + 1) := by ring
    _ ≤ h.mlen * h.vlmax := Nat.mul_le_mul_left _ hj
    _ = h.mlen * h.lmul * (q * E) := by rw [hm]; ring
    _ = c.vlen := by rw [h.mlen_mul_lmul, hq, hs]; ring

theorem mask_disjoint {m j k : Nat} (hjk : j ≠ k) : m * j + m ≤ m * k ∨ m * k + m ≤ m * j := by
  rcases Nat.lt_or_gt_of_ne hjk with h | h
  · exact .inl (by rw [← Nat.mul_succ]; exact Nat.mul_le_mul_left _ h)
  · exact .inr (by rw [← Nat.mul_succ]; exact Nat.mul_le_mul_left _ h)

theorem Hart.maskElem_congr {h t : Hart c} (hv : t.v = h.v) (ht : t.vtype = h.vtype) (n j : Nat) :
    t.maskElem n j = h.maskElem n j := by
  unfold Hart.maskElem Hart.getV Hart.mlen Hart.sew Hart.lmul
  rw [hv, ht]

theorem Hart.vmaskset_eq (h : Hart c) (d j : Nat) (b : Bool) :
    h.vmaskset d j b = { h with v := (h.vmaskset d j b).v } := rfl

/-- Reading back the mask element written (R89, R90). -/
theorem Hart.maskElem_vmaskset_same {h : Hart c} (hw : c.wf = true) (hv : h.vectorOk) (hill : h.vill = false) {d j : Nat}
    (hd : d < 32) (hj : j < h.vlmax) (b : Bool) : (h.vmaskset d j b).maskElem d j = if b then 1 else 0 := by
  unfold Hart.vmaskset Hart.maskElem
  change (((h.setV d _).getV d).extractLsb' (h.mlen * j) h.mlen).toNat = _
  rw [Hart.getV_setV_same _ hd, extractLsb'_setField_same _ _ _ (Hart.maskElem_le hw hv hill hj)]
  cases b
  · rfl
  · exact (BitVec.toNat_twoPow _ _).trans (Nat.mod_eq_of_lt (Nat.one_lt_two_pow h.mlen_pos.ne'))

/-- Writing a mask element leaves the others. -/
theorem Hart.maskElem_vmaskset_of_ne (h : Hart c) {d j k : Nat} (hd : d < 32) (hjk : j ≠ k) (b : Bool) :
    (h.vmaskset d j b).maskElem d k = h.maskElem d k := by
  unfold Hart.vmaskset Hart.maskElem
  change (((h.setV d _).getV d).extractLsb' (h.mlen * k) h.mlen).toNat = _
  rw [Hart.getV_setV_same _ hd, extractLsb'_setField_of_disjoint]
  exact (mask_disjoint hjk).symm

/-- The mask bit is the low bit of its mask element (R90). -/
theorem Hart.vmaskbit_eq (h : Hart c) (j : Nat) : h.vmaskbit j = (h.maskElem 0 j).testBit 0 := by
  have hbit := BitVec.getLsbD_extractLsb' (x := h.getV 0) (start := h.mlen * j) (len := h.mlen) (i := 0)
  rw [decide_eq_true h.mlen_pos, Bool.true_and, Nat.add_zero] at hbit
  exact hbit.symm

/-- With LMUL = 1 a mask element is an element. -/
theorem Hart.elem_eq_maskElem {h : Hart c} (hw : c.wf = true) (hv : h.vectorOk) (hill : h.vill = false)
    (hl : h.lmul = 1) (n j : Nat) : h.elem n j = h.maskElem n j := by
  obtain ⟨E, q, -, -, hs, -, -, -⟩ := Hart.layout hw hv hill
  have hE : c.slen / h.sew = E := by rw [hs, Nat.mul_div_cancel _ (by have := h.eight_le_sew; omega)]
  have hreg : elemReg c h.sew h.lmul n j = n := by unfold elemReg; rw [hl, Nat.mod_one, Nat.add_zero]
  have hmlen : h.mlen = h.sew := by unfold Hart.mlen; rw [hl, Nat.div_one]
  have hbit : elemBit c h.sew h.lmul j = h.sew * j := by
    unfold elemBit
    rw [hl, Nat.div_one, hE, hs]
    calc j / E * (E * h.sew) + j % E * h.sew = h.sew * (E * (j / E) + j % E) := by ring
      _ = h.sew * j := by rw [Nat.div_add_mod]
  unfold Hart.elem Hart.velem Hart.maskElem
  rw [hreg, hbit, hmlen]

/-! ## The loop of a comparison -/

/-- Where the loop of a comparison stands before element j: the mask elements below j of the active body elements are
set, every other mask element and register is as in h, and so is everything else. -/
structure Hart.MaskUpto (h : Hart c) (vd : BitVec 5) (vm : BitVec 1) (res : Nat → Bool) (j : Nat) (k : Hart c) :
    Prop where
  frame : k = { h with v := k.v }
  elems : ∀ i < h.vlmax, (h.inBody vm i → i < j → k.maskElem vd.toNat i = if res i then 1 else 0) ∧
    (¬(h.inBody vm i ∧ i < j) → k.maskElem vd.toNat i = h.maskElem vd.toNat i)
  others : ∀ n < 32, n ≠ vd.toNat → k.getV n = h.getV n

section
variable {h k : Hart c} {vd : BitVec 5} {vm : BitVec 1} {res : Nat → Bool} {j : Nat}

theorem Hart.MaskUpto.vtype (hp : h.MaskUpto vd vm res j k) : k.vtype = h.vtype := by rw [hp.frame]

theorem Hart.MaskUpto.lmul (hp : h.MaskUpto vd vm res j k) : k.lmul = h.lmul := by unfold Hart.lmul; rw [hp.vtype]

theorem Hart.MaskUpto.sew (hp : h.MaskUpto vd vm res j k) : k.sew = h.sew := by unfold Hart.sew; rw [hp.vtype]

theorem Hart.MaskUpto.mlen (hp : h.MaskUpto vd vm res j k) : k.mlen = h.mlen := by
  unfold Hart.mlen; rw [hp.sew, hp.lmul]

/-- The mask of element j is read before element j is written, in v0 too. -/
theorem Hart.MaskUpto.active (hp : h.MaskUpto vd vm res j k) (hj : j < h.vlmax) : k.active vm j = h.active vm j := by
  unfold Hart.active
  by_cases hvd : vd.toNat = 0
  · have he : k.maskElem 0 j = h.maskElem 0 j := hvd ▸ (hp.elems j hj).2 fun hn => lt_irrefl _ hn.2
    rw [Hart.vmaskbit_eq, he, ← Hart.vmaskbit_eq]
  · rw [Hart.vmaskbit_congr (hp.others 0 (by norm_num) (Ne.symm hvd)) hp.vtype]

/-- An element of a source is read when the loop reaches it, before the mask element that may lie there is written. -/
theorem Hart.MaskUpto.elem_source (hw : c.wf = true) (hv : h.vectorOk) (hill : h.vill = false)
    (hp : h.MaskUpto vd vm res j k) {m : BitVec 5} (ha : m.toNat % h.lmul = 0)
    (hin : h.lmul = 1 ∨ h.inGroup m vd = false) (hj : j < h.vlmax) : k.elem m.toNat j = h.elem m.toNat j := by
  by_cases hreg : elemReg c h.sew h.lmul m.toNat j = vd.toNat
  · have hl : h.lmul = 1 := hin.resolve_right fun hno => by
      have hmod := Nat.mod_lt (j / (c.slen / h.sew)) h.lmul_pos
      unfold elemReg at hreg
      unfold Hart.inGroup at hno
      simp only [Bool.and_eq_false_iff, decide_eq_false_iff_not] at hno
      omega
    have hm : m.toNat = vd.toNat := by
      unfold elemReg at hreg
      rwa [hl, Nat.mod_one, Nat.add_zero] at hreg
    have hkv : k.vectorOk := (Hart.vectorOk_congr hp.vtype (by rw [hp.frame]) (by rw [hp.frame])).2 hv
    have hki : k.vill = false := by unfold Hart.vill at hill ⊢; rwa [hp.vtype]
    rw [hm, Hart.elem_eq_maskElem hw hkv hki (hp.lmul.trans hl), Hart.elem_eq_maskElem hw hv hill hl]
    exact (hp.elems j hj).2 fun hn => lt_irrefl _ hn.2
  · have hlt : elemReg c h.sew h.lmul m.toNat j < 32 :=
      group_lt h.lmul_cases m.isLt ha (Nat.mod_lt _ h.lmul_pos)
    unfold Hart.elem Hart.velem
    rw [hp.sew, hp.lmul, hp.others _ hlt hreg]

/-- The bits of such an element. -/
theorem Hart.MaskUpto.velem_source (hw : c.wf = true) (hv : h.vectorOk) (hill : h.vill = false)
    (hp : h.MaskUpto vd vm res j k) {m : BitVec 5} (ha : m.toNat % h.lmul = 0)
    (hin : h.lmul = 1 ∨ h.inGroup m vd = false) (hj : j < h.vlmax) : HEq (k.velem m.toNat j) (h.velem m.toNat j) := by
  have key : ∀ {a b : Nat} (_ : a = b) (x : BitVec a) (y : BitVec b), x.toNat = y.toNat → HEq x y := by
    intro a b e x y hxy
    subst e
    exact heq_of_eq (BitVec.eq_of_toNat_eq hxy)
  exact key hp.sew _ _ (hp.elem_source hw hv hill ha hin hj)

theorem Hart.maskUpto_start (h : Hart c) (vd : BitVec 5) (vm : BitVec 1) (res : Nat → Bool) :
    h.MaskUpto vd vm res h.vstart.toNat h :=
  ⟨rfl, fun _ _ => ⟨fun hb hl => absurd hb.1 (by omega), fun _ => rfl⟩, fun _ _ _ => rfl⟩

theorem Hart.MaskUpto.skip (hp : h.MaskUpto vd vm res j k) (hj : ¬h.inBody vm j) : h.MaskUpto vd vm res (j + 1) k := by
  refine ⟨hp.frame, fun i hi => ⟨fun hb hl => (hp.elems i hi).1 hb ?_, fun hn => (hp.elems i hi).2 ?_⟩, hp.others⟩
  · rcases Nat.lt_succ_iff_lt_or_eq.1 hl with h1 | h1
    · exact h1
    · exact absurd (h1 ▸ hb) hj
  · exact fun hb => hn ⟨hb.1, by omega⟩

/-- A mask element written: the loop goes on. -/
theorem Hart.MaskUpto.write (hw : c.wf = true) (hv : h.vectorOk) (hill : h.vill = false)
    (hp : h.MaskUpto vd vm res j k) (hj : j < h.vlmax) (hbody : h.inBody vm j) :
    h.MaskUpto vd vm res (j + 1) (k.vmaskset vd.toNat j (res j)) := by
  have hkv : k.vectorOk := (Hart.vectorOk_congr hp.vtype (by rw [hp.frame]) (by rw [hp.frame])).2 hv
  have hki : k.vill = false := by unfold Hart.vill at hill ⊢; rwa [hp.vtype]
  have hvl : k.vlmax = h.vlmax := by unfold Hart.vlmax; rw [hp.vtype]
  refine ⟨?_, fun i hi => ?_, fun n hn hne => ?_⟩
  · rw [Hart.vmaskset_eq, hp.frame]
  · by_cases hij : i = j
    · subst hij
      rw [Hart.maskElem_vmaskset_same hw hkv hki vd.isLt (hvl.symm ▸ hj)]
      exact ⟨fun _ _ => rfl, fun hn => absurd ⟨hbody, Nat.lt_succ_self _⟩ hn⟩
    · rw [Hart.maskElem_vmaskset_of_ne k vd.isLt (Ne.symm hij)]
      exact ⟨fun hb hlt => (hp.elems i hi).1 hb (by omega), fun hn => (hp.elems i hi).2 fun hb => hn ⟨hb.1, by omega⟩⟩
  · rw [Hart.vmaskset, Hart.getV_setV_of_ne _ hne]
    exact hp.others n hn hne

end

/-! ## The instruction -/

/-- What the legality of a comparison says. -/
theorem Hart.vcompareOk.parts {h : Hart c} {vd : BitVec 5} {src : List (BitVec 5)} (hok : h.vcompareOk vd src = true) :
    h.vill = false ∧ ∀ r ∈ src, r.toNat % h.lmul = 0 ∧ (h.lmul = 1 ∨ h.inGroup r vd = false) := by
  unfold Hart.vcompareOk at hok
  simp only [Bool.and_eq_true, Bool.not_eq_true', List.all_eq_true, Bool.or_eq_true, beq_iff_eq] at hok
  obtain ⟨⟨hill, hall⟩, hin⟩ := hok
  exact ⟨hill, fun r hr => ⟨by simpa [Hart.groupOk] using hall r hr, hin.imp_right fun hno => hno r hr⟩⟩

/-- A comparison sets the mask elements of its active body elements to `res`, or is illegal. -/
theorem State.vcompare_of {s : State} (hw : s.cfg.wf = true) (hv : s.hart.vectorOk) {i : Instr} {vd vs2 : BitVec 5}
    {vm : BitVec 1} {src : List (BitVec 5)} {cmp : ElemCmp} {op1 : (h : Hart s.cfg) → Nat → BitVec h.sew}
    {res : Nat → Bool} {p : Nat → Prop}
    (h : exec i s = s.run (encode i) (s.hart.vcompare vd vs2 vm src cmp op1))
    (hres : ∀ j k, s.hart.vcompareOk vd src = true → j < s.hart.vlmax → s.hart.MaskUpto vd vm res j k →
      cmp (k.velem vs2.toNat j) (op1 k j) = res j)
    (hp : ∀ j, res j = true ↔ p j) : s.VMaskRule i vd vm src p := by
  refine ⟨fun hok => ?_, fun hok => ?_⟩
  · obtain ⟨hill, -⟩ := Hart.vcompareOk.parts hok
    obtain ⟨-, -, -, -, -, -, -, hvl⟩ := Hart.layout hw hv hill
    rw [Hart.vcompare, if_pos hok] at h
    obtain ⟨k, hk, hup⟩ := vloop_next (P := s.hart.MaskUpto vd vm res)
      (body := fun j h' => if h'.active vm j then
        .next (h'.vmaskset vd.toNat j (cmp (h'.velem vs2.toNat j) (op1 h' j))) else .next h')
      (count := s.hart.vl.toNat - s.hart.vstart.toNat) (s.hart.maskUpto_start vd vm res) (fun j k hlo hhi hup => by
        have hj : j < s.hart.vlmax := by omega
        rw [hup.active hj]
        by_cases hb : s.hart.inBody vm j
        · rw [if_pos hb.2.2, hres j k hok hj hup]
          exact ⟨_, rfl, hup.write hw hv hill hj hb⟩
        · rw [if_neg fun hact => hb ((Hart.inBody_iff hlo hhi).2 hact)]
          exact ⟨k, rfl, hup.skip hb⟩)
    unfold Hart.elements at h
    rw [hk] at h
    refine ⟨_, h.trans (s.run_next _ _), fun j hj => ⟨fun hb => ?_, fun hb => ?_⟩, hup.others, rfl, ⟨?_, ?_⟩, ?_⟩
    · have hlt : j < s.hart.vstart.toNat + (s.hart.vl.toNat - s.hart.vstart.toNat) := by
        have h1 := hb.1; have h2 := hb.2.1; omega
      have he := (Hart.maskElem_congr (h := k) rfl rfl vd.toNat j).trans ((hup.elems j hj).1 hb hlt)
      exact ⟨fun hpj => he.trans (if_pos ((hp j).2 hpj)), fun hpj => he.trans (if_neg fun hr => hpj ((hp j).1 hr))⟩
    · exact (Hart.maskElem_congr (h := k) rfl rfl vd.toNat j).trans ((hup.elems j hj).2 fun hn => hb hn.1)
    · rw [Hart.finish_next, hup.frame]
      rfl
    · rw [Hart.finish_next, hup.frame]
    · rw [Hart.finish_next, hup.frame]
  · rw [Hart.vcompare, if_neg (by simp [hok])] at h
    exact State.raisesIllegal_of h

/-- A comparison of equal operands at equal widths gives one answer. -/
theorem ElemCmp.congr (f : ElemCmp) {a b : Nat} (e : a = b) {x x' : BitVec a} {y y' : BitVec b} (h1 : HEq x y)
    (h2 : HEq x' y') : f x x' = f y y' := by
  subst e
  rw [eq_of_heq h1, eq_of_heq h2]

section
variable {s : State} {i : Instr} {vd vs2 r : BitVec 5} {vm : BitVec 1} {f : ElemCmp}
  {p : {n : Nat} → BitVec n → BitVec n → Prop}

theorem State.vvCmp_of (hw : s.cfg.wf = true) (hv : s.hart.vectorOk)
    (h : exec i s = s.run (encode i) (s.hart.vvCmp vd vs2 r vm f)) (hf : ∀ {n} (a b : BitVec n), f a b = true ↔ p a b) :
    s.VMaskRule i vd vm [vs2, r] fun j => p (s.hart.velem vs2.toNat j) (s.hart.velem r.toNat j) :=
  State.vcompare_of hw hv (res := fun j => f (s.hart.velem vs2.toNat j) (s.hart.velem r.toNat j)) h
    (fun j k hok hj hup => by
      obtain ⟨hill, hsrc⟩ := Hart.vcompareOk.parts hok
      obtain ⟨ha2, hin2⟩ := hsrc vs2 (by simp)
      obtain ⟨ha1, hin1⟩ := hsrc r (by simp)
      exact ElemCmp.congr f hup.sew (hup.velem_source hw hv hill ha2 hin2 hj) (hup.velem_source hw hv hill ha1 hin1 hj))
    fun j => hf _ _

/-- The forms whose second operand is the same for every element. -/
theorem State.vconstCmp_of (hw : s.cfg.wf = true) (hv : s.hart.vectorOk) {op1 : (h : Hart s.cfg) → Nat → BitVec h.sew}
    {b : BitVec s.hart.sew} (h : exec i s = s.run (encode i) (s.hart.vcompare vd vs2 vm [vs2] f op1))
    (hop : ∀ (k : Hart s.cfg) (j : Nat), k.x = s.hart.x → k.sew = s.hart.sew → HEq (op1 k j) b)
    (hf : ∀ {n} (a b : BitVec n), f a b = true ↔ p a b) :
    s.VMaskRule i vd vm [vs2] fun j => p (s.hart.velem vs2.toNat j) b :=
  State.vcompare_of hw hv (res := fun j => f (s.hart.velem vs2.toNat j) b) h
    (fun j k hok hj hup => by
      obtain ⟨hill, hsrc⟩ := Hart.vcompareOk.parts hok
      obtain ⟨ha2, hin2⟩ := hsrc vs2 (by simp)
      exact ElemCmp.congr f hup.sew (hup.velem_source hw hv hill ha2 hin2 hj) (hop k j (by rw [hup.frame]) hup.sew))
    fun j => hf _ _

theorem State.vxCmp_of (hw : s.cfg.wf = true) (hv : s.hart.vectorOk)
    (h : exec i s = s.run (encode i) (s.hart.vxCmp vd vs2 r vm f)) (hf : ∀ {n} (a b : BitVec n), f a b = true ↔ p a b) :
    s.VMaskRule i vd vm [vs2] fun j => p (s.hart.velem vs2.toNat j) ((s.hart.getX r).signExtend s.hart.sew) :=
  State.vconstCmp_of hw hv h (fun k _ hx hs => by
    unfold Hart.scalar
    rw [Hart.getX_congr hx r]
    exact heq_of_width (f := fun n => (s.hart.getX r).signExtend n) hs) hf

theorem State.viCmp_of (hw : s.cfg.wf = true) (hv : s.hart.vectorOk)
    (h : exec i s = s.run (encode i) (s.hart.viCmp vd vs2 r vm f)) (hf : ∀ {n} (a b : BitVec n), f a b = true ↔ p a b) :
    s.VMaskRule i vd vm [vs2] fun j => p (s.hart.velem vs2.toNat j) (r.signExtend s.hart.sew) :=
  State.vconstCmp_of hw hv h (fun _ _ _ hs => heq_of_width (f := fun n => r.signExtend n) hs) hf

theorem State.vuCmp_of (hw : s.cfg.wf = true) (hv : s.hart.vectorOk)
    (h : exec i s = s.run (encode i) (s.hart.vuCmp vd vs2 r vm f)) (hf : ∀ {n} (a b : BitVec n), f a b = true ↔ p a b) :
    s.VMaskRule i vd vm [vs2] fun j => p (s.hart.velem vs2.toNat j)
      (if s.cfg.vmsUimmZext then r.setWidth s.hart.sew else r.signExtend s.hart.sew) :=
  State.vconstCmp_of hw hv h (fun _ _ _ hs =>
    heq_of_width (f := fun n => if s.cfg.vmsUimmZext then r.setWidth n else r.signExtend n) hs) hf

end

/-- Settles O57. -/
theorem vectorComparisons : Obligations.VectorComparisons := by
  unfold Obligations.VectorComparisons
  intro s vd vs2 r vm hw hv
  have eq : ∀ {n} (a b : BitVec n), (a == b) = true ↔ a = b := fun _ _ => beq_iff_eq
  have ne : ∀ {n} (a b : BitVec n), (a != b) = true ↔ a ≠ b := fun _ _ => bne_iff_ne
  have ltu : ∀ {n} (a b : BitVec n), a.ult b = true ↔ a.toNat < b.toNat := fun _ _ => BitVec.ult_iff_toNat_lt
  have lt : ∀ {n} (a b : BitVec n), a.slt b = true ↔ a.toInt < b.toInt := fun _ _ => BitVec.slt_iff_toInt_lt
  have leu : ∀ {n} (a b : BitVec n), a.ule b = true ↔ a.toNat ≤ b.toNat := fun _ _ => BitVec.ule_iff_toNat_le
  have le : ∀ {n} (a b : BitVec n), a.sle b = true ↔ a.toInt ≤ b.toInt := fun _ _ => BitVec.sle_iff_toInt_le
  exact ⟨State.vvCmp_of hw hv rfl eq, State.vxCmp_of hw hv rfl eq, State.viCmp_of hw hv rfl eq,
    State.vvCmp_of hw hv rfl ne, State.vxCmp_of hw hv rfl ne, State.viCmp_of hw hv rfl ne,
    State.vvCmp_of hw hv rfl ltu, State.vxCmp_of hw hv rfl ltu, State.vvCmp_of hw hv rfl lt, State.vxCmp_of hw hv rfl lt,
    State.vvCmp_of hw hv rfl leu, State.vxCmp_of hw hv rfl leu, State.vuCmp_of hw hv rfl leu,
    State.vvCmp_of hw hv rfl le, State.vxCmp_of hw hv rfl le, State.viCmp_of hw hv rfl le,
    State.vxCmp_of hw hv rfl fun a b => ltu b a, State.vuCmp_of hw hv rfl fun a b => ltu b a,
    State.vxCmp_of hw hv rfl fun a b => lt b a, State.viCmp_of hw hv rfl fun a b => lt b a⟩

end Sys2Proof.Machine
end

section
/-! The six CSR instructions and their access check (R45, R46, R323). -/

namespace Sys2Proof.Machine

open Sys2Proof

variable {c : Config}

/-! ## The instructions -/

@[simp] theorem Hart.writeCsr_x (h : Hart c) (r : Csr) (v : BitVec c.xlen) : (h.writeCsr r v).x = h.x := by
  cases r <;> simp only [Hart.writeCsr, Hart.dirtyFs] <;> split <;> rfl

/-- A CSR instruction as claims say it, from its call of the common operation. -/
theorem State.csrRule_of {s : State} {i : Instr} {rd : BitVec 5} {csr : BitVec 12} {reads writes : Bool}
    {new new' : BitVec s.cfg.xlen → BitVec s.cfg.xlen}
    (h : exec i s = s.run (encode i) (s.hart.csrOp rd csr reads writes new)) (hnew : new = new') :
    s.CsrRule i rd csr reads writes new' := by
  subst hnew
  refine ⟨fun hno => ?_, fun r hr => ?_⟩
  · rw [Hart.csrOp, hno] at h
    exact State.raisesIllegal_of h
  · rw [Hart.csrOp, hr] at h
    have hx : (if writes then s.hart.writeCsr r (new (s.hart.csrOld r)) else s.hart).x = s.hart.x := by
      split
      · exact s.hart.writeCsr_x r _
      · rfl
    have hpc : (s.hart.csrDone r rd reads writes new).pc = s.hart.pc := Hart.csrDone_pc ..
    have hmcycle := congrArg Hart.mcycle (s.hart.csrDone_eq r rd reads writes new)
    have hminstret := congrArg Hart.minstret (s.hart.csrDone_eq r rd reads writes new)
    refine ⟨s.hart.finish (encode i) (.wrote (s.hart.csrDone r rd reads writes new) (writes && r.isCycle)
      (writes && r.isInstret)), _, h, rfl, fun hreads => ?_, fun hreads => ?_, ?_, ?_, ?_, ?_⟩
    · refine Hart.xBecomes_of hx ?_
      rw [Hart.finish_wrote, Hart.csrDone, hreads]
      rfl
    · rw [Hart.finish_wrote, Hart.csrDone, hreads]
      exact hx
    · rw [Hart.finish_wrote, hpc]
      rfl
    · rw [← hmcycle]
      exact Hart.mcycle_le_tick _ _
    · rw [Hart.finish_wrote]
      by_cases hi : (writes && r.isInstret) = true
      · rw [if_pos hi, if_pos hi]
        exact hminstret
      · rw [if_neg hi, if_neg hi]
        exact congrArg (· + 1) (s.hart.csrDone_minstret rd reads (by simpa using hi) new)
    · rw [Hart.finish_wrote, Hart.csrDone_eq]

/-- Settles O30: each instruction is the common operation, with its operand. -/
theorem csrInstructions : Obligations.CsrInstructions := by
  unfold Obligations.CsrInstructions
  intro s rd rs1 csr a z
  have hz : rs1.setWidth s.cfg.xlen = z := setWidth_eq_ofNat rs1
  exact ⟨State.csrRule_of rfl rfl, State.csrRule_of rfl rfl, State.csrRule_of rfl rfl,
    State.csrRule_of rfl (by rw [hz]), State.csrRule_of rfl (by rw [hz]), State.csrRule_of rfl (by rw [hz])⟩

/-! ## The access check -/

/-- The index of a CSR that R49 lists by a range is within it. -/
def Csr.Listed : Csr → Prop
  | .pmpaddr i => i ≤ 15
  | .mhpmcounter i | .mhpmcounterh i | .mhpmevent i | .hpmcounter i | .hpmcounterh i => 3 ≤ i ∧ i ≤ 31
  | _ => True

theorem csrInRange_listed {n : Nat} {r : Csr} (h : csrInRange n = some r) : r.Listed := by
  unfold csrInRange at h
  split_ifs at h with h1 h2 h3 h4 h5 h6 <;> cases h <;> simp only [Bool.and_eq_true, decide_eq_true_eq] at * <;>
    simp only [Csr.Listed] <;> omega

theorem csrOf_listed {n : BitVec 12} {r : Csr} (h : csrOf n = some r) : r.Listed := by
  unfold csrOf at h
  split at h
  on_goal -1 => exact csrInRange_listed h
  all_goals cases h; trivial

theorem Hart.counterAllowed_iff {h : Hart c} {i : Nat} :
    h.counterAllowed i = true ↔ h.priv = .m ∨ (h.mcounteren.getLsbD i = true ∧
      (h.priv = .u → c.hasS = true → h.scounteren.getLsbD i = true)) := by
  unfold Hart.counterAllowed
  cases h.priv
  · cases c.hasS <;> simp
  · simp
  · simp

/-- The numbers that a gate of R45 step 4 guards: the floating-point CSRs, satp, the counters. -/
inductive Csr.Gated : Csr → Prop
  | fp {r} (h : r = .fflags ∨ r = .frm ∨ r = .fcsr) : Csr.Gated r
  | satp : Csr.Gated .satp
  | counter {r i} (h : r.gateBit = some i) : Csr.Gated r

/-- The counters are the CSRs 0xC00 + n and 0xC80 + n, gated by bit n (R63). -/
theorem Csr.gateBit_eq_some {r : Csr} (hr : r.Listed) {i : Nat} (h : r.gateBit = some i) :
    i < 32 ∧ (r.number = 0xC00 + i ∨ r.number = 0xC80 + i) ∧ ∀ {c : Config} (h : Hart c), h.csrGate r = h.counterAllowed i := by
  cases r <;> cases h
  case hpmcounter => exact ⟨Nat.lt_succ_of_le hr.2, .inl rfl, fun _ => rfl⟩
  case hpmcounterh => exact ⟨Nat.lt_succ_of_le hr.2, .inr rfl, fun _ => rfl⟩
  case cycle | time | instret => exact ⟨by decide, .inl rfl, fun _ => rfl⟩
  case cycleh | timeh | instreth => exact ⟨by decide, .inr rfl, fun _ => rfl⟩

/-- Every other CSR has its number outside those and no gate. -/
theorem Csr.gate_of_not_gated {r : Csr} (hr : r.Listed) (hg : ¬r.Gated) :
    (r.number ∉ [1, 2, 3] ∧ r.number ≠ 0x180 ∧
      ¬((0xC00 ≤ r.number ∧ r.number ≤ 0xC1F) ∨ (0xC80 ≤ r.number ∧ r.number ≤ 0xC9F))) ∧
    ∀ {c : Config} (h : Hart c), h.csrGate r = true := by
  cases r
  case fflags | frm | fcsr => exact absurd (.fp (by decide)) hg
  case satp => exact absurd .satp hg
  case cycle | time | instret | cycleh | timeh | instreth | hpmcounter | hpmcounterh => exact absurd (.counter rfl) hg
  case pmpaddr i =>
    change i ≤ 15 at hr
    exact ⟨by simp only [Csr.number, List.mem_cons, List.not_mem_nil, or_false]; omega, fun _ => rfl⟩
  case mhpmcounter i | mhpmcounterh i | mhpmevent i =>
    change 3 ≤ i ∧ i ≤ 31 at hr
    exact ⟨by simp only [Csr.number, List.mem_cons, List.not_mem_nil, or_false]; omega, fun _ => rfl⟩
  all_goals exact ⟨by decide, fun _ => rfl⟩

/-- The gates of a number that names a CSR, as claims say them. -/
theorem Hart.csrGate_iff (h : Hart c) {n : Nat} {r : Csr} (hn : n = r.number) (hr : r.Listed) :
    h.csrGate r = true ↔ (n ∈ [1, 2, 3] → h.mstatus.fs ≠ 0) ∧ (n = 0x180 → ¬(h.priv = .s ∧ h.mstatus.tvm = true)) ∧
      ((0xC00 ≤ n ∧ n ≤ 0xC1F) ∨ (0xC80 ≤ n ∧ n ≤ 0xC9F) → h.priv = .m ∨ (h.mcounteren.getLsbD (n % 32) = true ∧
        (h.priv = .u → c.hasS = true → h.scounteren.getLsbD (n % 32) = true))) := by
  subst hn
  by_cases hg : r.Gated
  · cases hg with
    | fp hfp =>
      have hfp' : r.number ∈ [1, 2, 3] ∧ h.csrGate r = (h.mstatus.fs != 0) := by
        obtain rfl | rfl | rfl := hfp <;> exact ⟨by decide, rfl⟩
      have hlt : r.number ≤ 3 := by
        obtain rfl | rfl | rfl := hfp <;> decide
      rw [hfp'.2, bne_iff_ne]
      exact ⟨fun h0 => ⟨fun _ => h0, fun _ => by omega, fun _ => by omega⟩, fun h0 => h0.1 hfp'.1⟩
    | satp =>
      have hgate : h.csrGate .satp = !(h.priv == .s && h.mstatus.tvm) := rfl
      have hnum : Csr.satp.number = 0x180 := rfl
      rw [hgate, hnum, Bool.not_eq_true', Bool.eq_false_iff, ne_eq, Bool.and_eq_true, beq_iff_eq]
      exact ⟨fun h0 => ⟨fun hm => absurd hm (by decide), fun _ => h0, fun hm => absurd hm (by decide)⟩,
        fun h0 => h0.2.1 rfl⟩
    | @counter _ i hi =>
      obtain ⟨hlt, hnum, hgate⟩ := Csr.gateBit_eq_some hr hi
      have hmod : r.number % 32 = i := by omega
      rw [hgate h, Hart.counterAllowed_iff, hmod]
      exact ⟨fun h0 => ⟨fun hm => absurd hm (by simp only [List.mem_cons, List.not_mem_nil, or_false]; omega),
        fun hm => absurd hm (by omega), fun _ => h0⟩, fun h0 => h0.2.2 (by omega)⟩
  · obtain ⟨⟨h1, h2, h3⟩, hgate⟩ := Csr.gate_of_not_gated hr hg
    exact ⟨fun _ => ⟨fun hm => absurd hm h1, fun hm => absurd hm h2, fun hm => absurd hm h3⟩, fun _ => hgate h⟩

/-- Settles O31: the check taken apart, each part as a number. -/
theorem csrAccessCheck : Obligations.CsrAccessCheck := by
  unfold Obligations.CsrAccessCheck
  intro s n c h level counter
  refine ⟨fun writes r => ?_, fun rd rs1 => ⟨fun hno => ?_, fun hno => ?_⟩⟩
  · have hlevel : h.priv.level = level := by
      change h.priv.level = (match h.priv with | .u => 0 | .s => 1 | .m => 3)
      cases h.priv <;> rfl
    have h8 : (n.extractLsb' 8 2).toNat = n.toNat / 256 % 4 := by
      rw [BitVec.extractLsb'_toNat, Nat.shiftRight_eq_div_pow]
    have h10 : n.extractLsb' 10 2 = 3 ↔ n.toNat / 1024 = 3 := by
      have hlt : n.toNat < 4096 := n.isLt
      rw [← BitVec.toNat_inj, BitVec.extractLsb'_toNat, Nat.shiftRight_eq_div_pow]
      change n.toNat / 1024 % 4 = 3 ↔ _
      omega
    rw [Hart.csrAccess_eq_some, ← hlevel, ← h8]
    constructor
    · rintro ⟨hnamed, hpresent, hl, hw, hgate⟩
      exact ⟨hnamed, hpresent, hl, fun h1 h2 => hw ⟨h1, h10.2 h2⟩,
        (h.csrGate_iff (csrOf_number hnamed) (csrOf_listed hnamed)).1 hgate⟩
    · rintro ⟨hnamed, hpresent, hl, hw, hgate⟩
      exact ⟨hnamed, hpresent, hl, fun ⟨h1, h2⟩ => hw h1 (h10.1 h2),
        (h.csrGate_iff (csrOf_number hnamed) (csrOf_listed hnamed)).2 hgate⟩
  · obtain ⟨hrw, -, -, hrwi, -, -⟩ := csrInstructions s rd rs1 n
    exact ⟨hrw.1 hno, hrwi.1 hno⟩
  · obtain ⟨-, hrs, hrc, -, hrsi, hrci⟩ := csrInstructions s rd rs1 n
    exact ⟨hrs.1 hno, hrc.1 hno, hrsi.1 hno, hrci.1 hno⟩

end Sys2Proof.Machine
end

section
/-! The fields of the CSRs: mstatus and its view, the trap registers, the interrupt registers, the floating-point and
vector CSRs and the counters (R50 to R74). -/

namespace Sys2Proof.Machine

open Sys2Proof

variable {c : Config}

/-! ## Bits of words made of flags and masks -/

theorem getLsbD_bitIf (n : Nat) (b : Bool) (i k : Nat) :
    (bitIf n b i).getLsbD k = (b && decide (k = i) && decide (k < n)) := by
  unfold bitIf
  cases b
  · simp
  · rw [if_pos rfl, BitVec.getLsbD_twoPow, Bool.true_and, Bool.and_comm]
    by_cases h : k = i
    · simp [h]
    · simp [h, Ne.symm h]

/-- The bits of a mask below 2^k, from its bits below k. -/
theorem testBit_eq_mem {m k : Nat} {l : List Nat} (hm : m < 2 ^ k) (hl : ∀ i ∈ l, i < k)
    (h : ∀ i < k, m.testBit i = decide (i ∈ l)) (i : Nat) : m.testBit i = decide (i ∈ l) := by
  by_cases hi : i < k
  · exact h i hi
  · have hno : i ∉ l := fun hmem => hi (hl i hmem)
    rw [Nat.testBit_lt_two_pow (hm.trans_le (Nat.pow_le_pow_right (by norm_num) (Nat.le_of_not_lt hi))),
      decide_eq_false hno]

theorem getLsbD_mask {m k : Nat} {l : List Nat} (hm : m < 2 ^ k) (hl : ∀ i ∈ l, i < k)
    (h : ∀ i < k, m.testBit i = decide (i ∈ l)) {n i : Nat} (hi : i < n) :
    (BitVec.ofNat n m).getLsbD i = decide (i ∈ l) := by
  rw [BitVec.getLsbD_ofNat, decide_eq_true hi, Bool.true_and, testBit_eq_mem hm hl h]

theorem xlen_ge (c : Config) : 32 ≤ c.xlen := by rcases xlen_cases c with e | e <;> omega

theorem rv64_iff (c : Config) : c.rv64 = true ↔ c.xlen = 64 := by
  unfold Config.rv64 Config.xlen
  cases c.xl <;> decide

/-! ## mstatus (R53) -/

/-- Bit i of the fields of mstatus below bit 31. -/
def Status.lowBit (m : Status) (i : Nat) : Bool :=
  m.sie && decide (i = 1) || m.mie && decide (i = 3) || m.spie && decide (i = 5) || m.mpie && decide (i = 7) ||
    m.spp && decide (i = 8) || decide (11 ≤ i) && m.mpp.level.testBit (i - 11) ||
    decide (13 ≤ i) && m.fs.getLsbD (i - 13) || m.mprv && decide (i = 17) || m.sum && decide (i = 18) ||
    m.mxr && decide (i = 19) || m.tvm && decide (i = 20) || m.tw && decide (i = 21) || m.tsr && decide (i = 22)

theorem Hart.getLsbD_mstatusWord_low (h : Hart c) {i : Nat} (hi : i < 31) :
    h.mstatusWord.getLsbD i = h.mstatus.lowBit i := by
  have hx := xlen_ge c
  have h0 : ∀ j, i - j < c.xlen := fun j => by omega
  have h1 : i < c.xlen := by omega
  have h2 : i ≠ 33 ∧ i ≠ 35 ∧ i ≠ c.xlen - 1 := by omega
  simp only [Hart.mstatusWord, Status.lowBit, BitVec.getLsbD_or, getLsbD_bitIf, BitVec.getLsbD_shiftLeft,
    BitVec.getLsbD_ofNat, BitVec.getLsbD_setWidth, h0, h1, h2, decide_true, decide_false, Bool.true_and, Bool.and_true,
    Bool.and_false, Bool.or_false, ← decide_not, Nat.not_lt]

theorem Priv.testBit_level (p : Priv) {k : Nat} (hk : 2 ≤ k) : p.level.testBit k = false := by
  refine Nat.testBit_lt_two_pow (lt_of_lt_of_le (?_ : _ < 2 ^ 2) (Nat.pow_le_pow_right (by norm_num) hk))
  cases p <;> decide

/-- The bits of mstatus from bit 31 on: UXL and SXL, and SD. -/
theorem Hart.getLsbD_mstatusWord_high (h : Hart c) {i : Nat} (hi : 31 ≤ i) (hlt : i < c.xlen) :
    h.mstatusWord.getLsbD i = (c.rv64 && (decide (i = 33) || decide (i = 35)) ||
      h.mstatus.fs == 3 && decide (i = c.xlen - 1)) := by
  have hlevel : h.mstatus.mpp.level.testBit (i - 11) = false := h.mstatus.mpp.testBit_level (by omega)
  have hfs : h.mstatus.fs.getLsbD (i - 13) = false := BitVec.getLsbD_of_ge _ _ (by omega)
  have hne : ∀ j < 31, i ≠ j := fun j hj => by omega
  simp only [Hart.mstatusWord, BitVec.getLsbD_or, getLsbD_bitIf, BitVec.getLsbD_shiftLeft, BitVec.getLsbD_ofNat,
    BitVec.getLsbD_setWidth, hlevel, hfs, hlt, hne 1 (by decide), hne 3 (by decide), hne 5 (by decide),
    hne 7 (by decide), hne 8 (by decide), hne 17 (by decide), hne 18 (by decide), hne 19 (by decide),
    hne 20 (by decide), hne 21 (by decide), hne 22 (by decide), decide_true, decide_false, Bool.and_true,
    Bool.and_false, Bool.false_or, Bool.and_or_distrib_left]

/-- Bits 12:11 of mstatus are the level of MPP. -/
theorem Hart.mstatusWord_mpp (h : Hart c) : h.mstatusWord.toNat / 2 ^ 11 % 4 = h.mstatus.mpp.level := by
  have hlevel : h.mstatus.mpp.level < 4 := by cases h.mstatus.mpp <;> decide
  have hfield : h.mstatusWord.extractLsb' 11 2 = BitVec.ofNat 2 h.mstatus.mpp.level := by
    apply BitVec.eq_of_getLsbD_eq
    intro i hi
    rw [BitVec.getLsbD_extractLsb', h.getLsbD_mstatusWord_low (by omega), BitVec.getLsbD_ofNat]
    interval_cases i <;> simp [Status.lowBit]
  have := congrArg BitVec.toNat hfield
  rwa [BitVec.extractLsb'_toNat, Nat.shiftRight_eq_div_pow, BitVec.toNat_ofNat, Nat.mod_eq_of_lt hlevel] at this

/-- SD says that FS is Dirty. -/
theorem Hart.getLsbD_mstatusWord_sd (h : Hart c) :
    h.mstatusWord.getLsbD (c.xlen - 1) = (h.mstatusWord.getLsbD 13 && h.mstatusWord.getLsbD 14) := by
  have hx := xlen_ge c
  have hne : c.xlen - 1 ≠ 33 ∧ c.xlen - 1 ≠ 35 := by rcases xlen_cases c with e | e <;> omega
  have hdirty : (h.mstatus.fs == 3) = (h.mstatus.fs.getLsbD 0 && h.mstatus.fs.getLsbD 1) :=
    (by decide : ∀ f : BitVec 2, (f == 3) = (f.getLsbD 0 && f.getLsbD 1)) _
  rw [h.getLsbD_mstatusWord_high (by omega) (by omega), h.getLsbD_mstatusWord_low (by decide),
    h.getLsbD_mstatusWord_low (by decide), hdirty]
  simp [Status.lowBit, Priv.testBit_level, hne]

/-- MPP after a write: the mode written where it exists, the old one otherwise (R53). -/
theorem mppWritten_level (old : Priv) (bits : BitVec 2) :
    (mppWritten c old bits).level =
      if (bits.toNat = 0 ∧ c.hasU = true) ∨ (bits.toNat = 1 ∧ c.hasS = true) ∨ bits.toNat = 3 then bits.toNat
      else old.level := by
  obtain rfl | rfl | rfl | rfl := (by decide : ∀ b : BitVec 2, b = 0 ∨ b = 1 ∨ b = 2 ∨ b = 3) bits
  · cases hU : c.hasU <;> simp [mppWritten, hU, Priv.level]
  · cases hS : c.hasS <;> simp [mppWritten, hS, Priv.level]
  · simp [mppWritten]
  · simp [mppWritten, Priv.level]

/-- Settles O32: the word is read bit by bit, and MPP as the level of its mode. -/
theorem mstatusWriteRead : Obligations.MstatusWriteRead := by
  unfold Obligations.MstatusWriteRead
  intro c h v r old bit mode
  let t : Hart c := { h with mstatus := mstatusWritten c h.mstatus v }
  have hlow : ∀ {i}, i < 31 → r.getLsbD i = (mstatusWritten c h.mstatus v).lowBit i := fun hi =>
    t.getLsbD_mstatusWord_low hi
  have hfs : ∀ k < 2, (mstatusWritten c h.mstatus v).fs.getLsbD k = (c.hasF && v.getLsbD (13 + k)) := fun k hk => by
    cases hF : c.hasF <;> simp [mstatusWritten, hF, hk]
  have hv : v.toNat / 2 ^ 11 % 4 = (v.extractLsb' 11 2).toNat := by
    rw [BitVec.extractLsb'_toNat, Nat.shiftRight_eq_div_pow]
  have hmpp := t.mstatusWord_mpp.trans (mppWritten_level (c := c) h.mstatus.mpp (v.extractLsb' 11 2))
  rw [← hv] at hmpp
  refine ⟨?_, ?_, ?_, ?_, ?_, ?_, ?_, ?_, ?_, ?_, ?_, ?_, ?_, fun hm => hmpp.trans (if_pos hm),
    fun hm => (hmpp.trans (if_neg hm)).trans h.mstatusWord_mpp.symm, fun i hi => ?_, fun hrv i h1 h2 => ?_,
    t.getLsbD_mstatusWord_sd, rfl⟩
  case refine_14 =>
    have hlt : i < 31 := (by decide : ∀ i ∈ [0, 2, 4, 6, 9, 10, 15, 16, 23, 24, 25, 26, 27, 28, 29, 30], i < 31) i hi
    rw [hlow hlt]
    simp only [List.mem_cons, List.not_mem_nil, or_false] at hi
    rcases hi with rfl | rfl | rfl | rfl | rfl | rfl | rfl | rfl | rfl | rfl | rfl | rfl | rfl | rfl | rfl | rfl <;>
      simp [Status.lowBit, Priv.testBit_level]
  case refine_15 =>
    have hxlen := (rv64_iff c).1 hrv
    refine (t.getLsbD_mstatusWord_high h1 (by omega)).trans ?_
    rw [hrv, decide_eq_false (by omega : ¬i = c.xlen - 1)]
    simp
  case refine_6 => exact (hlow (by decide)).trans (Eq.trans (by simp [Status.lowBit, Priv.testBit_level]) (hfs 0 (by decide)))
  case refine_7 => exact (hlow (by decide)).trans (Eq.trans (by simp [Status.lowBit, Priv.testBit_level]) (hfs 1 (by decide)))
  all_goals
    refine (hlow (by decide)).trans ?_
    simp [Status.lowBit, Priv.testBit_level]
    rfl

end Sys2Proof.Machine
end

section
/-! The restricted view sstatus, the fields of the trap registers, and the interrupt registers (R54 to R60). -/

namespace Sys2Proof.Machine

open Sys2Proof

variable {c : Config}

/-! ## sstatus (R54) -/

/-- The bits of mstatus that sstatus shows. -/
theorem getLsbD_sstatusMask {i : Nat} (hi : i < c.xlen) :
    (sstatusMask c).getLsbD i = (decide (i ∈ [1, 5, 8, 13, 14, 15, 16, 18, 19, c.xlen - 1]) ||
      (c.rv64 && decide (i ∈ [32, 33]))) := by
  have hconst : (BitVec.ofNat c.xlen 0xDE122).getLsbD i = decide (i ∈ [1, 5, 8, 13, 14, 15, 16, 18, 19]) :=
    getLsbD_mask (k := 20) (by decide) (by decide) (by decide) hi
  simp only [sstatusMask, BitVec.getLsbD_or, getLsbD_bitIf, hconst, hi, decide_true, Bool.and_true, Bool.true_and,
    List.mem_cons, List.not_mem_nil, or_false, Bool.decide_or, Bool.and_or_distrib_left, Bool.or_assoc, Bool.or_comm,
    Bool.or_left_comm]

/-- Settles O33: the view is a mask, and a write takes the fields of the mstatus write. -/
theorem sstatusIsAView : Obligations.SstatusIsAView := by
  unfold Obligations.SstatusIsAView
  intro c h v
  refine ⟨fun i hi => ?_, rfl, rfl⟩
  rw [← getLsbD_sstatusMask hi]
  exact BitVec.getLsbD_and

/-! ## The trap registers (R55 to R60) -/

theorem tvecLegal_iff {n : Nat} (v : BitVec n) : tvecLegal v = true ↔ v.toNat % 4 < 2 := by
  have hbit : v.getLsbD 1 = decide (v.toNat / 2 ^ 1 % 2 = 1) := Nat.testBit_eq_decide_div_mod_eq
  rw [tvecLegal, hbit, Bool.not_eq_true', decide_eq_false_iff_not]
  omega

/-- Settles O34: the masks bit by bit, the rest as the model writes it. -/
theorem trapCsrFields : Obligations.TrapCsrFields := by
  unfold Obligations.TrapCsrFields
  intro c h v
  have heven := evenAddr_eq v
  refine ⟨fun hmode => ?_, fun hmode => ?_, ?_, ?_, rfl, rfl, rfl, rfl, rfl, rfl, rfl, rfl, rfl,
    fun i hi => ⟨?_, ?_, ?_⟩⟩
  · have hlegal := (tvecLegal_iff v).2 hmode
    exact ⟨if_pos hlegal, if_pos hlegal⟩
  · have hlegal : ¬tvecLegal v = true := fun hl => by
      have := (tvecLegal_iff v).1 hl
      omega
    exact ⟨if_neg hlegal, if_neg hlegal⟩
  · rw [← heven]; rfl
  · rw [← heven]; rfl
  · exact BitVec.getLsbD_and.trans (congrArg _ (getLsbD_mask (k := 16) (by decide) (by decide) (by decide) hi))
  · exact BitVec.getLsbD_and.trans (congrArg _ (getLsbD_mask (k := 10) (by decide) (by decide) (by decide) hi))
  · refine BitVec.getLsbD_and.trans (congrArg _ ?_)
    unfold mieMask
    cases c.hasS
    · rw [Bool.false_and, Bool.or_false]
      exact getLsbD_mask (k := 12) (by decide) (by decide) (by decide) hi
    · refine (getLsbD_mask (k := 12) (l := [3, 7, 11] ++ [1, 5, 9]) (by decide) (by decide) (by decide) hi).trans ?_
      rw [Bool.true_and, ← Bool.decide_or]
      exact decide_eq_decide.2 List.mem_append

/-! ## The interrupt registers (R57, R721) -/

/-- The bits of mip. -/
theorem Hart.getLsbD_mip (h : Hart c) {i : Nat} (hi : i < c.xlen) :
    h.mip.getLsbD i = true ↔
      ((i = 3 ∧ h.lines.msip = true) ∨ (i = 7 ∧ h.lines.mtip = true) ∨ (i = 11 ∧ h.lines.meip = true)) ∨
      (c.hasS = true ∧ (((i = 1 ∧ h.ssip = true) ∨ (i = 5 ∧ h.stip = true) ∨ (i = 9 ∧ h.seip = true)) ∨
        (i = 9 ∧ h.lines.seip = true))) := by
  simp only [Hart.mip, BitVec.getLsbD_or, getLsbD_bitIf, hi, decide_true, Bool.and_true, Bool.or_eq_true,
    Bool.and_eq_true, decide_eq_true_eq]
  tauto

/-- Settles O35. -/
theorem interruptCsrFields : Obligations.InterruptCsrFields := by
  unfold Obligations.InterruptCsrFields
  intro c h v soft line
  refine ⟨fun i hi => h.getLsbD_mip hi, fun i hi => ?_, rfl, rfl, fun i hi => ?_, rfl, ?_, fun hS => if_pos hS,
    fun hS => if_neg (by rw [hS]; decide)⟩
  · refine (Hart.getLsbD_mip { h with lines := { h.lines with seip := false } } hi).trans ?_
    simp only [Bool.false_eq_true, and_false, or_false]
    rfl
  · show ((h.mie &&& ~~~h.mideleg) ||| (v &&& h.mideleg)).getLsbD i = _
    rw [BitVec.getLsbD_or, BitVec.getLsbD_and, BitVec.getLsbD_and, BitVec.getLsbD_not, decide_eq_true hi]
    cases h.mideleg.getLsbD i <;> simp
  · show (if h.mideleg.getLsbD 1 then ({ h with ssip := v.getLsbD 1 } : Hart c) else h) = _
    split <;> rfl

end Sys2Proof.Machine
end

section
/-! The floating-point and vector CSRs, and the counters (R50 to R52, R64, R71 to R74). -/

namespace Sys2Proof.Machine

open Sys2Proof

variable {c : Config}

theorem toNat_append {m n : Nat} (a : BitVec m) (b : BitVec n) : (a ++ b).toNat = 2 ^ n * a.toNat + b.toNat := by
  rw [BitVec.toNat_append, Nat.shiftLeft_eq, Nat.mul_comm, Nat.two_pow_add_eq_or_of_lt b.isLt]

/-- A part of at most 32 bits reads as its number. -/
theorem toNat_setWidth_xlen {m : Nat} (a : BitVec m) (hm : m ≤ 32) : (a.setWidth c.xlen).toNat = a.toNat := by
  have hx := xlen_ge c
  rw [BitVec.toNat_setWidth, Nat.mod_eq_of_lt (a.isLt.trans_le (Nat.pow_le_pow_right (by norm_num) (by omega)))]

theorem extractLsb'_eq_ofNat {n : Nat} (a : BitVec n) (i m : Nat) :
    a.extractLsb' i m = BitVec.ofNat m (a.toNat / 2 ^ i) := by
  apply BitVec.eq_of_toNat_eq
  rw [BitVec.extractLsb'_toNat, BitVec.toNat_ofNat, Nat.shiftRight_eq_div_pow]

/-! ## The 64-bit counters (R64) -/

theorem toNat_lt_of_rv64 (v : BitVec c.xlen) (h : c.rv64 = true) : v.toNat < 2 ^ 64 :=
  v.isLt.trans_eq (congrArg (2 ^ ·) ((rv64_iff c).1 h))

theorem xlen_of_not_rv64 (h : c.rv64 = false) : c.xlen = 32 := by
  have := mt (rv64_iff c).2 (by rw [h]; decide)
  rcases xlen_cases c with e | e <;> omega

theorem toNat_lt_of_not_rv64 (v : BitVec c.xlen) (h : c.rv64 = false) : v.toNat < 2 ^ 32 :=
  v.isLt.trans_eq (congrArg (2 ^ ·) (xlen_of_not_rv64 h))

theorem counterLow_toNat (w : BitVec 64) : (counterLow c w).toNat = w.toNat % 2 ^ c.xlen := BitVec.toNat_setWidth ..

theorem counterLow_toNat_rv32 (w : BitVec 64) (h : c.rv64 = false) : (counterLow c w).toNat = w.toNat % 2 ^ 32 :=
  (counterLow_toNat w).trans (congrArg (fun n => w.toNat % 2 ^ n) (xlen_of_not_rv64 h))

theorem counterHigh_toNat (w : BitVec 64) : (counterHigh c w).toNat = w.toNat / 2 ^ 32 := by
  have hx := xlen_ge c
  have hlt : w.toNat / 2 ^ 32 < 2 ^ c.xlen :=
    (Nat.div_lt_of_lt_mul w.isLt : w.toNat / 2 ^ 32 < 2 ^ 32).trans_le (Nat.pow_le_pow_right (by norm_num) hx)
  rw [counterHigh, BitVec.toNat_setWidth, BitVec.toNat_ushiftRight, Nat.shiftRight_eq_div_pow, Nat.mod_eq_of_lt hlt]

theorem counterWriteLow_toNat_rv64 (old : BitVec 64) (v : BitVec c.xlen) (h : c.rv64 = true) :
    (counterWriteLow c old v).toNat = v.toNat := by
  rw [counterWriteLow, if_pos h, BitVec.toNat_setWidth, Nat.mod_eq_of_lt (toNat_lt_of_rv64 v h)]

theorem counterWriteLow_toNat_rv32 (old : BitVec 64) (v : BitVec c.xlen) (h : c.rv64 = false) :
    (counterWriteLow c old v).toNat = 2 ^ 32 * (old.toNat / 2 ^ 32) + v.toNat := by
  have hhigh : old.toNat / 2 ^ 32 < 2 ^ 32 := Nat.div_lt_of_lt_mul old.isLt
  rw [counterWriteLow, if_neg (by rw [h]; decide), counterWriteLow.setLow32, toNat_append, BitVec.extractLsb'_toNat,
    BitVec.toNat_setWidth, Nat.mod_eq_of_lt (toNat_lt_of_not_rv64 v h), Nat.shiftRight_eq_div_pow,
    Nat.mod_eq_of_lt hhigh]

theorem counterWriteHigh_toNat_rv32 (old : BitVec 64) (v : BitVec c.xlen) (h : c.rv64 = false) :
    (counterWriteHigh c old v).toNat = 2 ^ 32 * v.toNat + old.toNat % 2 ^ 32 := by
  rw [counterWriteHigh, toNat_append, BitVec.extractLsb'_toNat, BitVec.toNat_setWidth,
    Nat.mod_eq_of_lt (toNat_lt_of_not_rv64 v h), Nat.shiftRight_zero]

/-- The plain CSR reads back what was written to it. -/
theorem counterLow_counterWriteLow (old : BitVec 64) (v : BitVec c.xlen) :
    counterLow c (counterWriteLow c old v) = v := by
  apply BitVec.eq_of_toNat_eq
  cases h : c.rv64
  · rw [counterLow_toNat_rv32 _ h, counterWriteLow_toNat_rv32 old v h, Nat.mul_add_mod,
      Nat.mod_eq_of_lt (toNat_lt_of_not_rv64 v h)]
  · rw [counterLow_toNat, counterWriteLow_toNat_rv64 old v h, Nat.mod_eq_of_lt v.isLt]

/-- In RV32 the upper CSR reads back what was written to it. -/
theorem counterHigh_counterWriteHigh (old : BitVec 64) (v : BitVec c.xlen) (h : c.rv64 = false) :
    counterHigh c (counterWriteHigh c old v) = v := by
  apply BitVec.eq_of_toNat_eq
  rw [counterHigh_toNat, counterWriteHigh_toNat_rv32 old v h]
  omega

/-- In RV32 a write of one half leaves the other. -/
theorem counterLow_counterWriteHigh (old : BitVec 64) (v : BitVec c.xlen) (h : c.rv64 = false) :
    counterLow c (counterWriteHigh c old v) = counterLow c old := by
  apply BitVec.eq_of_toNat_eq
  rw [counterLow_toNat_rv32 _ h, counterLow_toNat_rv32 _ h, counterWriteHigh_toNat_rv32 old v h, Nat.mul_add_mod,
    Nat.mod_mod]

theorem counterHigh_counterWriteLow (old : BitVec 64) (v : BitVec c.xlen) (h : c.rv64 = false) :
    counterHigh c (counterWriteLow c old v) = counterHigh c old := by
  have hv := toNat_lt_of_not_rv64 v h
  apply BitVec.eq_of_toNat_eq
  rw [counterHigh_toNat, counterHigh_toNat, counterWriteLow_toNat_rv32 old v h]
  omega

/-- The time input is no CSR's storage. -/
theorem Hart.writeCsr_time (h : Hart c) (r : Csr) (v : BitVec c.xlen) : (h.writeCsr r v).time = h.time := by
  cases r
  case mip | sip | mtvec | stvec => unfold Hart.writeCsr; dsimp only; split <;> rfl
  all_goals rfl

theorem Hart.writeCsr_vstart (h : Hart c) (v : BitVec c.xlen) :
    (h.writeCsr .vstart v).vstart.toNat = v.toNat % c.vlen := by
  show (BitVec.ofNat c.xlen (v.toNat % c.vlen)).toNat = _
  rw [BitVec.toNat_ofNat, Nat.mod_eq_of_lt ((Nat.mod_le _ _).trans_lt v.isLt)]

/-- Settles O36. -/
theorem otherCsrFields : Obligations.OtherCsrFields := by
  unfold Obligations.OtherCsrFields
  intro c h v dirty
  have hfive := setWidth_eq_ofNat (n := 5) v
  have hthree := setWidth_eq_ofNat (n := 3) v
  have hfrm : v.extractLsb' 5 3 = BitVec.ofNat 3 (v.toNat / 32) := extractLsb'_eq_ofNat v 5 3
  have hvxrm : v.extractLsb' 1 2 = BitVec.ofNat 2 (v.toNat / 2) := extractLsb'_eq_ofNat v 1 2
  have hone := setWidth_eq_ofNat (n := 1) v
  have htwo := setWidth_eq_ofNat (n := 2) v
  refine ⟨?_, ?_, ?_, ?_, ?_, ?_, ?_, ?_, h.writeCsr_vstart v, rfl, counterLow_counterWriteLow _ v,
    counterLow_counterWriteLow _ v, fun r hr => ?_, fun r hr => ?_, counterWriteLow_toNat_rv64 _ v,
    fun hrv => ⟨counterHigh_counterWriteHigh _ v hrv, counterLow_counterWriteHigh _ v hrv,
      counterHigh_counterWriteLow _ v hrv, counterHigh_counterWriteHigh _ v hrv,
      counterLow_counterWriteHigh _ v hrv, counterHigh_counterWriteLow _ v hrv⟩,
    rfl, rfl, rfl, rfl, counterLow_toNat _, counterHigh_toNat _, fun r => h.writeCsr_time r v⟩
  · exact (toNat_setWidth_xlen _ (by decide)).trans (toNat_append _ _)
  · exact (toNat_setWidth_xlen _ (by decide)).trans (toNat_append _ _)
  · rw [← hfive, ← hfrm]; rfl
  · rw [← hfive]; rfl
  · rw [← hthree]; rfl
  · rw [← hone, ← hvxrm]; rfl
  · rw [← hone]; rfl
  · rw [← htwo]; rfl
  · simp only [List.mem_cons, List.not_mem_nil, or_false] at hr
    rcases hr with rfl | rfl <;> rfl
  · simp only [List.mem_cons, List.not_mem_nil, or_false] at hr
    rcases hr with rfl | rfl <;> rfl

end Sys2Proof.Machine
end

section
/-! The table of the CSRs (R49): their numbers, the configurations that have them, and what they read as. -/

namespace Sys2Proof.Machine

open Sys2Proof

variable {c : Config}

/-! ## Words packed from fields -/

/-- The word w is the number v, whose fields all lie below bit p. -/
structure Packs {n : Nat} (w : BitVec n) (v p : Nat) : Prop where
  eq : w = BitVec.ofNat n v
  lt : v < 2 ^ p

/-- One more field of m bits, above the others. -/
theorem Packs.field {n : Nat} {w : BitVec n} {v p q k m : Nat} (h : Packs w v p) (hpq : p ≤ q) (hk : k < 2 ^ m) :
    Packs (w ||| BitVec.ofNat n k <<< q) (v + 2 ^ q * k) (q + m) := by
  have hv : v < 2 ^ q := h.lt.trans_le (Nat.pow_le_pow_right (by norm_num) hpq)
  constructor
  · have hshift : BitVec.ofNat n k <<< q = BitVec.ofNat n (2 ^ q * k) := by
      apply BitVec.eq_of_toNat_eq
      rw [BitVec.toNat_shiftLeft, BitVec.toNat_ofNat, BitVec.toNat_ofNat, Nat.shiftLeft_eq, Nat.mod_mul_mod, Nat.mul_comm]
    rw [h.eq, hshift, ← BitVec.ofNat_or, Nat.or_comm, ← Nat.two_pow_add_eq_or_of_lt hv, Nat.add_comm]
  · calc v + 2 ^ q * k < 2 ^ q * (k + 1) := by rw [Nat.mul_add]; omega
      _ ≤ 2 ^ q * 2 ^ m := Nat.mul_le_mul_left _ hk
      _ = 2 ^ (q + m) := (Nat.pow_add ..).symm

theorem bitIf_eq_shiftLeft (n : Nat) (b : Bool) (q : Nat) : bitIf n b q = BitVec.ofNat n b.toNat <<< q := by
  cases b
  · exact (BitVec.zero_shiftLeft ..).symm
  · exact BitVec.twoPow_eq ..

/-- What a flag adds to the number of its word. -/
def flagValue (i : Nat) (b : Bool) : Nat := if b then 2 ^ i else 0

theorem flagValue_eq_mul (i : Nat) (b : Bool) : flagValue i b = 2 ^ i * b.toNat := by
  cases b
  · rfl
  · exact (Nat.mul_one _).symm

/-- One more flag, above the others where it is set. -/
theorem Packs.flag {n : Nat} {w : BitVec n} {v p : Nat} (h : Packs w v p) (q : Nat) (b : Bool) (hpq : p ≤ q) :
    Packs (w ||| bitIf n b q) (v + flagValue q b) (q + 1) := by
  rw [bitIf_eq_shiftLeft, flagValue_eq_mul]
  exact h.field hpq b.toNat_lt

/-- A word of one flag. -/
theorem Packs.ofFlag (n q : Nat) (b : Bool) : Packs (bitIf n b q) (flagValue q b) (q + 1) := by
  have hzero : Packs (0#n) 0 0 := ⟨rfl, Nat.one_pos⟩
  have hflag := hzero.flag q b (Nat.zero_le q)
  rwa [BitVec.zero_or, Nat.zero_add] at hflag

/-- A flag that is not set takes no room. -/
theorem Packs.unset {n : Nat} {w : BitVec n} {v p : Nat} (h : Packs w v p) (q : Nat) :
    Packs (w ||| bitIf n false q) (v + flagValue q false) p := by
  rwa [show bitIf n false q = 0#n from rfl, BitVec.or_zero]

/-- The number mstatus reads as (R53). -/
def statusValue (c : Config) (m : Status) : Nat :=
  flagValue 1 m.sie + flagValue 3 m.mie + flagValue 5 m.spie + flagValue 7 m.mpie + flagValue 8 m.spp +
    2 ^ 11 * m.mpp.level + 2 ^ 13 * m.fs.toNat + flagValue 17 m.mprv + flagValue 18 m.sum + flagValue 19 m.mxr +
    flagValue 20 m.tvm + flagValue 21 m.tw + flagValue 22 m.tsr + flagValue 33 c.rv64 + flagValue 35 c.rv64 +
    flagValue (c.xlen - 1) (m.fs == 3)

theorem Hart.mstatusWord_eq (h : Hart c) : h.mstatusWord = BitVec.ofNat c.xlen (statusValue c h.mstatus) := by
  have hlevel : h.mstatus.mpp.level < 2 ^ 2 := by cases h.mstatus.mpp <;> decide
  have hlow := Packs.ofFlag c.xlen 1 h.mstatus.sie
    |>.flag 3 h.mstatus.mie (by decide) |>.flag 5 h.mstatus.spie (by decide) |>.flag 7 h.mstatus.mpie (by decide)
    |>.flag 8 h.mstatus.spp (by decide) |>.field (q := 11) (by decide) hlevel
    |>.field (q := 13) (by decide) h.mstatus.fs.isLt |>.flag 17 h.mstatus.mprv (by decide)
    |>.flag 18 h.mstatus.sum (by decide) |>.flag 19 h.mstatus.mxr (by decide) |>.flag 20 h.mstatus.tvm (by decide)
    |>.flag 21 h.mstatus.tw (by decide) |>.flag 22 h.mstatus.tsr (by decide)
  rw [← setWidth_eq_ofNat] at hlow
  unfold Hart.mstatusWord statusValue
  cases hrv : c.rv64
  · have hx := xlen_of_not_rv64 hrv
    exact (((hlow.unset 33).unset 35).flag (c.xlen - 1) _ (by omega)).eq
  · have hx := (rv64_iff c).1 hrv
    exact (((hlow.flag 33 true (by decide)).flag 35 true (by decide)).flag (c.xlen - 1) _ (by omega)).eq

/-- The number misa reads as: MXL in the top two bits, and the letters (R62). -/
def misaValue (c : Config) : Nat :=
  2 ^ (c.xlen - 2) * (if c.rv64 then 2 else 1) + flagValue 0 true + flagValue 2 true + flagValue 3 c.hasD +
    flagValue 5 c.hasF + flagValue 8 true + flagValue 12 true + flagValue 18 c.hasS + flagValue 20 c.hasU +
    flagValue 21 c.hasV

theorem misaWord_eq (c : Config) : misaWord c = BitVec.ofNat c.xlen (misaValue c) := by
  have hx := xlen_ge c
  have hall := Packs.ofFlag c.xlen 0 true
    |>.flag 2 true (by decide) |>.flag 3 c.hasD (by decide) |>.flag 5 c.hasF (by decide) |>.flag 8 true (by decide)
    |>.flag 12 true (by decide) |>.flag 18 c.hasS (by decide) |>.flag 20 c.hasU (by decide)
    |>.flag 21 c.hasV (by decide) |>.flag (c.xlen - 2) (!c.rv64) (by omega) |>.flag (c.xlen - 1) c.rv64 (by omega)
  have hmxl : flagValue (c.xlen - 2) (!c.rv64) + flagValue (c.xlen - 1) c.rv64 =
      2 ^ (c.xlen - 2) * (if c.rv64 then 2 else 1) := by
    cases c.rv64
    · exact (Nat.mul_one _).symm
    · rw [show c.xlen - 1 = c.xlen - 2 + 1 by omega]
      exact Nat.zero_add _
  calc misaWord c = _ := by unfold misaWord; ac_rfl
    _ = _ := hall.eq
    _ = BitVec.ofNat c.xlen (misaValue c) := by
      rw [Nat.add_assoc, hmxl]
      unfold misaValue
      ac_rfl

/-! ## The numbers of the CSRs -/

/-- The performance-monitoring registers stand in five ranges of numbers. -/
theorem csrOf_performance : ∀ k < 32, 3 ≤ k →
    csrOf (BitVec.ofNat 12 (0xC00 + k)) = some (.hpmcounter k) ∧
    csrOf (BitVec.ofNat 12 (0xC80 + k)) = some (.hpmcounterh k) ∧
    csrOf (BitVec.ofNat 12 (0xB00 + k)) = some (.mhpmcounter k) ∧
    csrOf (BitVec.ofNat 12 (0xB80 + k)) = some (.mhpmcounterh k) ∧
    csrOf (BitVec.ofNat 12 (0x320 + k)) = some (.mhpmevent k) := by decide

theorem csrOf_pmpaddr : ∀ k < 16, csrOf (BitVec.ofNat 12 (0x3B0 + k)) = some (.pmpaddr k) := by decide

theorem counterHigh_eq (w : BitVec 64) : counterHigh c w = BitVec.ofNat c.xlen (w.toNat / 2 ^ 32) := by
  rw [counterHigh, setWidth_eq_ofNat, BitVec.toNat_ushiftRight, Nat.shiftRight_eq_div_pow]

theorem append_setWidth_eq {m n : Nat} (a : BitVec m) (b : BitVec n) :
    (a ++ b).setWidth c.xlen = BitVec.ofNat c.xlen (2 ^ n * a.toNat + b.toNat) :=
  (setWidth_eq_ofNat _).trans (congrArg _ (toNat_append a b))

/-- Settles O37: row by row; the converse by the number of each CSR. -/
theorem csrTable : Obligations.CsrTable := by
  unfold Obligations.CsrTable
  intro c h v num bit row m status isa
  refine ⟨⟨rfl, rfl, setWidth_eq_ofNat _⟩, ⟨rfl, rfl, setWidth_eq_ofNat _⟩, ⟨rfl, rfl, append_setWidth_eq _ _⟩,
    ⟨rfl, rfl, setWidth_eq_ofNat _⟩, ⟨rfl, rfl, setWidth_eq_ofNat _⟩, ⟨rfl, rfl, setWidth_eq_ofNat _⟩,
    ⟨rfl, rfl, counterHigh_eq _⟩, ⟨rfl, rfl, counterHigh_eq _⟩, ⟨rfl, rfl, counterHigh_eq _⟩,
    -- the supervisor CSRs
    ⟨rfl, rfl, rfl⟩, ⟨rfl, rfl, rfl⟩, ⟨rfl, rfl, rfl⟩, ⟨rfl, rfl, setWidth_eq_ofNat _⟩, ⟨rfl, rfl, rfl⟩,
    ⟨rfl, rfl, rfl⟩, ⟨rfl, rfl, rfl⟩, ⟨rfl, rfl, rfl⟩, ⟨rfl, rfl, rfl⟩, ⟨rfl, rfl, rfl⟩,
    -- the identity registers
    ⟨rfl, rfl, setWidth_eq_ofNat _⟩, ⟨rfl, rfl, setWidth_eq_ofNat _⟩, ⟨rfl, rfl, setWidth_eq_ofNat _⟩,
    ⟨rfl, rfl, setWidth_eq_ofNat _⟩,
    -- the machine CSRs
    ⟨rfl, rfl, h.mstatusWord_eq⟩, ⟨rfl, rfl, misaWord_eq c⟩, ⟨rfl, rfl, rfl⟩, ⟨rfl, rfl, rfl⟩, ⟨rfl, rfl, rfl⟩,
    ⟨rfl, rfl, rfl⟩, ⟨rfl, rfl, setWidth_eq_ofNat _⟩, ⟨rfl, rfl, rfl⟩, ⟨rfl, rfl, rfl⟩, ⟨rfl, rfl, rfl⟩,
    ⟨rfl, rfl, rfl⟩, ⟨rfl, rfl, rfl⟩, ⟨rfl, rfl, rfl⟩, ⟨rfl, rfl, rfl⟩, ⟨rfl, rfl, rfl⟩, ⟨rfl, rfl, rfl⟩,
    ⟨rfl, rfl, setWidth_eq_ofNat _⟩, ⟨rfl, rfl, setWidth_eq_ofNat _⟩, ⟨rfl, rfl, counterHigh_eq _⟩,
    ⟨rfl, rfl, counterHigh_eq _⟩, ⟨rfl, rfl, rfl⟩, ⟨rfl, rfl, rfl⟩, ⟨rfl, rfl, rfl⟩, ⟨rfl, rfl, rfl⟩,
    -- the vector CSRs
    ⟨rfl, rfl, rfl⟩, ⟨rfl, rfl, setWidth_eq_ofNat _⟩, ⟨rfl, rfl, setWidth_eq_ofNat _⟩,
    ⟨rfl, rfl, append_setWidth_eq _ _⟩, ⟨rfl, rfl, rfl⟩, ⟨rfl, rfl, rfl⟩, ⟨rfl, rfl, rfl⟩,
    fun k h3 h31 => ?_, fun k hk => ⟨csrOf_pmpaddr k hk, rfl, rfl⟩, fun n hn => ?_,
    ?_, ?_, fun r hr => ?_, fun k => ⟨rfl, rfl, rfl, rfl⟩⟩
  · obtain ⟨hpm, hpmh, mhpm, mhpmh, event⟩ := csrOf_performance k (Nat.lt_succ_of_le h31) h3
    exact ⟨⟨hpm, rfl, rfl⟩, ⟨hpmh, rfl, rfl⟩, ⟨mhpm, rfl, rfl⟩, ⟨mhpmh, rfl, rfl⟩, ⟨event, rfl, rfl⟩⟩
  · obtain ⟨r, hr⟩ := Option.ne_none_iff_exists'.1 hn
    have hlisted := csrOf_listed hr
    rw [csrOf_number hr]
    cases r
    case pmpaddr k => exact .inr (.inr ⟨k, Nat.lt_succ_of_le hlisted, rfl⟩)
    case mhpmcounter k | mhpmcounterh k | mhpmevent k | hpmcounter k | hpmcounterh k =>
      obtain ⟨h3, h31⟩ := hlisted
      exact .inr (.inl ⟨k, h3, h31, by simp [Csr.number]⟩)
    all_goals exact .inl (by decide)
  · rw [← setWidth_eq_ofNat]; rfl
  · rw [← setWidth_eq_ofNat]; rfl
  · simp only [List.mem_cons, List.not_mem_nil, or_false] at hr
    rcases hr with rfl | rfl | rfl | rfl | rfl | rfl | rfl | rfl | rfl | rfl <;> rfl

end Sys2Proof.Machine
end

section
/-! Memory as claims speak of it: reads as little-endian numbers, the integer loads and
stores, the fences and wfi. -/

namespace Sys2Proof.Machine

open Sys2Proof

variable {c : Config}

/-! ## Reads and writes of main memory (R100, R101, R111) -/

theorem Memory.nat_lt {x : Nat} (m : List Host.Cell) (a : BitVec x) (n : Nat) : Memory.nat m a n < 256 ^ n := by
  induction n with
  | zero => simp [Memory.nat]
  | succ n ih =>
    have hb : (Memory.read m (byteAddr a n)).toNat < 256 := (Memory.read m (byteAddr a n)).isLt
    rw [Memory.nat, pow_succ]
    nlinarith

/-- Byte k of the little-endian number is the byte at a + k. -/
theorem Memory.nat_byte {x : Nat} (m : List Host.Cell) (a : BitVec x) {n k : Nat} (hk : k < n) :
    Memory.nat m a n / 256 ^ k % 256 = (Memory.read m (byteAddr a k)).toNat := by
  have hb : (Memory.read m (byteAddr a k)).toNat < 256 := (Memory.read m (byteAddr a k)).isLt
  obtain ⟨d, rfl⟩ := Nat.exists_eq_add_of_lt hk
  have hsplit : Memory.nat m a (k + d + 1) = Memory.nat m a k +
      256 ^ k * ((Memory.read m (byteAddr a k)).toNat + 256 * Memory.nat m (a + BitVec.ofNat x (k + 1)) d) := by
    rw [show k + d + 1 = (k + 1) + d by omega, Memory.nat_add, Memory.nat, pow_succ]
    ring
  rw [hsplit, Nat.add_mul_div_left _ _ (by positivity), Nat.div_eq_of_lt (Memory.nat_lt m a k)]
  omega

/-- Settles O26: the number read is the number of its bytes, and a store is read back byte by byte. -/
theorem readIsLittleEndian : Obligations.ReadIsLittleEndian := by
  unfold Obligations.ReadIsLittleEndian
  intro c h a n hn
  refine ⟨fun hio => ⟨h.readValue_toNat a hn hio, h.afterRead_of_memory a n hio, fun k hk => ?_⟩,
    (h.readTrace_afterRead a n rfl).2, fun v hio hm k hk => ?_⟩
  · apply BitVec.eq_of_toNat_eq
    rw [← Memory.nat_byte h.mem a hk, ← h.readValue_toNat a hn hio]
    exact leByte_toNat (h.readValue a n) k
  · have hspace : n ≤ 2 ^ c.xlen := by
      have := Nat.pow_le_pow_right (show 0 < 2 by norm_num) (xlen_ge c)
      omega
    rw [h.writeMem_mem, hio, if_neg Bool.false_ne_true]
    exact Memory.read_store hm a v hspace hk

/-! ## Loads and stores (R260 to R269, R441 to R443) -/

theorem ofNat_four_mul_eq_scaledX {m : Nat} (u : BitVec m) : BitVec.ofNat c.xlen (4 * u.toNat) = scaledX c u 2 :=
  (scaledX_eq c u 2).symm

theorem ofNat_eight_mul_eq_scaledX {m : Nat} (u : BitVec m) : BitVec.ofNat c.xlen (8 * u.toNat) = scaledX c u 3 :=
  (scaledX_eq c u 3).symm

/-- Settles O24: the shared load shape, with the addresses and the extensions as numbers. -/
theorem integerLoads : Obligations.IntegerLoads := by
  unfold Obligations.IntegerLoads
  intro s rd rs1 off d b u5 u6
  dsimp only
  simp only [ofNat_four_mul_eq_scaledX, ofNat_eight_mul_eq_scaledX, ← creg_eq]
  have signed : ∀ (k : Nat) {n : Nat} (v : BitVec 64), v.toNat < 256 ^ n →
      signedLoad s.cfg k v = signedX s.cfg k v.toNat := fun k _ v _ => signedLoad_eq s.cfg k v
  have unsigned : ∀ (n : Nat) (v : BitVec 64), v.toNat < 256 ^ n →
      unsignedLoad s.cfg (8 * n) v = BitVec.ofNat s.cfg.xlen v.toNat := fun n v hv => unsignedLoad_eq s.cfg rfl hv
  exact ⟨State.loadRule_of (by decide) rfl (signed 8), State.loadRule_of (by decide) rfl (unsigned 1),
    State.loadRule_of (by decide) rfl (signed 16), State.loadRule_of (by decide) rfl (unsigned 2),
    State.loadRule_of (by decide) rfl (signed 32), State.loadRule_of (by decide) rfl (unsigned 4),
    State.loadRule_of (by decide) rfl (unsigned 8), State.loadRule_of (by decide) rfl (signed 32),
    State.loadRule_of (by decide) rfl (signed 32), State.loadRule_of (by decide) rfl (unsigned 8),
    State.loadRule_of (by decide) rfl (unsigned 8)⟩

/-- Settles O25: the shared store shape, with the addresses and the register as numbers. -/
theorem integerStores : Obligations.IntegerStores := by
  unfold Obligations.IntegerStores
  intro s rs2 rs1 off d b u5 u6 hm
  dsimp only
  simp only [ofNat_four_mul_eq_scaledX, ofNat_eight_mul_eq_scaledX, ← creg_eq]
  have stored := fun r : BitVec 5 => to64_toNat s.cfg (s.hart.getX r)
  exact ⟨State.storeRule_of hm (by decide) rfl (stored rs2), State.storeRule_of hm (by decide) rfl (stored rs2),
    State.storeRule_of hm (by decide) rfl (stored rs2), State.storeRule_of hm (by decide) rfl (stored rs2),
    State.storeRule_of hm (by decide) rfl (stored _), State.storeRule_of hm (by decide) rfl (stored rs2),
    State.storeRule_of hm (by decide) rfl (stored _), State.storeRule_of hm (by decide) rfl (stored rs2)⟩

/-! ## Fences and wfi (R320 to R322, R334, R745) -/

/-- Settles O29: each gate is a condition on mode, TVM and TW. -/
theorem fencesAndWait : Obligations.FencesAndWait := by
  unfold Obligations.FencesAndWait
  intro s pred succ rs1 rs2 vmaOk wfiOk
  have vmaGate : (!s.cfg.hasS || s.hart.priv == .u || (s.hart.priv == .s && s.hart.mstatus.tvm)) = true ↔ ¬vmaOk := by
    simp only [vmaOk, Bool.or_eq_true, Bool.and_eq_true, Bool.not_eq_true', beq_iff_eq]
    cases s.cfg.hasS <;> simp
    tauto
  have wfiGate : (s.hart.priv != .m && s.hart.mstatus.tw) = true ↔ ¬wfiOk := by simp [wfiOk]
  have vma : exec (.sfenceVma rs1 rs2) s =
    s.run (encode (.sfenceVma rs1 rs2)) (if _ then .illegal else .next s.hart) := rfl
  have wfi : exec .wfi s = s.run (encode .wfi) (if _ then .illegal else
    .next { s.hart with waiting := s.hart.pend == 0 && Config.wfiWaits s.hart.draws }) := rfl
  refine ⟨State.onlyPasses_of rfl, ⟨_, rfl, rfl, ⟨rfl, rfl⟩, rfl⟩, fun hok => ?_, fun hno => ?_, fun hok => ?_,
    fun hno => ?_⟩
  · rw [if_neg (mt vmaGate.1 (not_not_intro hok))] at vma
    exact State.onlyPasses_of vma
  · rw [if_pos (vmaGate.2 hno)] at vma
    exact State.raisesIllegal_of vma
  · rw [if_neg (mt wfiGate.1 (not_not_intro hok))] at wfi
    refine ⟨_, wfi.trans (s.run_next _ _), ⟨rfl, rfl⟩, fun hpend => ?_, rfl⟩
    have hpend' : (s.hart.pend == 0) = false := beq_eq_false_iff_ne.2 hpend
    change (s.hart.pend == 0 && _) = false
    rw [hpend', Bool.false_and]
  · rw [if_pos (wfiGate.2 hno)] at wfi
    exact State.raisesIllegal_of wfi

end Sys2Proof.Machine
end

section
/-! The fetch of an instruction, parcel by parcel, and the two refusals of a step (R102, R110, R131, R764). -/

namespace Sys2Proof.Machine

open Sys2Proof

variable {c : Config}

/-! ## The checks of one parcel -/

/-- The parcel n bytes after a has a byte that the map does not allow. -/
theorem parcel_not_allowed_iff {k : Access} {a : BitVec c.xlen} {n : Nat} :
    allAllowed c k (a + BitVec.ofNat c.xlen n) 2 = false ↔
      ∃ i, n ≤ i ∧ i < n + 2 ∧ byteAllowed c k (byteAddr a i) = false := by
  rw [← Bool.not_eq_true, allAllowed_iff]
  simp only [byteAddr_add, not_forall, Bool.not_eq_true]
  constructor
  · rintro ⟨i, hi, hb⟩
    exact ⟨n + i, by omega, by omega, hb⟩
  · rintro ⟨i, hn, hi, hb⟩
    exact ⟨i - n, by omega, by rwa [Nat.add_sub_cancel' hn]⟩

/-- The parcel n bytes after a has a stale byte. -/
theorem Hart.parcel_stale_iff {h : Hart c} {a : BitVec c.xlen} {n : Nat} :
    h.anyStale (a + BitVec.ofNat c.xlen n) 2 = true ↔ ∃ i, n ≤ i ∧ i < n + 2 ∧ byteAddr a i ∈ h.stale := by
  simp only [Hart.anyStale, List.any_eq_true, List.mem_range, List.contains_iff_mem, byteAddr_add]
  constructor
  · rintro ⟨i, hi, hs⟩
    exact ⟨n + i, by omega, by omega, hs⟩
  · rintro ⟨i, hn, hi, hs⟩
    exact ⟨i - n, by omega, by rwa [Nat.add_sub_cancel' hn]⟩

/-! ## The fetch -/

/-- A parcel of main memory is the number of its two bytes. -/
theorem Hart.parcel_eq (h : Hart c) {a : BitVec c.xlen} (hio : touchesIo c a 2 = false) :
    h.parcel a = BitVec.ofNat 16 (Memory.nat h.mem a 2) := by
  rw [Hart.parcel, setWidth_eq_ofNat, h.readValue_toNat a (by decide) hio]

/-- The low two bits of a parcel tell the length of the instruction (R141). -/
theorem parcel_low_eq_three_iff (v : Nat) : (BitVec.ofNat 16 v).extractLsb' 0 2 = 3#2 ↔ v % 4 = 3 := by
  rw [← BitVec.toNat_inj, BitVec.extractLsb'_toNat, BitVec.toNat_ofNat]
  change v % 65536 >>> 0 % 4 = 3 ↔ v % 4 = 3
  rw [Nat.shiftRight_zero]
  omega

/-- The fetch once the first parcel, in main memory, has passed its checks. -/
theorem Hart.fetch_of_first {h : Hart c} (hx : allAllowed c .fetch h.pc 2 = true) (hs : h.anyStale h.pc 2 = false)
    (hio : touchesIo c h.pc 2 = false) :
    h.fetch =
      let second := h.pc + BitVec.ofNat c.xlen 2
      if Memory.nat h.mem h.pc 2 % 4 ≠ 3 then .fetched (.half (BitVec.ofNat 16 (Memory.nat h.mem h.pc 2))) h
      else if allAllowed c .fetch second 2 = false then .fault h
      else if h.anyStale second 2 then .stale
      else .fetched (.word (h.parcel second ++ h.parcel h.pc)) (h.afterRead second 2) := by
  unfold Hart.fetch
  simp only [hx, hs, h.afterRead_of_memory h.pc 2 hio, h.parcel_eq hio, ne_eq, parcel_low_eq_three_iff,
    BitVec.ofNat_eq_ofNat, Bool.not_true, Bool.false_eq_true, if_false, Bool.not_eq_true']

/-- Settles O5: the parcels pass their checks and, being main memory, are the numbers of their bytes. -/
theorem fetchReadsMemory : Obligations.FetchReadsMemory := by
  unfold Obligations.FetchReadsMemory
  intro c h good
  have pass : ∀ n, (∀ k, n ≤ k → k < n + 2 → good k) →
      allAllowed c .fetch (h.pc + BitVec.ofNat c.xlen n) 2 = true ∧
      h.anyStale (h.pc + BitVec.ofNat c.xlen n) 2 = false ∧
      touchesIo c (h.pc + BitVec.ofNat c.xlen n) 2 = false := by
    intro n hgood
    refine ⟨?_, ?_, touchesIo_eq_false.2 fun k hk => ?_⟩
    · rw [← Bool.not_eq_false, parcel_not_allowed_iff]
      rintro ⟨k, hn, hk, hb⟩
      exact Bool.false_ne_true (hb.symm.trans (hgood k hn hk).1)
    · rw [← Bool.not_eq_true, Hart.parcel_stale_iff]
      rintro ⟨k, hn, hk, hs⟩
      exact (hgood k hn hk).2.2 hs
    · rw [byteAddr_add]
      exact (hgood (n + k) (by omega) (by omega)).2.1
  have first : (∀ k < 2, good k) → _ := fun hgood => pass 0 fun k _ hk => hgood k hk
  rw [BitVec.add_zero] at first
  refine ⟨fun hgood hlen => ?_, fun hgood hlen => ?_⟩
  · obtain ⟨hx, hs, hio⟩ := first hgood
    rw [Hart.fetch_of_first hx hs hio, if_pos hlen]
  · obtain ⟨hx, hs, hio⟩ := first fun k hk => hgood k (by omega)
    obtain ⟨hx2, hs2, hio2⟩ := pass 2 fun k _ hk => hgood k hk
    have hword : h.parcel (h.pc + BitVec.ofNat c.xlen 2) ++ h.parcel h.pc =
        BitVec.ofNat 32 (Memory.nat h.mem h.pc 4) := by
      apply BitVec.eq_of_toNat_eq
      rw [h.parcel_eq hio, h.parcel_eq hio2, toNat_append, show (4 : Nat) = 2 + 2 from rfl, Memory.nat_add]
      have h1 := Memory.nat_lt h.mem h.pc 2
      have h2 := Memory.nat_lt h.mem (h.pc + BitVec.ofNat c.xlen 2) 2
      simp only [BitVec.toNat_ofNat]
      omega
    rw [Hart.fetch_of_first hx hs hio]
    simp only [hlen, hx2, hs2, hword, h.afterRead_of_memory _ 2 hio2, ne_eq, not_true_eq_false, Bool.true_eq_false,
      Bool.false_eq_true, if_false]

/-! ## The step that leads to the fetch (R725, R745) -/

/-- The hart, not waiting. -/
def Hart.awake (h : Hart c) : Hart c := { h with waiting := false }

theorem Hart.awake_of_running {h : Hart c} (hw : h.waiting = false) : h.awake = h := by
  unfold Hart.awake
  rw [← hw]

/-- The ways a step goes. -/
theorem step_eq (s : State) :
    step s =
      if s.hart.pcUnspecified then .refused .jumpThroughUnwrittenRegister
      else if s.hart.waiting then
        if s.hart.sample.pend = 0 then .next (s.withHart (s.hart.sample.tick 0))
        else (s.withHart s.hart.sample.awake).runStep
      else (s.withHart s.hart.sample).runStep := by
  rw [← s.hart.sample_waiting]
  rfl

/-- A hart that runs, or wakes, goes on to its interrupt or its instruction. -/
theorem step_of_runs {s : State} (hp : s.hart.pcUnspecified = false)
    (hw : s.hart.waiting = true → s.hart.sample.pend ≠ 0) : step s = (s.withHart s.hart.sample.awake).runStep := by
  rw [step_eq, hp, if_neg Bool.false_ne_true]
  split
  · next hwait => rw [if_neg (hw hwait)]
  · next hwait => rw [Hart.awake_of_running (by simpa using hwait)]

/-- A hart with no interrupt to take raises the access fault of its fetch. -/
theorem runStep_of_fault {s : State} {k : Hart s.cfg} (hi : s.hart.interrupt = none) (hf : s.hart.fetch = .fault k) :
    s.runStep = .next (s.withHart (k.raise .instructionAccessFault k.pc)) := by
  unfold State.runStep
  rw [hi, hf]
  rfl

theorem runStep_of_stale {s : State} (hi : s.hart.interrupt = none) (hf : s.hart.fetch = .stale) :
    s.runStep = .refused .staleFetch := by
  unfold State.runStep
  rw [hi, hf]

/-- The interrupt or the instruction of a step answers a next state, unless the fetch meets a stale byte. -/
theorem runStep_ends (s : State) :
    (∃ t, s.runStep = .next t) ∨ (s.hart.interrupt = none ∧ s.hart.fetch = .stale) := by
  unfold State.runStep
  split
  · exact .inl ⟨_, rfl⟩
  · next hi =>
    split
    · next hf => exact .inr ⟨hi, hf⟩
    · exact .inl ⟨_, rfl⟩
    · next code k hf =>
      unfold State.execCode
      split
      · next i hd =>
        obtain ⟨t, ht⟩ := exec_next i (s.withHart k)
        exact .inl ⟨_, ht⟩
      · exact .inl ⟨_, rfl⟩

theorem runStep_stale_iff (s : State) :
    s.runStep = .refused .staleFetch ↔ s.hart.interrupt = none ∧ s.hart.fetch = .stale := by
  refine ⟨fun h => ?_, fun ⟨hi, hf⟩ => runStep_of_stale hi hf⟩
  obtain ⟨t, ht⟩ | hstale := runStep_ends s
  · cases ht.symm.trans h
  · exact hstale

/-- Where the fetch meets a stale byte: in a first parcel that is allowed, or after it in a second one (R131; log 12). -/
theorem Hart.fetch_stale_iff (h : Hart c) :
    h.fetch = .stale ↔ allAllowed c .fetch h.pc 2 = true ∧
      (h.anyStale h.pc 2 = true ∨ (h.parcel h.pc).extractLsb' 0 2 = 3 ∧
        allAllowed c .fetch (h.pc + 2) 2 = true ∧ h.anyStale (h.pc + 2) 2 = true) := by
  unfold Hart.fetch
  dsimp only
  split_ifs <;> simp_all

theorem Hart.fetch_awake_stale_iff (h : Hart c) : h.awake.fetch = .stale ↔ h.fetch = .stale :=
  h.awake.fetch_stale_iff.trans h.fetch_stale_iff.symm

/-- Settles O6: each clause names the branch the fetch takes. -/
theorem fetchChecks : Obligations.FetchChecks := by
  unfold Obligations.FetchChecks
  intro s hp hw hint h bad old
  have hstep : step s = (s.withHart h).runStep := by
    rw [step_of_runs hp fun hwait => absurd hwait (by simp [hw]), Hart.awake_of_running (by rwa [Hart.sample_waiting])]
  have faults : h.fetch = .fault h → step s = .next (s.withHart (h.raise .instructionAccessFault h.pc)) := fun hf =>
    hstep.trans (runStep_of_fault hint hf)
  have stops : h.fetch = .stale → step s = .refused .staleFetch := fun hf => hstep.trans (runStep_of_stale hint hf)
  have allowed : ∀ n, ¬bad n → allAllowed s.cfg .fetch (h.pc + BitVec.ofNat s.cfg.xlen n) 2 = true := fun n hb =>
    by rwa [← Bool.not_eq_false, parcel_not_allowed_iff]
  have fresh : ¬old 0 → h.anyStale (h.pc + BitVec.ofNat s.cfg.xlen 0) 2 = false := fun ho =>
    by rwa [← Bool.not_eq_true, Hart.parcel_stale_iff]
  have start : h.pc + BitVec.ofNat s.cfg.xlen 0 = h.pc := BitVec.add_zero _
  refine ⟨fun hb => faults ?_, fun hb ho => stops ?_, fun hb ho hio hlen hb2 => faults ?_,
    fun hb ho hio hlen hb2 ho2 => stops ?_⟩
  · have hx := parcel_not_allowed_iff.2 hb
    rw [start] at hx
    exact if_pos (by rw [hx]; rfl)
  · exact h.fetch_stale_iff.2 ⟨start ▸ allowed 0 hb, .inl (start ▸ Hart.parcel_stale_iff.2 ho)⟩
  · rw [Hart.fetch_of_first (start ▸ allowed 0 hb) (start ▸ fresh ho) hio]
    dsimp only
    rw [if_neg (not_not_intro hlen), if_pos (parcel_not_allowed_iff.2 hb2)]
  · have hlow : (h.parcel h.pc).extractLsb' 0 2 = 3 := by
      rw [h.parcel_eq hio]
      exact (parcel_low_eq_three_iff _).2 hlen
    exact h.fetch_stale_iff.2 ⟨start ▸ allowed 0 hb, .inr ⟨hlow, allowed 2 hb2, Hart.parcel_stale_iff.2 ho2⟩⟩

/-- Settles O8: a step is refused at its start, or where it goes on and its fetch meets a stale byte. -/
theorem stepRefusals : Obligations.StepRefusals := by
  unfold Obligations.StepRefusals
  intro s p
  cases hp : s.hart.pcUnspecified with
  | true =>
    have hstep : step s = .refused .jumpThroughUnwrittenRegister := by rw [step_eq, hp, if_pos rfl]
    simp [hstep]
  | false =>
    by_cases hruns : s.hart.waiting = true → p.mip &&& p.mie ≠ 0
    · have hstep : step s = (s.withHart p.awake).runStep := step_of_runs hp hruns
      have hstale : step s = .refused .staleFetch ↔ p.interrupt = none ∧ p.fetch = .stale := by
        rw [hstep, runStep_stale_iff]
        exact and_congr_right fun _ => p.fetch_awake_stale_iff
      have hiff : step s = .refused .staleFetch ↔ false = false ∧ (s.hart.waiting = true → p.mip &&& p.mie ≠ 0) ∧
          p.interrupt = none ∧ p.fetch = .stale :=
        hstale.trans ⟨fun h => ⟨rfl, hruns, h⟩, fun ⟨_, _, h⟩ => h⟩
      obtain ⟨t, ht⟩ | ⟨hi, hf⟩ := runStep_ends (s.withHart p.awake)
      · have hnext := hstep.trans ht
        exact ⟨by simp [hnext], hiff, .inl ⟨t, hnext⟩⟩
      · have hrefused := hstep.trans (runStep_of_stale hi hf)
        exact ⟨by simp [hrefused], hiff, .inr (.inr hrefused)⟩
    · obtain ⟨hwait, hpend⟩ := Classical.not_imp.1 hruns
      have hstep : step s = .next (s.withHart (p.tick 0)) := by
        rw [step_eq, hp, hwait, if_neg Bool.false_ne_true, if_pos rfl]
        exact if_pos (not_not.1 hpend)
      exact ⟨by simp [hstep], ⟨fun h => (by simp [hstep] at h), fun ⟨_, h, _⟩ => absurd h hruns⟩, .inl ⟨_, hstep⟩⟩

end Sys2Proof.Machine
end

section
/-! Who writes memory: what every instruction leaves of memory, of stale_code and of the record of device accesses,
from its shape (R106, R111, R119, R131). -/

namespace Sys2Proof.Machine

open Sys2Proof

variable {c : Config}

/-- What an instruction may do to memory between h and k: nothing to memory and stale_code unless it is one that
`stores`, nothing to a byte the map does not allow writes of, and the record of device accesses only grows. -/
structure Hart.MemKept (stores : Prop) (h k : Hart c) : Prop where
  quiet : ¬stores → k.mem = h.mem ∧ k.stale = h.stale
  wf : Memory.wf h.mem = true → Memory.wf k.mem = true
  guarded : Memory.wf h.mem = true → ∀ a, byteAllowed c .store a = false → Memory.read k.mem a = Memory.read h.mem a
  record : h.ioOut <+: k.ioOut

namespace Hart.MemKept

variable {stores : Prop} {h k l : Hart c}

/-- No write at all. -/
theorem of_mem_eq (mem : k.mem = h.mem) (stale : k.stale = h.stale) (record : h.ioOut <+: k.ioOut) :
    h.MemKept stores k :=
  ⟨fun _ => ⟨mem, stale⟩, fun hm => by rwa [mem], fun _ _ _ => by rw [mem], record⟩

/-- Neither a write nor a device access. -/
theorem of_eq (mem : k.mem = h.mem) (stale : k.stale = h.stale) (io : k.ioOut = h.ioOut) : h.MemKept stores k :=
  of_mem_eq mem stale (by rw [io])

theorem refl (h : Hart c) : h.MemKept stores h := of_eq rfl rfl rfl

theorem trans (hk : h.MemKept stores k) (kl : k.MemKept stores l) : h.MemKept stores l where
  quiet hs := ⟨(kl.quiet hs).1.trans (hk.quiet hs).1, (kl.quiet hs).2.trans (hk.quiet hs).2⟩
  wf := kl.wf ∘ hk.wf
  guarded hm a ha := (kl.guarded (hk.wf hm) a ha).trans (hk.guarded hm a ha)
  record := hk.record.trans kl.record

end Hart.MemKept

/-! ## What the operations of the state do to memory -/

section
variable {stores : Prop}

theorem Hart.memKept_setX (h : Hart c) (r : BitVec 5) (v : BitVec c.xlen) : h.MemKept stores (h.setX r v) :=
  .of_eq (by simp) (by simp) (by simp)

theorem Hart.memKept_setF (h : Hart c) (r : BitVec 5) (v : BitVec c.flen) : h.MemKept stores (h.setF r v) :=
  .of_eq rfl rfl rfl

theorem Hart.memKept_setFlags (h : Hart c) (fl : BitVec 5) : h.MemKept stores (h.setFlags fl) :=
  .of_eq (by simp) (by simp) (by simp)

theorem Hart.memKept_setV (h : Hart c) (n : Nat) (e : BitVec c.vlen) : h.MemKept stores (h.setV n e) :=
  .of_eq rfl rfl rfl

theorem Hart.memKept_reservation (h : Hart c) (r : Option (BitVec c.xlen)) :
    h.MemKept stores { h with reservation := r } :=
  .of_eq rfl rfl rfl

theorem Hart.memKept_writeCsr (h : Hart c) (r : Csr) (v : BitVec c.xlen) : h.MemKept stores (h.writeCsr r v) := by
  cases r
  case stvec | sip | mtvec | mip => rw [Hart.writeCsr]; split <;> exact .of_eq rfl rfl rfl
  all_goals exact .of_eq rfl rfl rfl

theorem Hart.memKept_trap (h : Hart c) (intr : Bool) (code : Nat) (tval : BitVec c.xlen) :
    h.MemKept stores (h.trap intr code tval) := by
  unfold Hart.trap
  split <;> exact .of_eq rfl rfl rfl

theorem Hart.memKept_raise (h : Hart c) (e : Exc) (tval : BitVec c.xlen) : h.MemKept stores (h.raise e tval) :=
  (h.memKept_trap false e.code tval).trans (.of_eq rfl rfl rfl)

theorem Hart.memKept_afterRead (h : Hart c) (a : BitVec c.xlen) (n : Nat) : h.MemKept stores (h.afterRead a n) := by
  refine .of_mem_eq (by simp) (by simp) ?_
  unfold Hart.afterRead
  split
  · exact ⟨_, rfl⟩
  · exact ⟨[], List.append_nil _⟩

/-- A write, after the checks of an instruction that stores. -/
theorem Hart.memKept_writeMem (h : Hart c) {a : BitVec c.xlen} {n : Nat} (v : BitVec 64) (hs : stores)
    (hok : ∀ i < n, byteAllowed c .store (byteAddr a i) = true) : h.MemKept stores (h.writeMem a n v) where
  quiet hno := absurd hs hno
  wf hm := Hart.writeMem_wf hm a n v
  guarded hm b hb := by
    rw [Hart.writeMem_mem]
    split
    · rfl
    · refine Memory.read_store_of_ne hm a v fun i hi he => ?_
      rw [he, hok i hi] at hb
      cases hb
  record := by
    unfold Hart.writeMem
    split
    · exact ⟨_, rfl⟩
    · exact ⟨[], List.append_nil _⟩

end

/-! ## How an instruction ends -/

/-- Every hart that the result carries satisfies P. -/
def Res.All (P : Hart c → Prop) : Res c → Prop
  | .next k | .jump k _ | .wrote k _ _ | .trap k _ _ => P k
  | .illegal => True

theorem Res.all_ite {P : Hart c → Prop} {p : Prop} [Decidable p] {r r' : Res c} (hr : r.All P) (hr' : r'.All P) :
    (if p then r else r').All P := by
  split
  · exact hr
  · exact hr'

theorem Res.All.mono {P Q : Hart c → Prop} {r : Res c} (hr : r.All P) (hPQ : ∀ k, P k → Q k) : r.All Q := by
  cases r with
  | illegal => trivial
  | _ => exact hPQ _ hr

/-- What a result carries is what the instruction leaves of memory. -/
theorem Hart.memKept_finish {stores : Prop} (h : Hart c) (code : Code) {r : Res c} (hr : r.All (h.MemKept stores)) :
    h.MemKept stores (h.finish code r) := by
  cases r with
  | next k => exact Hart.MemKept.trans hr (.of_eq rfl rfl rfl)
  | jump k target => exact Hart.MemKept.trans hr (.of_eq rfl rfl rfl)
  | wrote k cycle instret => exact Hart.MemKept.trans hr (.of_eq rfl rfl rfl)
  | trap k e tval => exact Hart.MemKept.trans hr (k.memKept_raise e tval)
  | illegal => exact h.memKept_raise _ _

section
variable {stores : Prop}

/-! ### Registers, branches and jumps -/

theorem Hart.kept_result (h : Hart c) (rd : BitVec 5) (v : BitVec c.xlen) : (h.result rd v).All (h.MemKept stores) :=
  h.memKept_setX rd v

theorem Hart.kept_branch (h : Hart c) (taken : Bool) {n : Nat} (offset : BitVec n) :
    (h.branch taken offset).All (h.MemKept stores) :=
  Res.all_ite (.refl h) (.refl h)

theorem Hart.kept_link (h : Hart c) (rd : BitVec 5) (len : Nat) (target : BitVec c.xlen) :
    (h.link rd len target).All (h.MemKept stores) :=
  h.memKept_setX rd _

theorem Hart.kept_setVL (h : Hart c) (rd rs1 : BitVec 5) (newtype : BitVec c.xlen) :
    (h.setVL rd rs1 newtype).All (h.MemKept stores) :=
  Res.all_ite ((h.memKept_setX rd _).trans (.of_eq rfl rfl rfl)) ((h.memKept_setX rd 0).trans (.of_eq rfl rfl rfl))

/-! ### Floating point -/

theorem Hart.kept_withFp (h : Hart c) {r : Res c} (hr : r.All (h.MemKept stores)) :
    (h.withFp r).All (h.MemKept stores) :=
  Res.all_ite trivial hr

theorem Hart.kept_withRm (h : Hart c) (rm : BitVec 3) {k : Rounding → Res c} (hk : ∀ m, (k m).All (h.MemKept stores)) :
    (h.withRm rm k).All (h.MemKept stores) :=
  h.kept_withFp <| by
    split
    · trivial
    · exact hk _

theorem Hart.kept_fpF (h : Hart c) (rd : BitVec 5) (w : BitVec c.flen) (fl : BitVec 5) :
    (Res.next ((h.setF rd w).setFlags fl)).All (h.MemKept stores) :=
  (h.memKept_setF rd w).trans (Hart.memKept_setFlags _ fl)

theorem Hart.kept_fpX (h : Hart c) (rd : BitVec 5) (v : BitVec c.xlen) (fl : BitVec 5) :
    (Res.next ((h.setX rd v).setFlags fl)).All (h.MemKept stores) :=
  (h.memKept_setX rd v).trans (Hart.memKept_setFlags _ fl)

/-! ### Memory and atomics -/

/-- The permissions that an AMO and an sc.d need include the permission to write. -/
theorem byteAllowed_store {k : Access} (hk : k = .amo ∨ k = .sc) {a : Nat} (h : byteAllowed c k a = true) :
    byteAllowed c .store a = true := by
  unfold byteAllowed at h ⊢
  split at h
  · cases h
  · rcases hk with rfl | rfl <;> simp_all [Region.allows]

theorem Hart.kept_withLoad (h : Hart c) (k : Access) (a : BitVec c.xlen) (n : Nat) {use : Hart c → BitVec 64 → Res c}
    (huse : AccessOk c k a n → ∀ v, (use (h.afterRead a n) v).All ((h.afterRead a n).MemKept stores)) :
    (h.withLoad k a n use).All (h.MemKept stores) := by
  unfold Hart.withLoad
  split
  · exact .refl h
  · next hok => exact (huse (accessCheck_eq_none.1 hok) _).mono fun _ => (h.memKept_afterRead a n).trans

theorem Hart.kept_loadX (h : Hart c) (rd : BitVec 5) (a : BitVec c.xlen) (n : Nat) (ext : BitVec 64 → BitVec c.xlen) :
    (h.loadX rd a n ext).All (h.MemKept stores) :=
  h.kept_withLoad .load a n fun _ v => Hart.memKept_setX _ rd (ext v)

theorem Hart.kept_loadF (h : Hart c) (rd : BitVec 5) (a : BitVec c.xlen) (n : Nat) (ext : BitVec 64 → BitVec c.flen) :
    (h.withFp (h.withLoad .load a n fun h' v => .next (h'.setF rd (ext v)))).All (h.MemKept stores) :=
  h.kept_withFp (h.kept_withLoad .load a n fun _ v => Hart.memKept_setF _ rd (ext v))

theorem Hart.kept_loadS (h : Hart c) (rd : BitVec 5) (a : BitVec c.xlen) : (h.loadS rd a).All (h.MemKept stores) :=
  h.kept_loadF rd a 4 fun v => box32 c (low32 v)

theorem Hart.kept_loadD (h : Hart c) (rd : BitVec 5) (a : BitVec c.xlen) : (h.loadD rd a).All (h.MemKept stores) :=
  h.kept_loadF rd a 8 fun v => v.setWidth c.flen

theorem Hart.kept_loadReserved (h : Hart c) (rd : BitVec 5) (a : BitVec c.xlen) :
    (h.withLoad .lr a 8 fun h' v => .next { h'.setX rd (unsignedLoad c 64 v) with reservation := some a }).All
      (h.MemKept stores) :=
  h.kept_withLoad .lr a 8 fun _ v => (Hart.memKept_setX _ rd (unsignedLoad c 64 v)).trans (Hart.memKept_reservation _ _)

theorem Hart.kept_storeMem (h : Hart c) (a : BitVec c.xlen) (n : Nat) (v : BitVec 64) (hs : stores) :
    (h.storeMem a n v).All (h.MemKept stores) := by
  unfold Hart.storeMem Hart.withStore
  split
  · exact .refl h
  · next hok => exact h.memKept_writeMem v hs (accessCheck_eq_none.1 hok).2

theorem Hart.kept_storeF (h : Hart c) (rs2 : BitVec 5) (a : BitVec c.xlen) (n : Nat) (hs : stores) :
    (h.storeF rs2 a n).All (h.MemKept stores) :=
  h.kept_withFp (h.kept_storeMem a n _ hs)

theorem Hart.kept_amo (h : Hart c) (rd rs1 : BitVec 5) (n : Nat) (f : BitVec 64 → BitVec 64)
    (ext : BitVec 64 → BitVec c.xlen) (hs : stores) : (h.amo rd rs1 n f ext).All (h.MemKept stores) := by
  unfold Hart.amo
  exact h.kept_withLoad .amo (h.getX rs1) n fun hok v =>
    (Hart.memKept_writeMem _ (f v) hs fun i hi => byteAllowed_store (.inl rfl) (hok.2 i hi)).trans
      (Hart.memKept_setX _ rd (ext v))

theorem Hart.memKept_scStore (h : Hart c) (rd : BitVec 5) {a : BitVec c.xlen} (v : BitVec 64) (hs : stores)
    (hok : AccessOk c .sc a 8) : h.MemKept stores (h.scStore rd a v) := by
  unfold Hart.scStore
  split
  · exact ((h.memKept_writeMem v hs fun i hi => byteAllowed_store (.inr rfl) (hok.2 i hi)).trans
      (Hart.memKept_setX _ rd 0)).trans (Hart.memKept_reservation _ _)
  · exact (h.memKept_setX rd 1).trans (Hart.memKept_reservation _ _)

theorem Hart.kept_storeConditional (h : Hart c) (rd : BitVec 5) (a : BitVec c.xlen) (v : BitVec 64) (hs : stores) :
    Res.All (h.MemKept stores) (match accessCheck c .sc a 8 with
      | some e => .trap h e a
      | none => .next (h.scStore rd a v)) := by
  split
  · exact .refl h
  · next hok => exact h.memKept_scStore rd v hs (accessCheck_eq_none.1 hok)

/-! ### Vector elements -/

theorem kept_vloop {h : Hart c} {body : Nat → Hart c → Res c} (hbody : ∀ j k, (body j k).All (k.MemKept stores))
    (count j : Nat) (k : Hart c) (hk : h.MemKept stores k) : (vloop body count j k).All (h.MemKept stores) := by
  induction count generalizing j k with
  | zero => exact hk.trans (.of_eq rfl rfl rfl)
  | succ n ih =>
    have hb := (hbody j k).mono fun _ => hk.trans
    rw [vloop]
    generalize body j k = r at hb ⊢
    cases r with
    | next l => exact ih (j + 1) l hb
    | trap l e tval => exact Hart.MemKept.trans hb (.of_eq rfl rfl rfl)
    | jump l target => exact hb
    | wrote l cycle instret => exact hb
    | illegal => trivial

theorem Hart.kept_elements (h : Hart c) (vm : BitVec 1) {body : Nat → Hart c → Res c}
    (hbody : ∀ j k, (body j k).All (k.MemKept stores)) : (h.elements vm body).All (h.MemKept stores) := by
  refine kept_vloop (fun j k => ?_) _ _ h (.refl h)
  split
  · exact hbody j k
  · exact .refl k

theorem Hart.kept_varith (h : Hart c) (vd vs2 : BitVec 5) (vm : BitVec 1) (src : List (BitVec 5)) (f : ElemOp)
    (op1 : (h : Hart c) → Nat → BitVec h.sew) : (h.varith vd vs2 vm src f op1).All (h.MemKept stores) :=
  Res.all_ite (h.kept_elements vm fun _ _ => Hart.memKept_setV _ _ _) trivial

theorem Hart.kept_vmulAdd (h : Hart c) (vd vs2 : BitVec 5) (vm : BitVec 1) (src : List (BitVec 5)) (f : ElemOp3)
    (op1 : (h : Hart c) → Nat → BitVec h.sew) : (h.vmulAdd vd vs2 vm src f op1).All (h.MemKept stores) :=
  Res.all_ite (h.kept_elements vm fun _ _ => Hart.memKept_setV _ _ _) trivial

theorem Hart.kept_vcompare (h : Hart c) (vd vs2 : BitVec 5) (vm : BitVec 1) (src : List (BitVec 5)) (cmp : ElemCmp)
    (op1 : (h : Hart c) → Nat → BitVec h.sew) : (h.vcompare vd vs2 vm src cmp op1).All (h.MemKept stores) :=
  Res.all_ite (h.kept_elements vm fun _ _ => Hart.memKept_setV _ _ _) trivial

theorem memKept_readPieces (a : BitVec c.xlen) (w k : Nat) (h : Hart c) :
    h.MemKept stores (readPieces a w k h).2 := by
  induction k with
  | zero => exact .refl h
  | succ k ih => exact ih.trans (Hart.memKept_afterRead _ _ _)

theorem Hart.memKept_readElem (h : Hart c) (a : BitVec c.xlen) (w : Nat) : h.MemKept stores (h.readElem a w).2 := by
  unfold Hart.readElem
  split
  · exact h.memKept_afterRead _ _
  · exact memKept_readPieces a w _ h

theorem Hart.kept_loadElem (h : Hart c) (vd : BitVec 5) (j : Nat) (a : BitVec c.xlen) (w : Nat) (signed : Bool) :
    (h.loadElem vd j a w signed).All (h.MemKept stores) := by
  unfold Hart.loadElem
  split
  · exact .refl h
  · exact (h.memKept_readElem a w).trans (Hart.memKept_setV _ _ _)

theorem memKept_writePieces {w : Nat} {a : BitVec c.xlen} (e : BitVec w) (k : Nat) (h : Hart c) (hs : stores)
    (hok : ∀ i < 8 * k, byteAllowed c .store (byteAddr a i) = true) : h.MemKept stores (writePieces a e k h) := by
  induction k with
  | zero => exact .refl h
  | succ k ih =>
    refine (ih fun i hi => hok i (by omega)).trans (Hart.memKept_writeMem _ _ hs fun i hi => ?_)
    rw [byteAddr_add]
    exact hok _ (by omega)

theorem Hart.memKept_writeElem {w : Nat} (h : Hart c) {a : BitVec c.xlen} (e : BitVec w) (hs : stores)
    (hok : ∀ i < w / 8, byteAllowed c .store (byteAddr a i) = true) : h.MemKept stores (h.writeElem a e) := by
  unfold Hart.writeElem
  split
  · exact h.memKept_writeMem _ hs hok
  · exact memKept_writePieces e _ h hs fun i hi => hok i (by omega)

theorem Hart.kept_storeElem (h : Hart c) (vs3 : BitVec 5) (j : Nat) (a : BitVec c.xlen) (w : Nat) (hs : stores) :
    (h.storeElem vs3 j a w).All (h.MemKept stores) := by
  unfold Hart.storeElem
  split
  · exact .refl h
  · next hok => exact h.memKept_writeElem _ hs (accessCheck_eq_none.1 hok).2

theorem Hart.kept_vload (h : Hart c) (vd : BitVec 5) (vm : BitVec 1) (w : Nat) (signed legal : Bool)
    (addr : Nat → Hart c → BitVec c.xlen) :
    Res.All (h.MemKept stores)
      (if legal then h.elements vm fun j h' => h'.loadElem vd j (addr j h') w signed else .illegal) :=
  Res.all_ite (h.kept_elements vm fun _ _ => Hart.kept_loadElem _ _ _ _ _ _) trivial

theorem Hart.kept_vstore (h : Hart c) (vs3 : BitVec 5) (vm : BitVec 1) (w : Nat) (legal : Bool)
    (addr : Nat → Hart c → BitVec c.xlen) (hs : stores) :
    Res.All (h.MemKept stores) (if legal then h.elements vm fun j h' => h'.storeElem vs3 j (addr j h') w else .illegal) :=
  Res.all_ite (h.kept_elements vm fun _ _ => Hart.kept_storeElem _ _ _ _ _ hs) trivial

/-! ### CSR instructions -/

theorem Hart.kept_csrOp (h : Hart c) (rd : BitVec 5) (csr : BitVec 12) (reads writes : Bool)
    (new : BitVec c.xlen → BitVec c.xlen) : (h.csrOp rd csr reads writes new).All (h.MemKept stores) := by
  unfold Hart.csrOp
  split
  · trivial
  · next r _ =>
    have hw : h.MemKept stores (if writes then h.writeCsr r (new (h.csrOld r)) else h) := by
      split
      · exact h.memKept_writeCsr r _
      · exact .refl h
    change h.MemKept stores (if reads then _ else _)
    split
    · exact hw.trans (Hart.memKept_setX _ rd _)
    · exact hw

end

/-! ## Every instruction -/

/-- Every instruction but fence.i does to memory what its shape says, storing only where it is one that stores. -/
theorem exec_kept (i : Instr) (hi : i ≠ .fenceI) (s : State) :
    ∃ r, exec i s = s.run (encode i) r ∧ r.All (s.hart.MemKept (StoresToMemory i)) := by
  cases i
  case fenceI => exact absurd rfl hi
  case lrD => exact ⟨_, rfl, s.hart.kept_loadReserved _ _⟩
  case scD => exact ⟨_, rfl, s.hart.kept_storeConditional _ _ _ trivial⟩
  case amoaddD | amoandD | amomaxD | amomaxuD | amominD | amominuD | amominuW | amoorD | amoswapD | amoxorD =>
    exact ⟨_, rfl, s.hart.kept_amo _ _ _ _ _ trivial⟩
  case cLw | cLwsp | cLd | cLdsp | lb | lbu | lh | lhu | lw | lwu | ld =>
    exact ⟨_, rfl, s.hart.kept_loadX _ _ _ _⟩
  case cSw | cSwsp | cSd | cSdsp | sb | sh | sw | sd => exact ⟨_, rfl, s.hart.kept_storeMem _ _ _ trivial⟩
  case cBeqz | cBnez | beq | bne | blt | bge | bltu | bgeu => exact ⟨_, rfl, s.hart.kept_branch _ _⟩
  case cJ | cJr => exact ⟨_, rfl, .refl _⟩
  case cJal | jal | cJalr | jalr => exact ⟨_, rfl, s.hart.kept_link _ _ _⟩
  case cEbreak | ecall | ebreak => exact ⟨_, rfl, .refl _⟩
  case cAdd | cAddi | cSub | cAddi16sp | cAddi4spn | cAnd | cAndi | cOr | cXor | cSlli | cSrli | cSrai | cMv |
    cLi | cLui | cAddw | cAddiw | cSubw | sll | slli | srl | srli | sra | srai | add | addi | sub | lui | auipc
    | and | andi | or | ori | xor | xori | slt | sltu | slti | sltiu | addw | addiw | subw | sllw | slliw | sraw
    | sraiw | srliw | srlw | mul | mulh | mulhsu | mulhu | div | divu | rem | remu | mulw | divw | divuw | remw
    | remuw =>
    exact ⟨_, rfl, s.hart.kept_result _ _⟩
  case cFlw | cFlwsp | flw => exact ⟨_, rfl, s.hart.kept_loadS _ _⟩
  case cFsw | cFswsp | cFsd | cFsdsp | fsd | fsw => exact ⟨_, rfl, s.hart.kept_storeF _ _ _ trivial⟩
  case cFld | cFldsp | fld => exact ⟨_, rfl, s.hart.kept_loadD _ _⟩
  case fmaddD | fmsubD | fnmsubD | fnmaddD | faddD | fsubD | fmulD | fdivD | fsqrtD | fcvtDS | fcvtDW | fcvtDWu
    | fcvtDL | fcvtDLu | fcvtSD | fmaddS | fmsubS | fnmaddS | fnmsubS | faddS | fsubS | fmulS | fdivS | fsqrtS
    | fcvtSW | fcvtSWu | fcvtSL | fcvtSLu =>
    exact ⟨_, rfl, s.hart.kept_withRm _ fun _ => s.hart.kept_fpF _ _ _⟩
  case fcvtWD | fcvtWuD | fcvtWS | fcvtWuS | fcvtLD | fcvtLuD | fcvtLS | fcvtLuS =>
    exact ⟨_, rfl, s.hart.kept_withRm _ fun _ => s.hart.kept_fpX _ _ _⟩
  case fminD | fmaxD | fminS | fmaxS => exact ⟨_, rfl, s.hart.kept_withFp (s.hart.kept_fpF _ _ _)⟩
  case feqD | fltD | fleD | feqS | fltS | fleS => exact ⟨_, rfl, s.hart.kept_withFp (s.hart.kept_fpX _ _ _)⟩
  case fsgnjD | fsgnjnD | fsgnjxD | fmvDX | fsgnjS | fsgnjnS | fsgnjxS | fmvWX =>
    exact ⟨_, rfl, s.hart.kept_withFp (s.hart.memKept_setF _ _)⟩
  case fmvXD | fclassD | fmvXW | fclassS => exact ⟨_, rfl, s.hart.kept_withFp (s.hart.kept_result _ _)⟩
  case fence => exact ⟨_, rfl, .refl _⟩
  case sfenceVma => exact ⟨_, rfl, Res.all_ite trivial (.refl _)⟩
  case wfi => exact ⟨_, rfl, Res.all_ite trivial (.of_eq rfl rfl rfl)⟩
  case vaddVv | vaddVx | vaddVi | vsubVv | vsubVx | vrsubVx | vrsubVi | vandVv | vandVx | vandVi | vorVv | vorVx
    | vorVi | vxorVv | vxorVx | vxorVi | vsllVv | vsllVx | vsllVi | vsrlVv | vsrlVx | vsrlVi | vsraVv | vsraVx |
    vsraVi | vminuVv | vminuVx | vminVv | vminVx | vmaxuVv | vmaxuVx | vmaxVv | vmaxVx | vmulVv | vmulVx |
    vmulhVv | vmulhVx | vmulhuVv | vmulhuVx | vmulhsuVv | vmulhsuVx =>
    exact ⟨_, rfl, s.hart.kept_varith _ _ _ _ _ _⟩
  case vmseqVv | vmseqVx | vmseqVi | vmsneVv | vmsneVx | vmsneVi | vmsltuVv | vmsltuVx | vmsltVv | vmsltVx |
    vmsleuVv | vmsleuVx | vmsleuVi | vmsleVv | vmsleVx | vmsleVi | vmsgtuVx | vmsgtuVi | vmsgtVx | vmsgtVi =>
    exact ⟨_, rfl, s.hart.kept_vcompare _ _ _ _ _ _⟩
  case vmaccVv | vmaccVx | vnmsacVv | vnmsacVx | vmaddVv | vmaddVx | vnmsubVv | vnmsubVx =>
    exact ⟨_, rfl, s.hart.kept_vmulAdd _ _ _ _ _ _⟩
  case vsetvli | vsetvl => exact ⟨_, rfl, s.hart.kept_setVL _ _ _⟩
  case vlbV | vlhV | vlwV | vlbuV | vlhuV | vlwuV | vleV | vlsbV | vlshV | vlswV | vlsbuV | vlshuV | vlswuV |
    vlseV | vlxbV | vlxhV | vlxwV | vlxbuV | vlxhuV | vlxwuV | vlxeV =>
    exact ⟨_, rfl, s.hart.kept_vload _ _ _ _ _ _⟩
  case vsbV | vshV | vswV | vseV | vssbV | vsshV | vsswV | vsseV | vsxbV | vsxhV | vsxwV | vsxeV =>
    exact ⟨_, rfl, s.hart.kept_vstore _ _ _ _ _ trivial⟩
  case csrrw | csrrs | csrrc | csrrwi | csrrsi | csrrci => exact ⟨_, rfl, s.hart.kept_csrOp _ _ _ _ _⟩
  case mret | sret => exact ⟨_, rfl, Res.all_ite trivial (.of_eq rfl rfl rfl)⟩

/-- Settles O58: fence.i empties stale_code, and every other instruction keeps to its shape. -/
theorem memoryIsWrittenByStoresOnly : Obligations.MemoryIsWrittenByStoresOnly := by
  unfold Obligations.MemoryIsWrittenByStoresOnly
  intro i s t he
  by_cases hi : i = .fenceI
  · subst hi
    obtain rfl : t = ({ s.hart with stale := [], pc := _ } : Hart s.cfg).retire := State.next_inj he.symm
    exact ⟨fun _ => ⟨rfl, fun h => absurd rfl h⟩, fun _ _ _ => rfl, [], (List.append_nil _).symm⟩
  · obtain ⟨r, hr, hkept⟩ := exec_kept i hi s
    obtain rfl := State.next_inj (he.symm.trans hr)
    have hk := s.hart.memKept_finish (encode i) hkept
    obtain ⟨l, hl⟩ := hk.record
    exact ⟨fun hs => ⟨(hk.quiet hs).1, fun _ => (hk.quiet hs).2⟩, hk.guarded, l, hl.symm⟩

end Sys2Proof.Machine
end

section
/-! The fields of an instruction and the bits they are cut from (R142 to R166): cutting and joining are inverse, and the
encoder of each format and the field functions undo each other. -/

namespace Sys2Proof

/-! ## Pieces of a bit vector

Each is the library's law for a concatenation, stated so that `simp` finds it where the sum of the widths stands
evaluated, as it does in every format. -/

section Pieces

variable {v w n i j k m : Nat}

@[simp] theorem extractLsb'_concat_low (a : BitVec v) (b : BitVec w) (h : i + m ≤ w) :
    (HAppend.hAppend (γ := no_index (BitVec (v + w))) a b).extractLsb' i m = b.extractLsb' i m :=
  BitVec.extractLsb'_append_eq_of_add_le h

@[simp] theorem extractLsb'_concat_high (a : BitVec v) (b : BitVec w) (h : w ≤ i) :
    (HAppend.hAppend (γ := no_index (BitVec (v + w))) a b).extractLsb' i m = a.extractLsb' (i - w) m :=
  BitVec.extractLsb'_append_eq_of_le h

@[simp] theorem concat_extractLsb' (a : BitVec n) (h : j = i + m) :
    HAppend.hAppend (γ := no_index (BitVec (k + m))) (a.extractLsb' j k) (a.extractLsb' i m) =
      a.extractLsb' i (k + m) :=
  BitVec.extractLsb'_append_extractLsb'_eq_extractLsb' h

@[simp] theorem extractLsb'_whole (a : BitVec n) : a.extractLsb' 0 n = a := BitVec.extractLsb'_eq_self

end Pieces

/-! ## Fields and words -/

@[simp] theorem Fields32.split_join (F : Fields32) : Fields32.split F.join = F := by
  simp [Fields32.split, Fields32.join]

@[simp] theorem Fields32.join_split (w : BitVec 32) : (Fields32.split w).join = w := by
  simp [Fields32.split, Fields32.join]

@[simp] theorem Fields16.split_join (F : Fields16) : Fields16.split F.join = F := by
  simp [Fields16.split, Fields16.join]

@[simp] theorem Fields16.join_split (w : BitVec 16) : (Fields16.split w).join = w := by
  simp [Fields16.split, Fields16.join]

theorem decodePattern_encR (x : Bool) (f7 : BitVec 7) (rs2 rs1 : BitVec 5) (f3 : BitVec 3) (rd : BitVec 5)
    (op : BitVec 7) : decodePattern x (encR f7 rs2 rs1 f3 rd op) = decode32 ⟨f7, rs2, rs1, f3, rd, op⟩ :=
  congrArg decode32 (Fields32.split_join _)

theorem decodePattern_encC (x : Bool) (f3 : BitVec 3) (b12 : BitVec 1) (r1 r2 : BitVec 5) (op : BitVec 2) :
    decodePattern x (encC f3 b12 r1 r2 op) = decode16 x ⟨f3, b12, r1, r2, op⟩ :=
  congrArg (decode16 x) (Fields16.split_join _)

/-! ## Encoding the fields of a word gives the word back

`F` holds the fields; the function fields are given by their values, the operands by the field functions. -/

section EncodeFields

variable {F : Fields32} {f7 : BitVec 7} {f6 : BitVec 6} {f5 : BitVec 5} {f3 : BitVec 3} {op : BitVec 7}

theorem encR_fields {rs2 rs1 rd : BitVec 5} (h7 : F.f7 = f7) (h2 : F.rs2 = rs2) (h1 : F.rs1 = rs1) (h3 : F.f3 = f3)
    (hd : F.rd = rd) (ho : F.op = op) : encR f7 rs2 rs1 f3 rd op = .word F.join := by
  subst h7 h2 h1 h3 hd ho
  rfl

theorem encI_fields (h3 : F.f3 = f3) (ho : F.op = op) : encI F.immI F.rs1 f3 F.rd op = .word F.join :=
  encR_fields (by simp [Fields32.immI]) (by simp [Fields32.immI]) rfl h3 rfl ho

theorem encS_fields (h3 : F.f3 = f3) (ho : F.op = op) : encS F.immS F.rs2 F.rs1 f3 op = .word F.join :=
  encR_fields (by simp [Fields32.immS]) rfl rfl h3 (by simp [Fields32.immS]) ho

theorem encB_fields (h3 : F.f3 = f3) (ho : F.op = op) : encB F.immB F.rs2 F.rs1 f3 op = .word F.join :=
  encR_fields (by simp [Fields32.immB]) rfl rfl h3 (by simp [Fields32.immB]) ho

theorem encU_fields (ho : F.op = op) : encU F.immU F.rd op = .word F.join :=
  encR_fields (by simp [Fields32.immU]) (by simp [Fields32.immU]) (by simp [Fields32.immU]) (by simp [Fields32.immU])
    rfl ho

theorem encJ_fields (ho : F.op = op) : encJ F.immJ F.rd op = .word F.join :=
  encR_fields (by simp [Fields32.immJ]) (by simp [Fields32.immJ]) (by simp [Fields32.immJ]) (by simp [Fields32.immJ])
    rfl ho

theorem encSh_fields (h6 : F.f6 = f6) (h3 : F.f3 = f3) (ho : F.op = op) :
    encSh f6 F.shamt F.rs1 f3 F.rd op = .word F.join :=
  encR_fields (by simp [← h6, Fields32.f6, Fields32.shamt]) (by simp [Fields32.shamt]) rfl h3 rfl ho

theorem encA_fields {rs2 : BitVec 5} (h5 : F.f5 = f5) (h2 : F.rs2 = rs2) (h3 : F.f3 = f3) (ho : F.op = 0b0101111) :
    encA f5 F.aq F.rl rs2 F.rs1 f3 F.rd = .word F.join :=
  encR_fields (by simp [← h5, Fields32.f5, Fields32.aq, Fields32.rl]) h2 rfl h3 rfl ho

theorem encR4_fields {fmt : BitVec 2} (hf : F.fmt = fmt) (ho : F.op = op) :
    encR4 F.rs3 fmt F.rs2 F.rs1 F.f3 F.rd op = .word F.join :=
  encR_fields (by simp [← hf, Fields32.rs3, Fields32.f5, Fields32.fmt]) rfl rfl rfl rfl ho

theorem encV_fields {rs2 : BitVec 5} (h6 : F.f6 = f6) (h2 : F.rs2 = rs2) (h3 : F.f3 = f3) (ho : F.op = op) :
    encV f6 F.vm rs2 F.rs1 f3 F.rd op = .word F.join :=
  encR_fields (by simp [← h6, Fields32.f6, Fields32.vm]) h2 rfl h3 rfl ho

end EncodeFields

section EncodeFields16

variable {F : Fields16} {f3 : BitVec 3} {b12 : BitVec 1} {f2 : BitVec 2} {op : BitVec 2}

theorem encC_fields {r1 r2 : BitVec 5} (h3 : F.f3 = f3) (hb : F.b12 = b12) (h1 : F.r1 = r1) (h2 : F.r2 = r2)
    (ho : F.op = op) : encC f3 b12 r1 r2 op = .half F.join := by
  subst h3 hb h1 h2 ho
  rfl

theorem encCI_fields (h3 : F.f3 = f3) (ho : F.op = op) : encCI f3 F.immCI F.r1 op = .half F.join :=
  encC_fields h3 (by simp [Fields16.immCI]) rfl (by simp [Fields16.immCI]) ho

theorem encCLW_fields (h3 : F.f3 = f3) (ho : F.op = 0b00) : encCLW f3 F.uimmW F.r1p F.r2p = .half F.join :=
  encC_fields h3 (by simp [Fields16.uimmW]) (by simp [Fields16.uimmW, Fields16.r1p])
    (by simp [Fields16.uimmW, Fields16.r2p]) ho

theorem encCLD_fields (h3 : F.f3 = f3) (ho : F.op = 0b00) : encCLD f3 F.uimmD F.r1p F.r2p = .half F.join :=
  encC_fields h3 (by simp [Fields16.uimmD]) (by simp [Fields16.uimmD, Fields16.r1p])
    (by simp [Fields16.uimmD, Fields16.r2p]) ho

theorem encLwsp_fields (h3 : F.f3 = f3) (ho : F.op = 0b10) : encLwsp f3 F.uimmLwsp F.r1 = .half F.join :=
  encC_fields h3 (by simp [Fields16.uimmLwsp]) rfl (by simp [Fields16.uimmLwsp]) ho

theorem encLdsp_fields (h3 : F.f3 = f3) (ho : F.op = 0b10) : encLdsp f3 F.uimmLdsp F.r1 = .half F.join :=
  encC_fields h3 (by simp [Fields16.uimmLdsp]) rfl (by simp [Fields16.uimmLdsp]) ho

theorem encSwsp_fields (h3 : F.f3 = f3) (ho : F.op = 0b10) : encSwsp f3 F.uimmSwsp F.r2 = .half F.join :=
  encC_fields h3 (by simp [Fields16.uimmSwsp]) (by simp [Fields16.uimmSwsp]) rfl ho

theorem encSdsp_fields (h3 : F.f3 = f3) (ho : F.op = 0b10) : encSdsp f3 F.uimmSdsp F.r2 = .half F.join :=
  encC_fields h3 (by simp [Fields16.uimmSdsp]) (by simp [Fields16.uimmSdsp]) rfl ho

/-- c[11:7] of the CB and CA shapes is a function field and a register. -/
theorem Fields16.r1_eq {f2 : BitVec 2} (hh : F.f2h = f2) : F.r1 = f2 ++ F.r1p := by
  subst hh
  simp [Fields16.f2h, Fields16.r1p]

theorem encCA_fields (h3 : F.f3 = 0b100) (hh : F.f2h = 0b11) (hb : F.b12 = b12) (hl : F.f2l = f2)
    (ho : F.op = 0b01) : encCA b12 f2 F.r1p F.r2p = .half F.join :=
  encC_fields h3 hb (Fields16.r1_eq hh) (by simp [← hl, Fields16.f2l, Fields16.r2p]) ho

theorem encCB_fields (h3 : F.f3 = 0b100) (hh : F.f2h = f2) (ho : F.op = 0b01) :
    encCB f2 F.immCI F.r1p = .half F.join :=
  encC_fields h3 (by simp [Fields16.immCI]) (Fields16.r1_eq hh) (by simp [Fields16.immCI]) ho

theorem encCBr_fields (h3 : F.f3 = f3) (ho : F.op = 0b01) : encCBr f3 F.offB F.r1p = .half F.join :=
  encC_fields h3 (by simp [Fields16.offB]) (by simp [Fields16.offB, Fields16.r1p]) (by simp [Fields16.offB]) ho

theorem encCJ_fields (h3 : F.f3 = f3) (ho : F.op = 0b01) : encCJ f3 F.offJ = .half F.join :=
  encC_fields h3 (by simp [Fields16.offJ]) (by simp [Fields16.offJ]) (by simp [Fields16.offJ]) ho

end EncodeFields16

end Sys2Proof
end

section
/-! O1: decoding an encoded instruction gives it back. -/

namespace Sys2Proof

/-! ## One law for each format

Where the decoder reads, from all fields with the function fields of one instruction, that instruction with its operands
cut out by the field functions, it reads it from the encoding in that format, with the operands encoded. -/

section Formats

variable {x : Bool} {f6 : BitVec 6} {f5 : BitVec 5} {f3 : BitVec 3} {op : BitVec 7}
  {rs2 rs1 rd : BitVec 5}

theorem decode_encI {mk : BitVec 5 → BitVec 5 → BitVec 12 → Instr} {imm : BitVec 12}
    (h : ∀ F : Fields32, F.f3 = f3 → F.op = op → decode32 F = some (mk F.rd F.rs1 F.immI)) :
    decodePattern x (encI imm rs1 f3 rd op) = some (mk rd rs1 imm) :=
  (decodePattern_encR ..).trans ((h _ rfl rfl).trans (by simp [Fields32.immI]))

theorem decode_encCsr {mk : BitVec 5 → BitVec 12 → BitVec 5 → Instr} {csr : BitVec 12}
    (h : ∀ F : Fields32, F.f3 = f3 → F.op = op → decode32 F = some (mk F.rd F.immI F.rs1)) :
    decodePattern x (encI csr rs1 f3 rd op) = some (mk rd csr rs1) :=
  decode_encI (mk := fun rd rs1 csr => mk rd csr rs1) h

theorem decode_encS {mk : BitVec 5 → BitVec 5 → BitVec 12 → Instr} {imm : BitVec 12}
    (h : ∀ F : Fields32, F.f3 = f3 → F.op = op → decode32 F = some (mk F.rs2 F.rs1 F.immS)) :
    decodePattern x (encS imm rs2 rs1 f3 op) = some (mk rs2 rs1 imm) :=
  (decodePattern_encR ..).trans ((h _ rfl rfl).trans (by simp [Fields32.immS]))

theorem decode_encB {mk : BitVec 5 → BitVec 5 → BitVec 12 → Instr} {off : BitVec 12}
    (h : ∀ F : Fields32, F.f3 = f3 → F.op = op → decode32 F = some (mk F.rs1 F.rs2 F.immB)) :
    decodePattern x (encB off rs2 rs1 f3 op) = some (mk rs1 rs2 off) :=
  (decodePattern_encR ..).trans ((h _ rfl rfl).trans (by simp [Fields32.immB]))

theorem decode_encU {mk : BitVec 5 → BitVec 20 → Instr} {imm : BitVec 20}
    (h : ∀ F : Fields32, F.op = op → decode32 F = some (mk F.rd F.immU)) :
    decodePattern x (encU imm rd op) = some (mk rd imm) :=
  (decodePattern_encR ..).trans ((h _ rfl).trans (by simp [Fields32.immU]))

theorem decode_encJ {mk : BitVec 5 → BitVec 20 → Instr} {off : BitVec 20}
    (h : ∀ F : Fields32, F.op = op → decode32 F = some (mk F.rd F.immJ)) :
    decodePattern x (encJ off rd op) = some (mk rd off) :=
  (decodePattern_encR ..).trans ((h _ rfl).trans (by simp [Fields32.immJ]))

theorem decode_encSh {mk : BitVec 5 → BitVec 5 → BitVec 6 → Instr} {shamt : BitVec 6}
    (h : ∀ F : Fields32, F.f6 = f6 → F.f3 = f3 → decodeOpImm F = some (mk F.rd F.rs1 F.shamt)) :
    decodePattern x (encSh f6 shamt rs1 f3 rd 0b0010011) = some (mk rd rs1 shamt) :=
  (decodePattern_encR ..).trans ((h _ (by simp [Fields32.f6]) rfl).trans (by simp [Fields32.shamt]))

theorem decode_encA {mk : BitVec 5 → BitVec 5 → BitVec 5 → BitVec 1 → BitVec 1 → Instr} {aq rl : BitVec 1}
    (h : ∀ F : Fields32, F.f3 = f3 → F.f5 = f5 → decodeAmo F = some (mk F.rd F.rs2 F.rs1 F.aq F.rl)) :
    decodePattern x (encA f5 aq rl rs2 rs1 f3 rd) = some (mk rd rs2 rs1 aq rl) :=
  (decodePattern_encR ..).trans
    ((h _ rfl (by simp [Fields32.f5])).trans (by simp [Fields32.aq, Fields32.rl]))

theorem decode_encR4 {mk : BitVec 5 → BitVec 5 → BitVec 5 → BitVec 5 → BitVec 3 → Instr} {rs3 : BitVec 5}
    {fmt : BitVec 2}
    (h : ∀ F : Fields32, F.op = op → F.fmt = fmt → decode32 F = some (mk F.rd F.rs1 F.rs2 F.rs3 F.f3)) :
    decodePattern x (encR4 rs3 fmt rs2 rs1 f3 rd op) = some (mk rd rs1 rs2 rs3 f3) :=
  (decodePattern_encR ..).trans
    ((h _ rfl (by simp [Fields32.fmt])).trans (by simp [Fields32.rs3, Fields32.f5]))

/-- A vector load or store with a register in inst[24:20]. -/
theorem decode_encV {mk : BitVec 5 → BitVec 5 → BitVec 5 → BitVec 1 → Instr} {vm : BitVec 1}
    (dec : Fields32 → Option Instr) (hdec : ∀ F : Fields32, F.f3 = f3 → F.op = op → decode32 F = dec F)
    (h : ∀ F : Fields32, F.f6 = f6 → F.f3 = f3 → F.rs2 = rs2 → dec F = some (mk F.rd F.rs1 F.rs2 F.vm)) :
    decodePattern x (encV f6 vm rs2 rs1 f3 rd op) = some (mk rd rs1 rs2 vm) :=
  (decodePattern_encR ..).trans <| (hdec _ rfl rfl).trans <|
    (h _ (by simp [Fields32.f6]) rfl rfl).trans (by simp [Fields32.vm])

/-- A unit-stride vector load or store: inst[24:20] is a function field. -/
theorem decode_encVUnit {mk : BitVec 5 → BitVec 5 → BitVec 1 → Instr} {vm : BitVec 1}
    (dec : Fields32 → Option Instr) (hdec : ∀ F : Fields32, F.f3 = f3 → F.op = op → decode32 F = dec F)
    (h : ∀ F : Fields32, F.f6 = f6 → F.f3 = f3 → F.rs2 = rs2 → dec F = some (mk F.rd F.rs1 F.vm)) :
    decodePattern x (encV f6 vm rs2 rs1 f3 rd op) = some (mk rd rs1 vm) :=
  decode_encV (mk := fun rd rs1 _ vm => mk rd rs1 vm) dec hdec h

/-- A vector arithmetic instruction: its operands stand in the other order. -/
theorem decode_encVArith {mk : BitVec 5 → BitVec 5 → BitVec 5 → BitVec 1 → Instr} {vm : BitVec 1}
    (hdec : ∀ F : Fields32, F.f3 = f3 → F.op = 0b1010111 → decode32 F = decodeVArith F)
    (h : ∀ F : Fields32, F.f6 = f6 → F.f3 = f3 → decodeVArith F = some (mk F.rd F.rs2 F.rs1 F.vm)) :
    decodePattern x (encV f6 vm rs2 rs1 f3 rd 0b1010111) = some (mk rd rs2 rs1 vm) :=
  decode_encV (mk := fun rd rs1 rs2 vm => mk rd rs2 rs1 vm) decodeVArith hdec fun F h6 h3 _ => h F h6 h3

end Formats

section Formats16

variable {x : Bool} {f3 : BitVec 3} {b12 : BitVec 1} {f2 op : BitVec 2}

theorem decode_encCI {mk : BitVec 5 → BitVec 6 → Instr} {imm : BitVec 6} {rd : BitVec 5}
    (h : ∀ F : Fields16, F.f3 = f3 → F.r1 = rd → F.op = op → decode16 x F = some (mk F.r1 F.immCI)) :
    decodePattern x (encCI f3 imm rd op) = some (mk rd imm) :=
  (decodePattern_encC ..).trans ((h _ rfl rfl rfl).trans (by simp [Fields16.immCI]))

theorem decode_encCLW {mk : BitVec 3 → BitVec 3 → BitVec 5 → Instr} {u : BitVec 5} {rs1p r2p : BitVec 3}
    (h : ∀ F : Fields16, F.f3 = f3 → F.op = 0b00 → decode16 x F = some (mk F.r2p F.r1p F.uimmW)) :
    decodePattern x (encCLW f3 u rs1p r2p) = some (mk r2p rs1p u) :=
  (decodePattern_encC ..).trans
    ((h _ rfl rfl).trans (by simp [Fields16.r1p, Fields16.r2p, Fields16.uimmW]))

theorem decode_encCLD {mk : BitVec 3 → BitVec 3 → BitVec 5 → Instr} {u : BitVec 5} {rs1p r2p : BitVec 3}
    (h : ∀ F : Fields16, F.f3 = f3 → F.op = 0b00 → decode16 x F = some (mk F.r2p F.r1p F.uimmD)) :
    decodePattern x (encCLD f3 u rs1p r2p) = some (mk r2p rs1p u) :=
  (decodePattern_encC ..).trans
    ((h _ rfl rfl).trans (by simp [Fields16.r1p, Fields16.r2p, Fields16.uimmD]))

theorem decode_encLwsp {mk : BitVec 5 → BitVec 6 → Instr} {u : BitVec 6} {rd : BitVec 5}
    (h : ∀ F : Fields16, F.f3 = f3 → F.op = 0b10 → decode16 x F = some (mk F.r1 F.uimmLwsp)) :
    decodePattern x (encLwsp f3 u rd) = some (mk rd u) :=
  (decodePattern_encC ..).trans ((h _ rfl rfl).trans (by simp [Fields16.uimmLwsp]))

theorem decode_encLdsp {mk : BitVec 5 → BitVec 6 → Instr} {u : BitVec 6} {rd : BitVec 5}
    (h : ∀ F : Fields16, F.f3 = f3 → F.op = 0b10 → decode16 x F = some (mk F.r1 F.uimmLdsp)) :
    decodePattern x (encLdsp f3 u rd) = some (mk rd u) :=
  (decodePattern_encC ..).trans ((h _ rfl rfl).trans (by simp [Fields16.uimmLdsp]))

theorem decode_encSwsp {mk : BitVec 5 → BitVec 6 → Instr} {u : BitVec 6} {rs2 : BitVec 5}
    (h : ∀ F : Fields16, F.f3 = f3 → F.op = 0b10 → decode16 x F = some (mk F.r2 F.uimmSwsp)) :
    decodePattern x (encSwsp f3 u rs2) = some (mk rs2 u) :=
  (decodePattern_encC ..).trans ((h _ rfl rfl).trans (by simp [Fields16.uimmSwsp]))

theorem decode_encSdsp {mk : BitVec 5 → BitVec 6 → Instr} {u : BitVec 6} {rs2 : BitVec 5}
    (h : ∀ F : Fields16, F.f3 = f3 → F.op = 0b10 → decode16 x F = some (mk F.r2 F.uimmSdsp)) :
    decodePattern x (encSdsp f3 u rs2) = some (mk rs2 u) :=
  (decodePattern_encC ..).trans ((h _ rfl rfl).trans (by simp [Fields16.uimmSdsp]))

theorem decode_encCA {mk : BitVec 3 → BitVec 3 → Instr} {rdp rs2p : BitVec 3}
    (h : ∀ F : Fields16, F.f2h = 0b11 → F.b12 = b12 → F.f2l = f2 → decodeQ1Alu F = some (mk F.r1p F.r2p)) :
    decodePattern x (encCA b12 f2 rdp rs2p) = some (mk rdp rs2p) :=
  (decodePattern_encC ..).trans
    ((h _ (by simp [Fields16.f2h]) rfl (by simp [Fields16.f2l])).trans (by simp [Fields16.r1p, Fields16.r2p]))

theorem decode_encCB {mk : BitVec 3 → BitVec 6 → Instr} {imm : BitVec 6} {rdp : BitVec 3}
    (h : ∀ F : Fields16, F.f2h = f2 → decodeQ1Alu F = some (mk F.r1p F.immCI)) :
    decodePattern x (encCB f2 imm rdp) = some (mk rdp imm) :=
  (decodePattern_encC ..).trans
    ((h _ (by simp [Fields16.f2h])).trans (by simp [Fields16.r1p, Fields16.immCI]))

theorem decode_encCBr {mk : BitVec 3 → BitVec 8 → Instr} {off : BitVec 8} {rs1p : BitVec 3}
    (h : ∀ F : Fields16, F.f3 = f3 → F.op = 0b01 → decode16 x F = some (mk F.r1p F.offB)) :
    decodePattern x (encCBr f3 off rs1p) = some (mk rs1p off) :=
  (decodePattern_encC ..).trans ((h _ rfl rfl).trans (by simp [Fields16.r1p, Fields16.offB]))

theorem decode_encCJ {mk : BitVec 11 → Instr} {off : BitVec 11}
    (h : ∀ F : Fields16, F.f3 = f3 → F.op = 0b01 → decode16 x F = some (mk F.offJ)) :
    decodePattern x (encCJ f3 off) = some (mk off) :=
  (decodePattern_encC ..).trans ((h _ rfl rfl).trans (by simp [Fields16.offJ]))

end Formats16

/-! ## The round trip -/

theorem rv64_of_rv32 {c : Config} (h : Ext.rv32.present c = true) : c.rv64 = false := by
  simpa [Ext.present] using h

theorem rv64_of_f32 {c : Config} (h : Ext.f32.present c = true) : c.rv64 = false := by
  have hf : c.hasF = true ∧ c.rv64 = false := by simpa [Ext.present] using h
  exact hf.2

/-- The encoding of a well-formed instruction matches the pattern of that instruction: the formats' laws, with the
decoder evaluated on the function fields. -/
theorem decodePattern_encode (c : Config) (i : Instr) (hi : i.wf c = true) :
    decodePattern c.rv64 (encode i) = some i := by
  obtain ⟨hext, hops⟩ := Bool.and_eq_true_iff.1 hi
  cases i
  -- the formats whose function fields are fields of the word
  case lb | lbu | lh | lhu | lw | lwu | ld | addi | andi | ori | xori | slti | sltiu | jalr | flw | fld | addiw =>
    exact decode_encI (by rintro ⟨⟩ rfl rfl; rfl)
  case csrrw | csrrs | csrrc | csrrwi | csrrsi | csrrci => exact decode_encCsr (by rintro ⟨⟩ rfl rfl; rfl)
  case sb | sh | sw | sd | fsw | fsd => exact decode_encS (by rintro ⟨⟩ rfl rfl; rfl)
  case beq | bne | blt | bge | bltu | bgeu => exact decode_encB (by rintro ⟨⟩ rfl rfl; rfl)
  case lui | auipc => exact decode_encU (by rintro ⟨⟩ rfl; rfl)
  case jal => exact decode_encJ (by rintro ⟨⟩ rfl; rfl)
  case sll | srl | sra | add | sub | and | or | xor | slt | sltu | mul | mulh | mulhsu | mulhu | div | divu | rem |
    remu | addw | subw | sllw | sraw | srlw | mulw | divw | divuw | remw | remuw | slliw | srliw | sraiw |
    fenceI | sfenceVma | ecall | ebreak | mret | sret | wfi |
    faddS | fsubS | fmulS | fdivS | fsqrtS | fminS | fmaxS | fcvtWS | fcvtWuS | fcvtLS | fcvtLuS | fcvtSW | fcvtSWu |
    fcvtSL | fcvtSLu | fsgnjS | fsgnjnS | fsgnjxS | fmvXW | fmvWX | feqS | fltS | fleS | fclassS |
    faddD | fsubD | fmulD | fdivD | fsqrtD | fminD | fmaxD | fcvtWD | fcvtWuD | fcvtLD | fcvtLuD | fcvtDW | fcvtDWu |
    fcvtDL | fcvtDLu | fcvtSD | fcvtDS | fsgnjD | fsgnjnD | fsgnjxD | fmvXD | fmvDX | feqD | fltD | fleD | fclassD =>
    exact (decodePattern_encR ..).trans rfl
  -- the formats with a function field that is a part of inst[31:25]
  case fence =>
    exact (decodePattern_encR ..).trans (by simp [decode32, decodeMiscMem, Fields32.pred, Fields32.succ])
  case vsetvli | vsetvl => exact (decodePattern_encR ..).trans (by simp [decode32, decodeOpV, Fields32.zimm11])
  case slli | srli | srai => exact decode_encSh fun F h6 h3 => by unfold decodeOpImm; rw [h6, h3]; rfl
  case fmaddS | fmsubS | fnmaddS | fnmsubS | fmaddD | fmsubD | fnmaddD | fnmsubD =>
    exact decode_encR4 fun F ho hf => by
      simp [decode32, decodeMadd, decodeMsub, decodeNmsub, decodeNmadd, ho, hf]
  case lrD => exact (decodePattern_encR ..).trans (by simp [decode32, decodeAmo, Fields32.f5, Fields32.aq, Fields32.rl])
  case scD | amoaddD | amoandD | amomaxD | amomaxuD | amominD | amominuD | amominuW | amoorD | amoswapD | amoxorD =>
    exact decode_encA fun F h3 h5 => by unfold decodeAmo; rw [h3, h5]; rfl
  case vlbV | vlhV | vlwV | vlbuV | vlhuV | vlwuV | vleV =>
    exact decode_encVUnit decodeVLoad (by rintro ⟨⟩ rfl rfl; rfl) fun F h6 h3 h2 => by
      unfold decodeVLoad; rw [h6, h3]; exact if_pos h2
  case vsbV | vshV | vswV | vseV =>
    exact decode_encVUnit decodeVStore (by rintro ⟨⟩ rfl rfl; rfl) fun F h6 h3 h2 => by
      unfold decodeVStore; rw [h6, h3]; exact if_pos h2
  case vlsbV | vlshV | vlswV | vlsbuV | vlshuV | vlswuV | vlseV | vlxbV | vlxhV | vlxwV | vlxbuV | vlxhuV | vlxwuV |
    vlxeV =>
    exact decode_encV decodeVLoad (by rintro ⟨⟩ rfl rfl; rfl) fun F h6 h3 _ => by
      unfold decodeVLoad; rw [h6, h3]; rfl
  case vssbV | vsshV | vsswV | vsseV | vsxbV | vsxhV | vsxwV | vsxeV =>
    exact decode_encV decodeVStore (by rintro ⟨⟩ rfl rfl; rfl) fun F h6 h3 _ => by
      unfold decodeVStore; rw [h6, h3]; rfl
  case vaddVv | vaddVx | vaddVi | vsubVv | vsubVx | vrsubVx | vrsubVi | vandVv | vandVx | vandVi | vorVv | vorVx |
    vorVi | vxorVv | vxorVx | vxorVi | vsllVv | vsllVx | vsllVi | vsrlVv | vsrlVx | vsrlVi | vsraVv | vsraVx |
    vsraVi | vmseqVv | vmseqVx | vmseqVi | vmsneVv | vmsneVx | vmsneVi | vmsltuVv | vmsltuVx | vmsltVv | vmsltVx |
    vmsleuVv | vmsleuVx | vmsleuVi | vmsleVv | vmsleVx | vmsleVi | vmsgtuVx | vmsgtuVi | vmsgtVx | vmsgtVi |
    vminuVv | vminuVx | vminVv | vminVx | vmaxuVv | vmaxuVx | vmaxVv | vmaxVx | vmulVv | vmulVx | vmulhVv | vmulhVx |
    vmulhuVv | vmulhuVx | vmulhsuVv | vmulhsuVx | vmaccVv | vmaccVx | vnmsacVv | vnmsacVx | vmaddVv | vmaddVx |
    vnmsubVv | vnmsubVx =>
    exact decode_encVArith (by rintro ⟨⟩ rfl rfl; rfl) fun F h6 h3 => by unfold decodeVArith; rw [h6, h3]; rfl
  -- the 16-bit formats of both widths
  case cAddi | cLi | cSlli => exact decode_encCI (by rintro ⟨⟩ rfl rfl rfl; rfl)
  case cLui rd imm =>
    have hrd : rd ≠ 2 ∧ imm ≠ 0 := by simpa [Instr.operandsOk] using hops
    exact decode_encCI (by rintro ⟨⟩ rfl rfl rfl; exact if_neg hrd.1)
  case cLw | cSw => exact decode_encCLW (by rintro ⟨⟩ rfl rfl; rfl)
  case cFld | cFsd => exact decode_encCLD (by rintro ⟨⟩ rfl rfl; rfl)
  case cLwsp => exact decode_encLwsp (by rintro ⟨⟩ rfl rfl; rfl)
  case cFldsp => exact decode_encLdsp (by rintro ⟨⟩ rfl rfl; rfl)
  case cSwsp => exact decode_encSwsp (by rintro ⟨⟩ rfl rfl; rfl)
  case cFsdsp => exact decode_encSdsp (by rintro ⟨⟩ rfl rfl; rfl)
  case cBeqz | cBnez => exact decode_encCBr (by rintro ⟨⟩ rfl rfl; rfl)
  case cJ => exact decode_encCJ (by rintro ⟨⟩ rfl rfl; rfl)
  case cSub | cAnd | cOr | cXor | cAddw | cSubw =>
    exact decode_encCA fun F hh hb hl => by unfold decodeQ1Alu; rw [hh, hb, hl]; rfl
  case cSrli | cSrai | cAndi => exact decode_encCB fun F hh => by unfold decodeQ1Alu; rw [hh]; rfl
  case cAddi16sp => exact (decodePattern_encC ..).trans (by simp [decode16, decodeQ1, Fields16.imm16sp])
  case cAddi4spn => exact (decodePattern_encC ..).trans (by simp [decode16, decodeQ0, Fields16.r2p, Fields16.uimm4spn])
  case cJr | cEbreak => exact (decodePattern_encC ..).trans rfl
  case cMv rd rs2 =>
    have h2 : rs2 ≠ 0 := by simpa [Instr.operandsOk] using hops
    exact (decodePattern_encC ..).trans (if_neg h2)
  case cAdd rd rs2 =>
    have h2 : rd ≠ 0 ∧ rs2 ≠ 0 := by simpa [Instr.operandsOk] using hops
    exact (decodePattern_encC ..).trans (if_neg h2.2)
  case cJalr rs1 =>
    have h1 : rs1 ≠ 0 := by simpa [Instr.operandsOk] using hops
    exact (decodePattern_encC ..).trans (if_neg h1)
  -- the slots that XLEN chooses between
  case cLd | cSd =>
    rw [show c.rv64 = true from hext]
    exact decode_encCLD (by rintro ⟨⟩ rfl rfl; rfl)
  case cLdsp =>
    rw [show c.rv64 = true from hext]
    exact decode_encLdsp (by rintro ⟨⟩ rfl rfl; rfl)
  case cSdsp =>
    rw [show c.rv64 = true from hext]
    exact decode_encSdsp (by rintro ⟨⟩ rfl rfl; rfl)
  case cAddiw =>
    rw [show c.rv64 = true from hext]
    exact decode_encCI (by rintro ⟨⟩ rfl rfl rfl; rfl)
  case cFlw | cFsw =>
    rw [rv64_of_f32 hext]
    exact decode_encCLW (by rintro ⟨⟩ rfl rfl; rfl)
  case cFlwsp =>
    rw [rv64_of_f32 hext]
    exact decode_encLwsp (by rintro ⟨⟩ rfl rfl; rfl)
  case cFswsp =>
    rw [rv64_of_f32 hext]
    exact decode_encSwsp (by rintro ⟨⟩ rfl rfl; rfl)
  case cJal =>
    rw [rv64_of_rv32 hext]
    exact decode_encCJ (by rintro ⟨⟩ rfl rfl; rfl)

/-- Settles O1: the encoding matches the instruction's pattern, and its conditions hold. -/
theorem decodeOfEncode : Obligations.DecodeOfEncode := by
  unfold Obligations.DecodeOfEncode
  intro c i hi
  rw [decode, decodePattern_encode c i hi, Option.filter_some, if_pos hi]

end Sys2Proof
end

section
/-! O2: what the decoder reads from some bits is encoded as those bits. -/

namespace Sys2Proof

/-- Whatever the decoder's answer gives is encoded as these bits. -/
def EncodesTo (w : Code) (o : Option Instr) : Prop := ∀ i, o = some i → encode i = w

namespace EncodesTo

variable {w : Code}

theorem none : EncodesTo w none := fun i e => (Option.some_ne_none i e.symm).elim

theorem some {i : Instr} (h : encode i = w) : EncodesTo w (some i) := fun _ e => Option.some.inj e ▸ h

theorem ite {p : Prop} [Decidable p] {o o' : Option Instr} (ho : p → EncodesTo w o) (ho' : ¬p → EncodesTo w o') :
    EncodesTo w (if p then o else o') := by
  split
  · exact ho ‹p›
  · exact ho' ‹¬p›

end EncodesTo

/-! ## 32-bit instructions, decoder by decoder -/

section Words

variable {F : Fields32}

theorem encodesTo_decodeLoad (ho : F.op = 0b0000011) : EncodesTo (.word F.join) (decodeLoad F) := by
  unfold decodeLoad
  split
  case h_8 => exact .none
  all_goals exact .some (encI_fields ‹_› ho)

theorem encodesTo_decodeFpLoad (ho : F.op = 0b0000111) : EncodesTo (.word F.join) (decodeFpLoad F) := by
  unfold decodeFpLoad
  split
  case h_3 => exact .none
  all_goals exact .some (encI_fields ‹_› ho)

theorem encodesTo_decodeVLoad (ho : F.op = 0b0000111) : EncodesTo (.word F.join) (decodeVLoad F) := by
  unfold decodeVLoad
  split
  case h_22 => exact .none
  case h_1 h6 h3 | h_2 h6 h3 | h_3 h6 h3 | h_4 h6 h3 | h_5 h6 h3 | h_6 h6 h3 | h_7 h6 h3 =>
    exact .ite (fun h2 => .some (encV_fields h6 h2 h3 ho)) fun _ => .none
  all_goals exact .some (encV_fields ‹F.f6 = _› rfl ‹F.f3 = _› ho)

theorem encodesTo_decodeLoadFp (ho : F.op = 0b0000111) : EncodesTo (.word F.join) (decodeLoadFp F) := by
  unfold decodeLoadFp
  split
  · exact encodesTo_decodeFpLoad ho
  · exact encodesTo_decodeFpLoad ho
  · exact encodesTo_decodeVLoad ho

theorem encodesTo_decodeFpStore (ho : F.op = 0b0100111) : EncodesTo (.word F.join) (decodeFpStore F) := by
  unfold decodeFpStore
  split
  case h_3 => exact .none
  all_goals exact .some (encS_fields ‹_› ho)

theorem encodesTo_decodeVStore (ho : F.op = 0b0100111) : EncodesTo (.word F.join) (decodeVStore F) := by
  unfold decodeVStore
  split
  case h_13 => exact .none
  case h_1 h6 h3 | h_2 h6 h3 | h_3 h6 h3 | h_4 h6 h3 =>
    exact .ite (fun h2 => .some (encV_fields h6 h2 h3 ho)) fun _ => .none
  all_goals exact .some (encV_fields ‹F.f6 = _› rfl ‹F.f3 = _› ho)

theorem encodesTo_decodeStoreFp (ho : F.op = 0b0100111) : EncodesTo (.word F.join) (decodeStoreFp F) := by
  unfold decodeStoreFp
  split
  · exact encodesTo_decodeFpStore ho
  · exact encodesTo_decodeFpStore ho
  · exact encodesTo_decodeVStore ho

theorem encodesTo_decodeMiscMem (ho : F.op = 0b0001111) : EncodesTo (.word F.join) (decodeMiscMem F) := by
  unfold decodeMiscMem
  split
  case h_1 h3 =>
    refine .ite (fun ⟨h7, h1, hd⟩ => .some ?_) fun _ => .none
    refine encR_fields ?_ ?_ h1 h3 hd ho
    · rw [show 0#4 = F.f7.extractLsb' 3 4 from h7.symm]
      simp [Fields32.pred]
    · simp [Fields32.pred, Fields32.succ]
  case h_2 h3 => exact .ite (fun ⟨h7, h2, h1, hd⟩ => .some (encR_fields h7 h2 h1 h3 hd ho)) fun _ => .none
  case h_3 => exact .none

theorem encodesTo_decodeOpImm (ho : F.op = 0b0010011) : EncodesTo (.word F.join) (decodeOpImm F) := by
  unfold decodeOpImm
  split
  case h_7 h3 => exact .ite (fun h6 => .some (encSh_fields h6 h3 ho)) fun _ => .none
  case h_8 h3 =>
    split
    case h_3 => exact .none
    all_goals exact .some (encSh_fields ‹F.f6 = _› h3 ho)
  all_goals exact .some (encI_fields ‹_› ho)

theorem encodesTo_decodeOpImm32 (ho : F.op = 0b0011011) : EncodesTo (.word F.join) (decodeOpImm32 F) := by
  unfold decodeOpImm32
  split
  case h_1 h3 => exact .some (encI_fields h3 ho)
  case h_2 h3 => exact .ite (fun h7 => .some (encR_fields h7 rfl rfl h3 rfl ho)) fun _ => .none
  case h_3 h3 =>
    split
    case h_3 => exact .none
    all_goals exact .some (encR_fields ‹F.f7 = _› rfl rfl h3 rfl ho)
  case h_4 => exact .none

theorem encodesTo_decodeStore (ho : F.op = 0b0100011) : EncodesTo (.word F.join) (decodeStore F) := by
  unfold decodeStore
  split
  case h_5 => exact .none
  all_goals exact .some (encS_fields ‹_› ho)

theorem encodesTo_decodeAmo (ho : F.op = 0b0101111) : EncodesTo (.word F.join) (decodeAmo F) := by
  unfold decodeAmo
  split
  case h_1 h3 h5 => exact .ite (fun h2 => .some (encA_fields h5 h2 h3 ho)) fun _ => .none
  case h_13 => exact .none
  all_goals exact .some (encA_fields ‹F.f5 = _› rfl ‹F.f3 = _› ho)

theorem encodesTo_decodeOp (ho : F.op = 0b0110011) : EncodesTo (.word F.join) (decodeOp F) := by
  unfold decodeOp
  split
  case h_19 => exact .none
  all_goals exact .some (encR_fields ‹F.f7 = _› rfl rfl ‹F.f3 = _› rfl ho)

theorem encodesTo_decodeOp32 (ho : F.op = 0b0111011) : EncodesTo (.word F.join) (decodeOp32 F) := by
  unfold decodeOp32
  split
  case h_11 => exact .none
  all_goals exact .some (encR_fields ‹F.f7 = _› rfl rfl ‹F.f3 = _› rfl ho)

theorem encodesTo_decodeMadd (ho : F.op = 0b1000011) : EncodesTo (.word F.join) (decodeMadd F) := by
  unfold decodeMadd
  split
  case h_3 => exact .none
  all_goals exact .some (encR4_fields ‹_› ho)

theorem encodesTo_decodeMsub (ho : F.op = 0b1000111) : EncodesTo (.word F.join) (decodeMsub F) := by
  unfold decodeMsub
  split
  case h_3 => exact .none
  all_goals exact .some (encR4_fields ‹_› ho)

theorem encodesTo_decodeNmsub (ho : F.op = 0b1001011) : EncodesTo (.word F.join) (decodeNmsub F) := by
  unfold decodeNmsub
  split
  case h_3 => exact .none
  all_goals exact .some (encR4_fields ‹_› ho)

theorem encodesTo_decodeNmadd (ho : F.op = 0b1001111) : EncodesTo (.word F.join) (decodeNmadd F) := by
  unfold decodeNmadd
  split
  case h_3 => exact .none
  all_goals exact .some (encR4_fields ‹_› ho)

theorem encodesTo_decodeOpFp (ho : F.op = 0b1010011) : EncodesTo (.word F.join) (decodeOpFp F) := by
  unfold decodeOpFp
  split
  -- a rounding mode in funct3, rs2 an operand
  case h_1 h7 | h_2 h7 | h_3 h7 | h_4 h7 | h_13 h7 | h_14 h7 | h_15 h7 | h_16 h7 =>
    exact .some (encR_fields h7 rfl rfl rfl rfl ho)
  -- rs2 is a function field
  case h_5 h7 | h_17 h7 | h_20 h7 | h_21 h7 =>
    split
    case h_2 => exact .none
    all_goals exact .some (encR_fields h7 ‹F.rs2 = _› rfl rfl rfl ho)
  case h_7 h7 | h_8 h7 | h_22 h7 | h_23 h7 =>
    split
    case h_5 => exact .none
    all_goals exact .some (encR_fields h7 ‹F.rs2 = _› rfl rfl rfl ho)
  -- funct3 is a function field
  case h_6 h7 | h_19 h7 =>
    split
    case h_3 => exact .none
    all_goals exact .some (encR_fields h7 rfl rfl ‹F.f3 = _› rfl ho)
  case h_9 h7 | h_12 h7 | h_18 h7 | h_24 h7 =>
    split
    case h_4 => exact .none
    all_goals exact .some (encR_fields h7 rfl rfl ‹F.f3 = _› rfl ho)
  -- both are
  case h_10 h7 | h_26 h7 =>
    split
    case h_3 => exact .none
    all_goals exact .some (encR_fields h7 ‹F.rs2 = _› rfl ‹F.f3 = _› rfl ho)
  case h_11 h7 | h_25 h7 =>
    split
    case h_2 => exact .none
    all_goals exact .some (encR_fields h7 ‹F.rs2 = _› rfl ‹F.f3 = _› rfl ho)
  case h_27 => exact .none

theorem encodesTo_decodeVArith (ho : F.op = 0b1010111) : EncodesTo (.word F.join) (decodeVArith F) := by
  unfold decodeVArith
  split
  case h_70 => exact .none
  all_goals exact .some (encV_fields ‹F.f6 = _› rfl ‹F.f3 = _› ho)

theorem encodesTo_decodeOpV (ho : F.op = 0b1010111) : EncodesTo (.word F.join) (decodeOpV F) := by
  unfold decodeOpV
  split
  case h_1 h3 =>
    split
    case h_1 h31 =>
      refine .some (encR_fields ?_ ?_ rfl h3 rfl ho)
      · simp [← h31, Fields32.zimm11]
      · simp [Fields32.zimm11]
    case h_2 => exact .ite (fun h7 => .some (encR_fields h7 rfl rfl h3 rfl ho)) fun _ => .none
  case h_2 => exact encodesTo_decodeVArith ho

theorem encodesTo_decodeBranch (ho : F.op = 0b1100011) : EncodesTo (.word F.join) (decodeBranch F) := by
  unfold decodeBranch
  split
  case h_7 => exact .none
  all_goals exact .some (encB_fields ‹_› ho)

theorem encodesTo_decodeSystem (ho : F.op = 0b1110011) : EncodesTo (.word F.join) (decodeSystem F) := by
  unfold decodeSystem
  split
  case h_7 h3 =>
    refine .ite (fun hd => ?_) fun _ => .none
    split
    case h_1 h7 => exact .some (encR_fields h7 rfl rfl h3 hd ho)
    case h_2 =>
      refine .ite (fun h1 => ?_) fun _ => .none
      split
      case h_6 => exact .none
      all_goals exact .some (encR_fields ‹F.f7 = _› ‹F.rs2 = _› h1 h3 hd ho)
  case h_8 => exact .none
  all_goals exact .some (encI_fields ‹_› ho)

theorem encodesTo_decode32 (F : Fields32) : EncodesTo (.word F.join) (decode32 F) := by
  unfold decode32
  split
  case h_1 ho => exact encodesTo_decodeLoad ho
  case h_2 ho => exact encodesTo_decodeLoadFp ho
  case h_3 ho => exact encodesTo_decodeMiscMem ho
  case h_4 ho => exact encodesTo_decodeOpImm ho
  case h_5 ho => exact .some (encU_fields ho)
  case h_6 ho => exact encodesTo_decodeOpImm32 ho
  case h_7 ho => exact encodesTo_decodeStore ho
  case h_8 ho => exact encodesTo_decodeStoreFp ho
  case h_9 ho => exact encodesTo_decodeAmo ho
  case h_10 ho => exact encodesTo_decodeOp ho
  case h_11 ho => exact .some (encU_fields ho)
  case h_12 ho => exact encodesTo_decodeOp32 ho
  case h_13 ho => exact encodesTo_decodeMadd ho
  case h_14 ho => exact encodesTo_decodeMsub ho
  case h_15 ho => exact encodesTo_decodeNmsub ho
  case h_16 ho => exact encodesTo_decodeNmadd ho
  case h_17 ho => exact encodesTo_decodeOpFp ho
  case h_18 ho => exact encodesTo_decodeOpV ho
  case h_19 ho => exact encodesTo_decodeBranch ho
  case h_20 ho => exact .ite (fun h3 => .some (encI_fields h3 ho)) fun _ => .none
  case h_21 ho => exact .some (encJ_fields ho)
  case h_22 ho => exact encodesTo_decodeSystem ho
  case h_23 => exact .none

end Words

/-! ## 16-bit instructions, quadrant by quadrant -/

section Halves

variable {F : Fields16}

theorem eq_one_of_ne {a : BitVec 1} (h0 : a ≠ 0) : a = 1 := by revert a; decide

theorem eq_three_of_ne {a : BitVec 2} (h0 : a ≠ 0) (h1 : a ≠ 1) (h2 : a ≠ 2) : a = 3 := by revert a; decide

theorem encodesTo_decodeQ0 (x : Bool) (ho : F.op = 0b00) : EncodesTo (.half F.join) (decodeQ0 x F) := by
  unfold decodeQ0
  split
  case h_1 h3 =>
    refine .some (encC_fields h3 ?_ ?_ ?_ ho)
    · simp [Fields16.uimm4spn]
    · simp [Fields16.uimm4spn]
    · simp [Fields16.uimm4spn, Fields16.r2p]
  case h_2 h3 | h_5 h3 => exact .some (encCLD_fields h3 ho)
  case h_3 h3 | h_6 h3 => exact .some (encCLW_fields h3 ho)
  case h_4 h3 | h_7 h3 => exact .ite (fun _ => .some (encCLD_fields h3 ho)) fun _ => .some (encCLW_fields h3 ho)
  case h_8 => exact .none

theorem encodesTo_decodeQ1Alu (h3 : F.f3 = 0b100) (ho : F.op = 0b01) :
    EncodesTo (.half F.join) (decodeQ1Alu F) := by
  unfold decodeQ1Alu
  split
  case h_1 hh | h_2 hh | h_3 hh => exact .some (encCB_fields h3 hh ho)
  case h_4 h0 h1 h2 =>
    have hh : F.f2h = 0b11 := eq_three_of_ne h0 h1 h2
    split
    case h_7 => exact .none
    all_goals exact .some (encCA_fields h3 hh ‹F.b12 = _› ‹F.f2l = _› ho)

theorem encodesTo_decodeQ1 (x : Bool) (ho : F.op = 0b01) : EncodesTo (.half F.join) (decodeQ1 x F) := by
  unfold decodeQ1
  split
  case h_1 h3 | h_3 h3 => exact .some (encCI_fields h3 ho)
  case h_2 h3 => exact .ite (fun _ => .some (encCI_fields h3 ho)) fun _ => .some (encCJ_fields h3 ho)
  case h_4 h3 =>
    refine .ite (fun h1 => .some (encC_fields h3 ?_ h1 ?_ ho)) fun _ => .some (encCI_fields h3 ho)
    · simp [Fields16.imm16sp]
    · simp [Fields16.imm16sp]
  case h_5 h3 => exact encodesTo_decodeQ1Alu h3 ho
  case h_6 h3 => exact .some (encCJ_fields h3 ho)
  case h_7 h3 | h_8 h3 => exact .some (encCBr_fields h3 ho)
  case h_9 => exact .none

theorem encodesTo_decodeQ2Cr (h3 : F.f3 = 0b100) (ho : F.op = 0b10) : EncodesTo (.half F.join) (decodeQ2Cr F) := by
  unfold decodeQ2Cr
  split
  case h_1 hb =>
    exact .ite (fun h2 => .some (encC_fields h3 hb rfl h2 ho)) fun _ => .some (encC_fields h3 hb rfl rfl ho)
  case h_2 h0 =>
    have hb : F.b12 = 0b1 := eq_one_of_ne h0
    exact .ite
      (fun h2 => .ite (fun h1 => .some (encC_fields h3 hb h1 h2 ho)) fun _ => .some (encC_fields h3 hb rfl h2 ho))
      fun _ => .some (encC_fields h3 hb rfl rfl ho)

theorem encodesTo_decodeQ2 (x : Bool) (ho : F.op = 0b10) : EncodesTo (.half F.join) (decodeQ2 x F) := by
  unfold decodeQ2
  split
  case h_1 h3 => exact .some (encCI_fields h3 ho)
  case h_2 h3 => exact .some (encLdsp_fields h3 ho)
  case h_3 h3 => exact .some (encLwsp_fields h3 ho)
  case h_4 h3 => exact .ite (fun _ => .some (encLdsp_fields h3 ho)) fun _ => .some (encLwsp_fields h3 ho)
  case h_5 h3 => exact encodesTo_decodeQ2Cr h3 ho
  case h_6 h3 => exact .some (encSdsp_fields h3 ho)
  case h_7 h3 => exact .some (encSwsp_fields h3 ho)
  case h_8 h3 => exact .ite (fun _ => .some (encSdsp_fields h3 ho)) fun _ => .some (encSwsp_fields h3 ho)
  case h_9 => exact .none

theorem encodesTo_decode16 (x : Bool) (F : Fields16) : EncodesTo (.half F.join) (decode16 x F) := by
  unfold decode16
  split
  case h_1 ho => exact encodesTo_decodeQ0 x ho
  case h_2 ho => exact encodesTo_decodeQ1 x ho
  case h_3 ho => exact encodesTo_decodeQ2 x ho
  case h_4 => exact .none

end Halves

/-- The instruction whose pattern some bits match is encoded as those bits. -/
theorem encodesTo_decodePattern (x : Bool) (w : Code) : EncodesTo w (decodePattern x w) := by
  cases w with
  | half w => simpa [decodePattern] using encodesTo_decode16 x (Fields16.split w)
  | word w => simpa [decodePattern] using encodesTo_decode32 (Fields32.split w)

/-- Settles O2: the decoder passes on the instruction of the pattern where it is well formed. -/
theorem encodeOfDecode : Obligations.EncodeOfDecode := by
  unfold Obligations.EncodeOfDecode
  intro c w i hd
  obtain ⟨hpattern, hwf⟩ := Option.filter_eq_some_iff.1 hd
  exact ⟨encodesTo_decodePattern c.rv64 w i hpattern, hwf⟩

end Sys2Proof
end

section
/-! The step that runs what it fetches, and the integer instructions with an immediate or of 16 bits. -/

namespace Sys2Proof.Machine

open Sys2Proof

variable {c : Config}

/-! ## The step (R175, R725) -/

/-- A hart with no interrupt to take goes on to the code of its fetch. -/
theorem runStep_of_fetched {s : State} {code : Code} {k : Hart s.cfg} (hi : s.hart.interrupt = none)
    (hf : s.hart.fetch = .fetched code k) : s.runStep = (s.withHart k).execCode code := by
  unfold State.runStep
  rw [hi, hf]

theorem State.execCode_of_some {s : State} {code : Code} {i : Instr} (hd : decode s.cfg code = some i) :
    s.execCode code = exec i s := by
  unfold State.execCode
  rw [hd]

theorem State.execCode_of_none {s : State} {code : Code} (hd : decode s.cfg code = none) :
    s.execCode code = s.run code .illegal := by
  unfold State.execCode
  rw [hd]

/-- Settles O4: a hart that is not waiting and takes no interrupt goes on to the code of its fetch. -/
theorem stepRunsDecoded : Obligations.StepRunsDecoded := by
  unfold Obligations.StepRunsDecoded
  intro s code h ⟨hp, hw, hi, hf⟩
  have hstep : step s = (s.withHart h).execCode code := calc
    step s = (s.withHart s.hart.sample).runStep := by rw [step_eq, hp, hw]; rfl
    _ = (s.withHart h).execCode code := runStep_of_fetched hi hf
  exact ⟨fun i hd => hstep.trans (State.execCode_of_some hd), fun hd => hstep.trans (State.execCode_of_none hd)⟩

/-! ## Immediates -/

theorem immX_toInt (c : Config) (imm : BitVec 12) : (immX c imm).toInt = imm.toInt :=
  BitVec.toInt_signExtend_of_le (le_trans (by norm_num) (xlen_ge c))

/-- An immediate whose k low bits are zero by construction (R161, R162). -/
theorem append_zeros_signExtend_eq {m : Nat} (imm : BitVec m) (k : Nat) :
    (imm ++ 0#k).signExtend c.xlen = BitVec.ofInt c.xlen (2 ^ k * imm.toInt) := by
  rw [signExtend_eq_ofInt, append_zeros_toInt, mul_comm]

/-- Settles O19: each instruction is the shared result shape, with its value as an integer. -/
theorem integerImmediate : Obligations.IntegerImmediate := by
  unfold Obligations.IntegerImmediate
  intro s rd rs1 imm shamt up
  exact ⟨State.writesX_of rfl (add_ofInt _ _), State.writesX_of rfl rfl, State.writesX_of rfl rfl,
    State.writesX_of rfl rfl,
    State.writesX_of rfl (boolX_eq (BitVec.slt_iff_toInt_lt.trans (by rw [immX_toInt]))),
    State.writesX_of rfl (boolX_eq BitVec.ult_iff_toNat_lt),
    State.writesX_of rfl (shiftLeft_eq_ofInt _ _), State.writesX_of rfl (shiftRight_eq_ofInt _ _),
    State.writesX_of rfl (sshiftRight_eq_ofInt _ _), State.writesX_of rfl (upperX_eq _ _),
    State.writesX_of rfl (by rw [upperX_eq, add_ofInt_toNat])⟩

/-- Settles O23: each instruction is the shared result shape, on the registers its short fields name. -/
theorem compressedInteger : Obligations.CompressedInteger := by
  unfold Obligations.CompressedInteger
  intro s rd rs2 d q imm sh u
  dsimp only
  simp only [← creg_eq]
  exact ⟨State.writesX_of rfl rfl, State.writesX_of rfl rfl, State.writesX_of rfl rfl,
    State.writesX_of rfl (by rw [append_zeros_signExtend_eq]; rfl),
    State.writesX_of rfl (by rw [scaledX_eq]; rfl),
    State.writesX_of rfl rfl, State.writesX_of rfl rfl, State.writesX_of rfl rfl, State.writesX_of rfl rfl,
    State.writesX_of rfl (shiftLeft_eq_ofInt _ _), State.writesX_of rfl (shiftRight_eq_ofInt _ _),
    State.writesX_of rfl (sshiftRight_eq_ofInt _ _), State.writesX_of rfl rfl, State.writesX_of rfl rfl,
    State.writesX_of rfl (append_zeros_signExtend_eq _ _),
    State.writesX_of rfl (congrArg _ (add_eq_ofInt _ _)),
    State.writesX_of rfl (congrArg _ (low32_add_ofInt _ _ _)),
    State.writesX_of rfl (congrArg _ (sub_eq_ofInt _ _))⟩

end Sys2Proof.Machine
end

section
/-! The conditional branches, the environment call and the breakpoints, the trap returns, the interrupts of a step and
the waiting hart, and eight words of the spec. -/

namespace Sys2Proof.Machine

open Sys2Proof

variable {c : Config}

/-! ## Words of the spec -/

/-- A word decodes to the instruction it encodes. -/
theorem decode_of_encode {w : Code} {i : Instr} (hw : encode i = w) (hi : i.wf c = true) :
    decode c w = some i := hw ▸ decodeOfEncode c i hi

/-- Settles O3: each word is the encoding of its instruction, which the default configuration has. -/
theorem wordsOfTheSpecDecode : Obligations.WordsOfTheSpecDecode := by
  unfold Obligations.WordsOfTheSpecDecode
  exact ⟨decode_of_encode rfl rfl, decode_of_encode rfl rfl, decode_of_encode rfl rfl, decode_of_encode rfl rfl,
    decode_of_encode rfl rfl, decode_of_encode rfl rfl, decode_of_encode rfl rfl, decode_of_encode rfl rfl⟩

/-! ## Conditional branches (R300 to R306, R361, R362) -/

/-- A meaning that is the shared branch follows the rule of R300, where its Boolean decides the condition. -/
theorem State.branchRule_of {s : State} {i : Instr} {taken : Bool} {cond : Prop} {n : Nat} {off : BitVec n}
    (h : exec i s = s.run (encode i) (s.hart.branch taken off)) (hcond : taken = true ↔ cond) :
    s.BranchRule i cond (BitVec.ofInt s.cfg.xlen (2 * off.toInt)) := by
  rw [← offsetX_eq]
  constructor
  · intro hyes
    exact State.jumpsTo_of (h.trans (congrArg (s.run _) (if_pos (hcond.2 hyes))))
  · intro hno
    exact State.onlyPasses_of (h.trans (congrArg (s.run _) (if_neg (mt hcond.1 hno))))

/-- Settles O27: each instruction is the shared branch, with its comparison as the condition. -/
theorem branches : Obligations.Branches := by
  unfold Obligations.Branches
  intro s rs1 rs2 off d coff
  dsimp only
  rw [← creg_eq]
  exact ⟨State.branchRule_of rfl beq_iff_eq, State.branchRule_of rfl bne_iff_ne,
    State.branchRule_of rfl BitVec.slt_iff_toInt_lt, State.branchRule_of rfl BitVec.sle_iff_toInt_le,
    State.branchRule_of rfl BitVec.ult_iff_toNat_lt, State.branchRule_of rfl BitVec.ule_iff_toNat_le,
    State.branchRule_of rfl beq_iff_eq, State.branchRule_of rfl bne_iff_ne⟩

/-! ## ecall and the breakpoints (R330, R331, R367) -/

theorem Priv.ecallExc_code (p : Priv) : p.ecallExc.code = (match p with | .u => 8 | .s => 9 | .m => 11) := by
  cases p <;> rfl

/-- An exception does not retire the instruction (R64). -/
@[simp] theorem Hart.raise_minstret (h : Hart c) (e : Exc) (tval : BitVec c.xlen) :
    (h.raise e tval).minstret = h.minstret := (h.trap_counters false e.code tval).2

/-- Settles O15: each instruction is its exception, in every mode. -/
theorem ecallAndBreakpoints : Obligations.EcallAndBreakpoints := by
  unfold Obligations.EcallAndBreakpoints
  intro s
  exact ⟨s.hart.priv.ecallExc, s.hart.priv.ecallExc_code, rfl, State.raises_of (code := Enc.ecall) rfl,
    State.raises_of (code := Enc.ebreak) rfl, State.raises_of (code := Enc.cEbreak) rfl, s.hart.raise_minstret⟩

/-! ## The trap returns (R332, R333, R713) -/

/-- The hart after mret. -/
def Hart.afterMret (h : Hart c) : Hart c := ({ h.mretState with pc := h.mepc }).retire

/-- The hart after sret. -/
def Hart.afterSret (h : Hart c) : Hart c := ({ h.sretState with pc := h.sepc }).retire

theorem exec_mret_of_machine {s : State} (hm : s.hart.priv = .m) :
    exec .mret s = .next (s.withHart s.hart.afterMret) :=
  congrArg (s.run Enc.mret) (if_neg (by simp [hm]))

/-- Where sret is legal (R333): S-mode exists, and the mode is M, or S with TSR = 0. -/
def Hart.MaySret (h : Hart c) : Prop := c.hasS = true ∧ h.priv ≠ .u ∧ ¬(h.priv = .s ∧ h.mstatus.tsr = true)

/-- The test of `execSret` fails exactly where sret is legal. -/
theorem Hart.maySret_iff {h : Hart c} :
    h.MaySret ↔ ¬(!c.hasS || h.priv == .u || (h.priv == .s && h.mstatus.tsr)) = true := by
  simp only [Hart.MaySret, Bool.or_eq_true, Bool.and_eq_true, Bool.not_eq_true', beq_iff_eq, not_or, Bool.not_eq_false,
    and_assoc, ne_eq]

theorem exec_sret_of_maySret {s : State} (h : s.hart.MaySret) : exec .sret s = .next (s.withHart s.hart.afterSret) :=
  congrArg (s.run Enc.sret) (if_neg (Hart.maySret_iff.1 h))

theorem raisesIllegal_sret {s : State} (h : ¬s.hart.MaySret) : s.RaisesIllegal .sret :=
  State.raisesIllegal_of (congrArg (s.run Enc.sret) (if_pos (by rwa [Hart.maySret_iff, not_not] at h)))

/-- Settles O13: both returns complete where they are legal, with the fields of R713. -/
theorem trapReturns : Obligations.TrapReturns := by
  unfold Obligations.TrapReturns
  intro s h ok
  refine ⟨fun hm => ⟨_, exec_mret_of_machine hm, rfl, rfl, ?_, rfl, rfl, rfl, rfl⟩, fun hm => ?_,
    fun hok => ⟨_, exec_sret_of_maySret hok, rfl, rfl, rfl, rfl, rfl, rfl, rfl⟩, raisesIllegal_sret⟩
  · have hmprv : (if h.mstatus.mpp = .m then h.mstatus.mprv else false) =
        (h.mstatus.mprv && decide (h.mstatus.mpp = .m)) := by
      split <;> simp [*]
    rw [← hmprv]
    rfl
  · exact (exec_mret_ends s).resolve_right fun ⟨hm', _⟩ => hm hm'

/-! ## A trap and its return (R710, R713) -/

theorem Hart.trap_of_not_delegated {h : Hart c} {intr : Bool} {code : Nat} (hd : h.delegated intr code = false)
    (tval : BitVec c.xlen) : h.trap intr code tval = h.trapToM intr code tval :=
  if_neg (by simp [hd])

theorem Hart.trap_of_delegated {h : Hart c} {intr : Bool} {code : Nat} (hd : h.delegated intr code = true)
    (tval : BitVec c.xlen) : h.trap intr code tval = h.trapToS intr code tval :=
  if_pos hd

/-- SPP tells the two modes below M-mode apart. -/
theorem Priv.of_spp {p : Priv} (hp : p ≠ .m) : (if p == .s then Priv.s else .u) = p := by
  cases p with
  | u => rfl
  | s => rfl
  | m => exact absurd rfl hp

/-- Settles O14: the return undoes what the trap saved in mepc, MPP and MPIE, or in sepc, SPP and SPIE. -/
theorem trapThenReturnRestores : Obligations.TrapThenReturnRestores := by
  unfold Obligations.TrapThenReturnRestores
  intro s intr code tval
  dsimp only
  constructor
  · intro hd
    rw [Hart.trap_of_not_delegated hd]
    exact ⟨_, exec_mret_of_machine rfl, rfl, rfl, rfl, rfl, rfl, rfl, rfl⟩
  · intro hd htsr
    obtain ⟨hS, hm, -⟩ := Hart.delegated_iff.1 hd
    have hmay : (s.hart.trapToS intr code tval).MaySret :=
      ⟨hS, (by decide : Priv.s ≠ .u), fun ⟨_, h⟩ => Bool.false_ne_true (htsr.symm.trans h)⟩
    rw [Hart.trap_of_delegated hd]
    exact ⟨_, exec_sret_of_maySret hmay, rfl, Priv.of_spp hm, rfl, rfl, rfl, rfl, rfl⟩

/-! ## Interrupts and waiting (R725, R745) -/

/-- Sampling and waking commute. -/
theorem Hart.sample_awake (h : Hart c) : h.awake.sample = h.sample.awake := h.sample_not_waiting

/-- A hart takes the interrupt that is selected, before it fetches. -/
theorem runStep_of_interrupt {s : State} {code : Nat} (hi : s.hart.interrupt = some code) :
    s.runStep = .next (s.withHart ((s.hart.trap true code 0).tick 0)) := by
  unfold State.runStep
  rw [hi]

/-- A waiting hart with nothing pending that is enabled only samples (R745). -/
theorem step_of_waits {s : State} (hp : s.hart.pcUnspecified = false) (hw : s.hart.waiting = true)
    (hpend : s.hart.sample.pend = 0) : step s = .next (s.withHart (s.hart.sample.tick 0)) := by
  rw [step_eq, hp, hw, if_neg Bool.false_ne_true, if_pos rfl, if_pos hpend]

/-- Settles O17: the step of a running, of a waiting and of a waking hart. -/
theorem interruptsAndWaiting : Obligations.InterruptsAndWaiting := by
  unfold Obligations.InterruptsAndWaiting
  intro s hp p
  refine ⟨fun hw code hi => ?_, fun hw hpend => ⟨_, step_of_waits hp hw hpend, rfl⟩, fun _ hpend => ?_⟩
  · have hawake : p.awake = p := Hart.awake_of_running (s.hart.sample_waiting.trans hw)
    have hstep : step s = (s.withHart p.awake).runStep := step_of_runs hp fun hwait => by simp [hw] at hwait
    rw [hawake] at hstep
    refine ⟨_, hstep.trans (runStep_of_interrupt hi), ?_, rfl⟩
    exact (p.trap_counters true code 0).2.trans s.hart.sample_minstret
  · calc
      step s = (s.withHart p.awake).runStep := step_of_runs hp fun _ => hpend
      _ = (s.withHart s.hart.awake.sample.awake).runStep := by rw [s.hart.sample_awake]; rfl
      _ = step (s.withHart s.hart.awake) := (step_of_runs (s := s.withHart s.hart.awake) hp fun hw => by cases hw).symm

end Sys2Proof.Machine
end

section
/-! Multiplication and division (R340 to R349): the results as exact integers, and the corner cases of the division. -/

namespace Sys2Proof.Machine

open Sys2Proof

/-! ## Quotients and remainders of words as integers -/

section Words

variable {n : Nat} {a b : BitVec n}

theorem toInt_eq_neg_one_iff (hn : 0 < n) : b.toInt = -1 ↔ b = BitVec.allOnes n := by
  rw [← BitVec.toInt_inj, BitVec.toInt_allOnes, if_pos hn]

theorem toInt_eq_least_iff (hn : 0 < n) : a.toInt = -2 ^ (n - 1) ↔ a = BitVec.intMin n := by
  rw [← BitVec.toInt_inj, BitVec.toInt_intMin_of_pos hn]

theorem divSigned_zero (a : BitVec n) : divSigned a 0 = BitVec.allOnes n := if_pos rfl

theorem divUnsigned_zero (a : BitVec n) : divUnsigned a 0 = BitVec.allOnes n := if_pos rfl

theorem remSigned_zero (a : BitVec n) : remSigned a 0 = a := if_pos rfl

theorem remUnsigned_zero (a : BitVec n) : remUnsigned a 0 = a := if_pos rfl

theorem allOnes_ne_zero (hn : 0 < n) : BitVec.allOnes n ≠ 0 := by
  rw [← BitVec.toInt_ne, BitVec.toInt_allOnes, if_pos hn]
  simp

/-- Signed overflow: the quotient, one more than the greatest number, wraps around to the dividend. -/
theorem divSigned_overflow (hn : 0 < n) : divSigned (BitVec.intMin n) (BitVec.allOnes n) = BitVec.intMin n := by
  rw [divSigned, if_neg (allOnes_ne_zero hn), ← BitVec.neg_one_eq_allOnes, BitVec.intMin_sdiv_neg_one]

theorem remSigned_toInt (hb : b ≠ 0) : (remSigned a b).toInt = a.toInt.tmod b.toInt := by
  rw [remSigned, if_neg hb, BitVec.toInt_srem]

/-- Every number is a multiple of -1, the least one too. -/
theorem remSigned_allOnes (hn : 0 < n) (a : BitVec n) : remSigned a (BitVec.allOnes n) = 0 := by
  apply BitVec.eq_of_toInt_eq
  rw [remSigned_toInt (allOnes_ne_zero hn), BitVec.toInt_allOnes, if_pos hn, Int.tmod_neg, Int.tmod_one]
  exact BitVec.toInt_zero.symm

/-- Without overflow the signed quotient is a number of the width. -/
theorem divSigned_toInt (hb : b ≠ 0) (h : ¬(a = BitVec.intMin n ∧ b = BitVec.allOnes n)) :
    (divSigned a b).toInt = a.toInt.tdiv b.toInt := by
  rw [divSigned, if_neg hb]
  apply BitVec.toInt_sdiv_of_ne_or_ne
  rw [BitVec.neg_one_eq_allOnes]
  exact not_and_or.mp h

theorem divUnsigned_toNat (hb : b ≠ 0) : (divUnsigned a b).toNat = a.toNat / b.toNat := by
  rw [divUnsigned, if_neg hb, BitVec.udiv_eq, BitVec.toNat_udiv]

theorem remUnsigned_toNat (hb : b ≠ 0) : (remUnsigned a b).toNat = a.toNat % b.toNat := by
  rw [remUnsigned, if_neg hb, BitVec.umod_eq, BitVec.toNat_umod]

end Words

/-- The remainder of a division that rounds towards zero is 0 or has the sign of the dividend. -/
theorem tmod_eq_zero_or_neg_iff (a b : Int) : a.tmod b = 0 ∨ (a.tmod b < 0 ↔ a < 0) := by
  have hs := Int.sign_tmod a b
  split at hs
  · exact .inl (Int.sign_eq_zero_iff_zero.mp hs)
  · right
    rw [← Int.sign_eq_neg_one_iff_neg, hs, Int.sign_eq_neg_one_iff_neg]

theorem natAbs_tmod_lt (a : Int) {b : Int} (hb : b ≠ 0) : (a.tmod b).natAbs < b.natAbs := by
  rw [Int.natAbs_tmod]
  exact Nat.mod_lt _ (Int.natAbs_pos.mpr hb)

/-! ## The statements -/

/-- Settles O20: each instruction is the shared result shape, with its value as an integer. -/
theorem multiplyDivide : Obligations.MultiplyDivide := by
  unfold Obligations.MultiplyDivide
  intro s rd rs1 rs2
  exact ⟨State.writesX_of rfl (mul_eq_ofInt _ _), State.writesX_of rfl (highProduct_eq true true _ _),
    State.writesX_of rfl (highProduct_eq true false _ _), State.writesX_of rfl (highProduct_eq false false _ _),
    State.writesX_of rfl (divSigned_eq _ _), State.writesX_of rfl (divUnsigned_eq _ _),
    State.writesX_of rfl (remSigned_eq _ _), State.writesX_of rfl (remUnsigned_eq _ _)⟩

/-- Settles O21: a division by 0, the overflow, and the signed and the unsigned division of all other operands. -/
theorem divisionCorners : Obligations.DivisionCorners := by
  unfold Obligations.DivisionCorners
  intro s rd rs1 rs2 a b least
  have hn : 0 < s.cfg.xlen := xlen_pos s.cfg
  refine ⟨divSigned a b, remSigned a b, divUnsigned a b, remUnsigned a b, State.writesX_of rfl rfl,
    State.writesX_of rfl rfl, State.writesX_of rfl rfl, State.writesX_of rfl rfl, fun hb => ?zero,
    fun ha hb => ?overflow, fun hb h => ?signed, fun hb => ?unsigned⟩
  case zero =>
    rw [hb, divSigned_zero, divUnsigned_zero, remSigned_zero, remUnsigned_zero]
    exact ⟨(toInt_eq_neg_one_iff hn).mpr rfl, BitVec.toNat_allOnes, rfl, rfl⟩
  case overflow =>
    rw [(toInt_eq_least_iff hn).mp ha, (toInt_eq_neg_one_iff hn).mp hb]
    exact ⟨divSigned_overflow hn, remSigned_allOnes hn _⟩
  case signed =>
    rw [toInt_eq_least_iff hn, toInt_eq_neg_one_iff hn] at h
    rw [divSigned_toInt hb h, remSigned_toInt hb]
    have hb' : b.toInt ≠ 0 := fun h0 => hb (BitVec.eq_of_toInt_eq (h0.trans BitVec.toInt_zero.symm))
    exact ⟨(Int.tdiv_mul_add_tmod _ _).symm, natAbs_tmod_lt _ hb', tmod_eq_zero_or_neg_iff _ _⟩
  case unsigned =>
    rw [divUnsigned_toNat hb, remUnsigned_toNat hb]
    have hb' : b.toNat ≠ 0 := fun h0 => hb (BitVec.eq_of_toNat_eq h0)
    exact ⟨(Nat.div_add_mod' _ _).symm, Nat.mod_lt _ (Nat.pos_of_ne_zero hb')⟩

end Sys2Proof.Machine
end

section
/-! The floating-point instructions that round: arithmetic and conversions behind the gates of R409. -/

namespace Sys2Proof.Machine

open Sys2Proof

/-! ## The gate of the rounding mode (R401, R409) -/

/-- Behind both gates an instruction is illegal, or what it is in the mode that is named. -/
theorem State.rmGated_of {s : State} {i : Instr} {rm : BitVec 3} {k : Rounding → Res s.cfg} {p : Rounding → Prop}
    (h : exec i s = s.run (encode i) (s.hart.withRm rm k))
    (hp : ∀ m, exec i s = s.run (encode i) (k m) → p m) : s.RmGated i rm p := by
  refine State.fpGated_of h fun h' => ⟨fun hrm => ?_, fun m hrm => hp m ?_⟩
  · rw [hrm] at h'
    exact State.raisesIllegal_of h'
  · rw [hrm] at h'
    exact h'

/-! ## Results into f registers -/

theorem State.roundsS_of {s : State} {i : Instr} {rd : BitVec 5} {rm : BitVec 3} {op : Rounding → Rounded}
    (h : exec i s = s.run (encode i) (s.hart.withRm rm fun m => s.hart.putS rd (op m))) : s.RoundsS i rd rm op :=
  State.rmGated_of h fun _ h' => State.writesF_of h' rfl

theorem State.roundsD_of {s : State} {i : Instr} {rd : BitVec 5} {rm : BitVec 3} {op : Rounding → Rounded}
    (h : exec i s = s.run (encode i) (s.hart.withRm rm fun m => s.hart.putD rd (op m))) : s.RoundsD i rd rm op :=
  State.rmGated_of h fun _ h' => State.writesF_of h' rfl

/-- Settles O43: each instruction is the shared single-precision shape, with its operation on patterns. -/
theorem floatArithmeticSingle : Obligations.FloatArithmeticSingle := by
  unfold Obligations.FloatArithmeticSingle
  intro s rd rs1 rs2 rs3 rm
  dsimp only
  rw [← setWidth_eq_ofNat]
  exact ⟨State.roundsS_of rfl, State.roundsS_of rfl, State.roundsS_of rfl, State.roundsS_of rfl, State.roundsS_of rfl,
    State.roundsS_of rfl, State.roundsS_of rfl, State.roundsS_of rfl, State.roundsS_of rfl, State.roundsS_of rfl,
    State.roundsS_of rfl, State.roundsS_of rfl, State.roundsS_of rfl, State.roundsS_of rfl⟩

/-- Settles O44: each instruction is the shared double-precision shape, with its operation on patterns. -/
theorem floatArithmeticDouble : Obligations.FloatArithmeticDouble := by
  unfold Obligations.FloatArithmeticDouble
  intro s rd rs1 rs2 rs3 rm
  dsimp only
  rw [← setWidth_eq_ofNat]
  exact ⟨State.roundsD_of rfl, State.roundsD_of rfl, State.roundsD_of rfl, State.roundsD_of rfl, State.roundsD_of rfl,
    State.roundsD_of rfl, State.roundsD_of rfl, State.roundsD_of rfl, State.roundsD_of rfl, State.roundsD_of rfl,
    State.roundsD_of rfl, State.roundsD_of rfl, State.roundsD_of rfl, State.roundsD_of rfl⟩

/-! ## Results into x registers (R406) -/

/-- A 64-bit result in an x register is the integer cut to XLEN. -/
theorem signExtend_ofInt_64 (c : Config) (z : Int) : (BitVec.ofInt 64 z).signExtend c.xlen = BitVec.ofInt c.xlen z := by
  rcases xlen_cases c with h | h <;> rw [h]
  · apply BitVec.eq_of_toInt_eq
    rw [BitVec.toInt_signExtend, BitVec.toInt_ofInt, BitVec.toInt_ofInt]
    exact Int.bmod_bmod_of_dvd (by norm_num)
  · exact BitVec.signExtend_eq _

theorem State.convertsX_32_of {s : State} {i : Instr} {rd : BitVec 5} {rm : BitVec 3} {op : Rounding → Int × BitVec 5}
    (h : exec i s = s.run (encode i) (s.hart.withRm rm fun m => s.hart.putInt32 rd (op m))) :
    s.ConvertsX i rd rm 32 op :=
  State.rmGated_of h fun _ h' => State.writesXF_of h'

theorem State.convertsX_64_of {s : State} {i : Instr} {rd : BitVec 5} {rm : BitVec 3} {op : Rounding → Int × BitVec 5}
    (h : exec i s = s.run (encode i) (s.hart.withRm rm fun m => s.hart.putInt64 rd (op m))) :
    s.ConvertsX i rd rm 64 op := by
  refine State.rmGated_of h fun m h' => ?_
  rw [signExtend_ofInt_64]
  exact State.writesXF_of h'

/-- Settles O45: each conversion is the shared 32-bit or 64-bit shape. -/
theorem floatToInteger : Obligations.FloatToInteger := by
  unfold Obligations.FloatToInteger
  intro s rd rs1 rm
  exact ⟨State.convertsX_32_of rfl, State.convertsX_32_of rfl, State.convertsX_64_of rfl, State.convertsX_64_of rfl,
    State.convertsX_32_of rfl, State.convertsX_32_of rfl, State.convertsX_64_of rfl, State.convertsX_64_of rfl⟩

end Sys2Proof.Machine
end

section
/-! Floating-point patterns as a sign and a magnitude: the fields of a pattern, the number a magnitude stands for, which
rises with the magnitude, and what `unpack` gives for each kind of pattern (R400). -/

namespace Sys2Proof.Machine

open Sys2Proof

/-! ## Formats -/

/-- An exponent of at least two bits and a fraction of at least one: what every law below needs of a format. -/
structure Fmt.Proper (f : Fmt) : Prop where
  eb : 2 ≤ f.eb
  mb : 1 ≤ f.mb

theorem Fmt.proper_of_mem {f : Fmt} (hf : f ∈ [Fmt.s, Fmt.d]) : f.Proper := by
  simp only [List.mem_cons, List.not_mem_nil, or_false] at hf
  rcases hf with rfl | rfl <;> exact ⟨by decide, by decide⟩

theorem Fmt.fracBound_pos (f : Fmt) : 0 < 2 ^ f.mb := Nat.two_pow_pos _

theorem Fmt.infBits_add_fracBound (f : Fmt) : f.infBits + 2 ^ f.mb = 2 ^ (f.eb + f.mb) := by
  have h := Nat.two_pow_pos f.eb
  unfold Fmt.infBits
  rw [← Nat.succ_mul, Nat.succ_eq_add_one, Nat.sub_add_cancel h, pow_add]

theorem Fmt.infBits_lt (f : Fmt) : f.infBits < 2 ^ (f.eb + f.mb) := by
  have h := f.infBits_add_fracBound
  have := f.fracBound_pos
  omega

theorem Fmt.Proper.fracBound_le_infBits {f : Fmt} (hf : f.Proper) : 2 ^ f.mb ≤ f.infBits := by
  have h : 2 ^ 2 ≤ 2 ^ f.eb := Nat.pow_le_pow_right (by norm_num) hf.eb
  exact Nat.le_mul_of_pos_left _ (by omega)

theorem Fmt.infBits_pos {f : Fmt} (hf : f.Proper) : 0 < f.infBits := f.fracBound_pos.trans_le hf.fracBound_le_infBits

/-! ## The fields of a pattern -/

section Fields

variable {f : Fmt} (w : BitVec f.bits)

theorem magOf_lt : magOf f w < 2 ^ (f.eb + f.mb) := Nat.mod_lt _ (Nat.two_pow_pos _)

/-- A pattern is its sign bit and its magnitude. -/
theorem toNat_eq_sign_add_magOf : w.toNat = (if signOf f w then f.signBit else 0) + magOf f w := by
  have hw : w.toNat / 2 ^ (f.eb + f.mb) < 2 := by
    rw [Nat.div_lt_iff_lt_mul (Nat.two_pow_pos _), mul_comm, ← pow_succ]
    exact w.isLt
  have hsplit := Nat.div_add_mod w.toNat (2 ^ (f.eb + f.mb))
  have hsign : signOf f w = decide (w.toNat / 2 ^ (f.eb + f.mb) = 1) := by
    rw [signOf, BitVec.getLsbD, Nat.testBit_eq_decide_div_mod_eq, Nat.mod_eq_of_lt hw]
  rw [hsign]
  unfold magOf Fmt.signBit
  generalize w.toNat / 2 ^ (f.eb + f.mb) = q at *
  interval_cases q <;> simp <;> omega

theorem expOf_eq_magOf_div : expOf f w = magOf f w / 2 ^ f.mb := by
  rw [expOf, magOf, add_comm f.eb, pow_add, Nat.mod_mul_right_div_self]

theorem fracOf_eq_magOf_mod : fracOf f w = magOf f w % 2 ^ f.mb := by
  rw [fracOf, magOf, Nat.mod_mod_of_dvd]
  exact pow_dvd_pow 2 (Nat.le_add_left _ _)

variable {w}

/-- Two patterns with one sign and one magnitude are one pattern. -/
theorem toNat_eq_of_sign_magOf {u : BitVec f.bits} (hs : signOf f w = signOf f u) (hm : magOf f w = magOf f u) :
    w.toNat = u.toNat := by
  rw [toNat_eq_sign_add_magOf w, toNat_eq_sign_add_magOf u, hs, hm]

theorem isFinite_iff : isFinite f w ↔ magOf f w < f.infBits := by
  rw [isFinite, expOf_eq_magOf_div, Nat.div_lt_iff_lt_mul f.fracBound_pos, Fmt.infBits]

theorem isNaN_iff : isNaN f w = true ↔ f.infBits < magOf f w := by simp [isNaN]

theorem isNaN_eq_false_iff : isNaN f w = false ↔ magOf f w ≤ f.infBits := by simp [isNaN]

/-- The exponent is all ones from the magnitude of the infinities on. -/
theorem expOf_eq_top_iff : expOf f w = 2 ^ f.eb - 1 ↔ f.infBits ≤ magOf f w := by
  have h := f.infBits_add_fracBound
  have hlt := magOf_lt w
  have hexp : expOf f w ≤ 2 ^ f.eb - 1 := Nat.le_sub_one_of_lt (Nat.mod_lt _ (Nat.two_pow_pos _))
  rw [← not_lt, ← isFinite_iff, isFinite]
  omega

/-- With the exponent all ones, the fraction is what the magnitude has above infinity. -/
theorem fracOf_of_not_isFinite (h : f.infBits ≤ magOf f w) : fracOf f w = magOf f w - f.infBits := by
  have hadd := f.infBits_add_fracBound
  have hlt := magOf_lt w
  obtain ⟨k, hk⟩ := Nat.exists_eq_add_of_le h
  rw [fracOf_eq_magOf_mod, hk, Nat.add_sub_cancel_left, Fmt.infBits, Nat.mul_add_mod',
    Nat.mod_eq_of_lt (by omega)]

end Fields

/-! ## The number a magnitude stands for -/

/-- The significand of a magnitude, the implicit bit included. -/
def Fmt.sig (f : Fmt) (k : Nat) : Nat := if k / 2 ^ f.mb = 0 then k else 2 ^ f.mb + k % 2 ^ f.mb

/-- The exponent of the unit in the last place of a magnitude. -/
def Fmt.ulpExp (f : Fmt) (k : Nat) : Int := f.emin + ((k / 2 ^ f.mb - 1 : Nat) : Int)

/-- The number a magnitude stands for, as if the exponent had no upper bound. -/
def Fmt.magValue (f : Fmt) (k : Nat) : ℚ := f.sig k * 2 ^ f.ulpExp k

theorem Fmt.ulp_pos (e : Int) : (0 : ℚ) < 2 ^ e := zpow_pos (by norm_num) e

/-- A magnitude written as a number of binades above the least one, and a significand of the format. -/
theorem Fmt.magValue_add (f : Fmt) {q r : Nat} (hr : r ≤ 2 ^ f.prec) (h : q = 0 ∨ 2 ^ f.mb ≤ r) :
    f.magValue (q * 2 ^ f.mb + r) = r * 2 ^ (f.emin + (q : Int)) := by
  have hB := f.fracBound_pos
  have hprec : 2 ^ f.prec = 2 * 2 ^ f.mb := pow_succ' 2 f.mb
  rcases lt_or_ge r (2 ^ f.mb) with hlt | hge
  · have hq : q = 0 := h.resolve_right (not_le.mpr hlt)
    subst hq
    simp [magValue, sig, ulpExp, Nat.div_eq_of_lt hlt]
  rcases hr.lt_or_eq with hr | hr
  · obtain ⟨k, rfl⟩ := Nat.exists_eq_add_of_le hge
    have hk : k < 2 ^ f.mb := by omega
    have hsplit : q * 2 ^ f.mb + (2 ^ f.mb + k) = k + (q + 1) * 2 ^ f.mb := by ring
    have hdiv : (k + (q + 1) * 2 ^ f.mb) / 2 ^ f.mb = q + 1 := by
      rw [Nat.add_mul_div_right _ _ hB, Nat.div_eq_of_lt hk, Nat.zero_add]
    rw [hsplit, magValue, sig, ulpExp, hdiv, Nat.add_mul_mod_self_right, Nat.mod_eq_of_lt hk, if_neg (Nat.succ_ne_zero q),
      Nat.add_sub_cancel]
  · have hsplit : q * 2 ^ f.mb + r = (q + 2) * 2 ^ f.mb := by rw [hr, hprec]; ring
    rw [hsplit, magValue, sig, ulpExp, Nat.mul_div_cancel _ hB, Nat.mul_mod_left, if_neg (Nat.succ_ne_zero _), hr, hprec,
      show q + 2 - 1 = q + 1 from rfl]
    push_cast
    rw [← add_assoc, zpow_add_one₀ two_ne_zero]
    ring

theorem Fmt.sig_lt (f : Fmt) (k : Nat) : f.sig k < 2 ^ f.prec := by
  have hB := f.fracBound_pos
  have hmod := Nat.mod_lt k hB
  unfold sig prec
  rw [pow_succ]
  split
  · next h => have := (Nat.div_eq_zero_iff_lt hB).mp h; omega
  · omega

theorem Fmt.le_sig (f : Fmt) (k : Nat) : k / 2 ^ f.mb - 1 = 0 ∨ 2 ^ f.mb ≤ f.sig k := by
  unfold sig
  split <;> omega

/-- A magnitude is its binades and its significand. -/
theorem Fmt.eq_binades_add_sig (f : Fmt) (k : Nat) : k = (k / 2 ^ f.mb - 1) * 2 ^ f.mb + f.sig k := by
  have hsplit := Nat.div_add_mod' k (2 ^ f.mb)
  unfold sig
  split
  · next h => simp [h]
  · next h =>
    obtain ⟨q, hq⟩ := Nat.exists_eq_succ_of_ne_zero h
    rw [hq] at hsplit ⊢
    rw [Nat.succ_sub_one]
    rw [Nat.succ_mul] at hsplit
    omega

/-- The next magnitude is one unit in the last place further. -/
theorem Fmt.magValue_succ (f : Fmt) (k : Nat) : f.magValue (k + 1) = f.magValue k + 2 ^ f.ulpExp k := by
  have hsucc : f.magValue (k + 1) = (f.sig k + 1 : Nat) * 2 ^ f.ulpExp k := by
    conv_lhs => rw [f.eq_binades_add_sig k, Nat.add_assoc]
    exact f.magValue_add (f.sig_lt k) ((f.le_sig k).imp_right Nat.le_succ_of_le)
  rw [hsucc, magValue]
  push_cast
  ring

theorem Fmt.magValue_strictMono (f : Fmt) : StrictMono f.magValue :=
  strictMono_nat_of_lt_succ fun k => by
    rw [f.magValue_succ k]
    exact lt_add_of_pos_right _ (Fmt.ulp_pos _)

@[simp] theorem Fmt.magValue_zero (f : Fmt) : f.magValue 0 = 0 := by simp [magValue, sig]

theorem Fmt.magValue_eq_zero_iff (f : Fmt) {k : Nat} : f.magValue k = 0 ↔ k = 0 := by
  rw [← f.magValue_zero, f.magValue_strictMono.injective.eq_iff]

theorem Fmt.magValue_nonneg (f : Fmt) (k : Nat) : 0 ≤ f.magValue k := by
  rw [← f.magValue_zero]
  exact f.magValue_strictMono.monotone (Nat.zero_le k)

theorem Fmt.sig_eq_zero_iff (f : Fmt) {k : Nat} : f.sig k = 0 ↔ k = 0 := by
  rw [← f.magValue_eq_zero_iff (k := k), magValue, mul_eq_zero, Nat.cast_eq_zero, or_iff_left (Fmt.ulp_pos _).ne']

/-- The least normal number. -/
theorem Fmt.magValue_fracBound (f : Fmt) : f.magValue (2 ^ f.mb) = 2 ^ (f.emin + (f.mb : Int)) := by
  have h := f.magValue_add (q := 0) (Nat.pow_le_pow_right (by norm_num) (Nat.le_succ f.mb)) (.inl rfl)
  rw [Nat.zero_mul, Nat.zero_add] at h
  rw [h, Nat.cast_zero, add_zero, add_comm f.emin, zpow_add₀ two_ne_zero]
  push_cast
  rw [zpow_natCast]

/-! ## What `unpack` gives -/

section Unpack

variable {f : Fmt} {w : BitVec f.bits}

theorem unpack_of_isFinite (h : isFinite f w) :
    unpack f w = .fin (signOf f w) (f.sig (magOf f w)) (f.ulpExp (magOf f w)) := by
  have hne : expOf f w ≠ 2 ^ f.eb - 1 := h.ne
  have hmod := fracOf_eq_magOf_mod w
  unfold unpack
  rw [expOf_eq_magOf_div] at *
  simp only [if_neg hne, Fmt.sig, Fmt.ulpExp, hmod]
  split
  · next h0 => simp [h0, Nat.mod_eq_of_lt ((Nat.div_eq_zero_iff_lt f.fracBound_pos).mp h0)]
  · next h0 =>
    rw [Nat.cast_sub (Nat.one_le_iff_ne_zero.mpr h0)]
    push_cast
    rw [add_sub_assoc]

theorem unpack_of_isInf (h : magOf f w = f.infBits) : unpack f w = .inf (signOf f w) := by
  have hfrac : fracOf f w = 0 := by rw [fracOf_of_not_isFinite h.ge, h, Nat.sub_self]
  unfold unpack
  simp only [expOf_eq_top_iff.mpr h.ge, hfrac, if_true]

theorem unpack_of_isNaN (h : isNaN f w = true) : unpack f w = .nan (isSNaN f w) := by
  have hlt := isNaN_iff.mp h
  have hfrac : fracOf f w ≠ 0 := by rw [fracOf_of_not_isFinite hlt.le]; omega
  unfold unpack
  simp only [expOf_eq_top_iff.mpr hlt.le, if_true, if_neg hfrac, isSNaN, h, Bool.true_and]

/-- A pattern is finite, an infinity or a NaN. -/
theorem isFinite_or_isInf_or_isNaN (w : BitVec f.bits) :
    isFinite f w ∨ magOf f w = f.infBits ∨ isNaN f w = true := by
  rw [isFinite_iff, isNaN_iff]
  exact lt_trichotomy _ _

theorem isNaN_of_isFinite (h : isFinite f w) : isNaN f w = false := isNaN_eq_false_iff.mpr (isFinite_iff.mp h).le

theorem isNaN_of_isInf (h : magOf f w = f.infBits) : isNaN f w = false := isNaN_eq_false_iff.mpr h.le

theorem isSNaN_of_not_isNaN (h : isNaN f w = false) : isSNaN f w = false := by rw [isSNaN, h, Bool.false_and]

/-- A number with a sign. -/
def signed (neg : Bool) {α : Type} [Neg α] (x : α) : α := if neg then -x else x

@[simp] theorem signed_false {α : Type} [Neg α] (x : α) : signed false x = x := rfl

@[simp] theorem signed_true {α : Type} [Neg α] (x : α) : signed true x = -x := rfl

theorem value_fin (neg : Bool) (m : Nat) (e : Int) : (FVal.fin neg m e).value = signed neg ((m : ℚ) * 2 ^ e) := by
  cases neg <;> simp [FVal.value]

/-- The number a finite pattern stands for is that of its magnitude, with its sign. -/
theorem valueOf_of_isFinite (h : isFinite f w) : valueOf f w = signed (signOf f w) (f.magValue (magOf f w)) := by
  rw [valueOf, unpack_of_isFinite h, value_fin, Fmt.magValue]

theorem valueOf_eq_zero_iff (h : isFinite f w) : valueOf f w = 0 ↔ magOf f w = 0 := by
  rw [valueOf_of_isFinite h, ← f.magValue_eq_zero_iff]
  cases signOf f w <;> simp

end Unpack

end Sys2Proof.Machine
end

section
/-! Comparisons, minimum and maximum, and classes: a pattern that is no NaN is ordered by its key, a signed magnitude, as
the numbers are (R407, R408, R435). -/

namespace Sys2Proof.Machine

open Sys2Proof

/-! ## Keys and numbers -/

/-- The number of a magnitude, infinity included. -/
noncomputable def Fmt.magExt (f : Fmt) (k : Nat) : EReal := if k < f.infBits then ((f.magValue k : ℝ) : EReal) else ⊤

/-- The number of a signed magnitude, infinities included. -/
noncomputable def Fmt.keyExt (f : Fmt) (i : Int) : EReal := if i < 0 then -f.magExt i.natAbs else f.magExt i.natAbs

theorem Fmt.magExt_strictMonoOn (f : Fmt) : StrictMonoOn f.magExt {k | k ≤ f.infBits} := by
  intro j _ k (hk : k ≤ f.infBits) hjk
  rw [magExt, magExt, if_pos (hjk.trans_le hk)]
  split
  · exact_mod_cast f.magValue_strictMono hjk
  · exact EReal.coe_lt_top _

theorem Fmt.magExt_zero {f : Fmt} (hf : f.Proper) : f.magExt 0 = 0 := by
  rw [magExt, if_pos (f.infBits_pos hf), magValue_zero]
  norm_num

theorem Fmt.magExt_pos {f : Fmt} (hf : f.Proper) {k : Nat} (h0 : k ≠ 0) (hk : k ≤ f.infBits) : 0 < f.magExt k := by
  rw [← Fmt.magExt_zero hf]
  exact f.magExt_strictMonoOn (Nat.zero_le _) hk (Nat.pos_of_ne_zero h0)

theorem Fmt.magExt_nonneg {f : Fmt} (hf : f.Proper) {k : Nat} (hk : k ≤ f.infBits) : 0 ≤ f.magExt k := by
  rw [← Fmt.magExt_zero hf]
  exact f.magExt_strictMonoOn.monotoneOn (Nat.zero_le _) hk (Nat.zero_le k)

theorem Fmt.keyExt_strictMonoOn {f : Fmt} (hf : f.Proper) :
    StrictMonoOn f.keyExt {i | i.natAbs ≤ f.infBits} := by
  intro i (hi : i.natAbs ≤ _) j (hj : j.natAbs ≤ _) hij
  unfold keyExt
  rcases lt_or_ge i 0 with hi0 | hi0 <;> rcases lt_or_ge j 0 with hj0 | hj0
  · rw [if_pos hi0, if_pos hj0, EReal.neg_lt_neg_iff]
    exact f.magExt_strictMonoOn hj hi (by omega)
  · rw [if_pos hi0, if_neg hj0.not_gt]
    calc -f.magExt i.natAbs < 0 := EReal.neg_lt_comm.mp (by simpa using Fmt.magExt_pos hf (by omega) hi)
      _ ≤ f.magExt j.natAbs := Fmt.magExt_nonneg hf hj
  · omega
  · rw [if_neg hi0.not_gt, if_neg hj0.not_gt]
    exact f.magExt_strictMonoOn hi hj (by omega)

section Patterns

variable {f : Fmt} {w a b : BitVec f.bits}

theorem orderKey_natAbs (w : BitVec f.bits) : (orderKey f w).natAbs = magOf f w := by
  unfold orderKey signedNat
  split <;> simp

/-- A pattern that is no NaN stands for the number of its key. -/
theorem extValue_eq_keyExt (hf : f.Proper) (h : isNaN f w = false) : extValue f w = f.keyExt (orderKey f w) := by
  have hext : extValue f w = if signOf f w then -f.magExt (magOf f w) else f.magExt (magOf f w) := by
    rcases isFinite_or_isInf_or_isNaN w with hw | hw | hw
    · rw [extValue, unpack_of_isFinite hw, valueOf_of_isFinite hw, Fmt.magExt, if_pos (isFinite_iff.mp hw)]
      cases signOf f w <;> simp
    · rw [extValue, unpack_of_isInf hw, Fmt.magExt, hw, if_neg (lt_irrefl _)]
      cases signOf f w <;> simp
    · rw [hw] at h; cases h
  rw [hext, Fmt.keyExt, orderKey_natAbs]
  unfold orderKey signedNat
  cases signOf f w
  · simp [not_lt.mpr]
  · rcases Nat.eq_zero_or_pos (magOf f w) with h0 | h0
    · simp [h0, Fmt.magExt_zero hf]
    · simp [h0]

theorem orderKey_mem (h : isNaN f w = false) : orderKey f w ∈ {i : Int | i.natAbs ≤ f.infBits} := by
  rw [Set.mem_ofPred_eq, orderKey_natAbs]
  exact isNaN_eq_false_iff.mp h

theorem orderKey_lt_iff (hf : f.Proper) (ha : isNaN f a = false) (hb : isNaN f b = false) :
    orderKey f a < orderKey f b ↔ extValue f a < extValue f b := by
  rw [extValue_eq_keyExt hf ha, extValue_eq_keyExt hf hb,
    (Fmt.keyExt_strictMonoOn hf).lt_iff_lt (orderKey_mem ha) (orderKey_mem hb)]

theorem orderKey_le_iff (hf : f.Proper) (ha : isNaN f a = false) (hb : isNaN f b = false) :
    orderKey f a ≤ orderKey f b ↔ extValue f a ≤ extValue f b := by
  rw [← not_lt, orderKey_lt_iff hf hb ha, not_lt]

theorem orderKey_eq_iff (hf : f.Proper) (ha : isNaN f a = false) (hb : isNaN f b = false) :
    orderKey f a = orderKey f b ↔ extValue f a = extValue f b := by
  rw [le_antisymm_iff, orderKey_le_iff hf ha hb, orderKey_le_iff hf hb ha, ← le_antisymm_iff]

/-! ## Comparisons (R408) -/

theorem fpCompare_of_not_isNaN (hf : f.Proper) (ha : isNaN f a = false) (hb : isNaN f b = false) :
    ((fpEq f a b).1 = true ↔ extValue f a = extValue f b) ∧ ((fpLt f a b).1 = true ↔ extValue f a < extValue f b) ∧
    ((fpLe f a b).1 = true ↔ extValue f a ≤ extValue f b) := by
  rw [← orderKey_eq_iff hf ha hb, ← orderKey_lt_iff hf ha hb, ← orderKey_le_iff hf ha hb]
  simp [fpEq, fpLt, fpLe, ha, hb]

theorem fpCompare_of_isNaN (h : isNaN f a = true ∨ isNaN f b = true) :
    (fpEq f a b).1 = false ∧ (fpLt f a b).1 = false ∧ (fpLe f a b).1 = false := by
  rcases h with h | h <;> simp [fpEq, fpLt, fpLe, h]

/-! ## Minimum and maximum (R407) -/

theorem fpPick_flags (mx : Bool) : (fpPick f mx a b).2 = sNaNFlag f a b := by
  unfold fpPick
  split
  · rfl
  split
  · rfl
  split <;> rfl

theorem fpPick_of_isNaN_left (mx : Bool) (ha : isNaN f a = true) :
    (fpPick f mx a b).1 = if isNaN f b then f.cNaN else b.toNat := by
  rw [fpPick, if_pos ha]

theorem fpPick_of_isNaN_right (mx : Bool) (ha : isNaN f a = false) (hb : isNaN f b = true) :
    (fpPick f mx a b).1 = a.toNat := by
  rw [fpPick, if_neg (by simp [ha]), if_pos hb]

/-- Patterns with one key and one sign are one pattern. -/
theorem toNat_eq_of_orderKey (hs : signOf f a = signOf f b) (hk : orderKey f a = orderKey f b) : a.toNat = b.toNat :=
  toNat_eq_of_sign_magOf hs (by rw [← orderKey_natAbs a, ← orderKey_natAbs b, hk])

/-- The strict key orders by the key first, and by the sign where the keys agree: then both are zeros. -/
theorem strictKey_lt_iff : strictKey f a < strictKey f b ↔
    orderKey f a < orderKey f b ∨ (orderKey f a = orderKey f b ∧ signOf f a = true ∧ signOf f b = false) := by
  unfold strictKey orderKey signedNat
  cases signOf f a <;> cases signOf f b <;> simp <;> omega

/-- The lesser of two patterns, -0 below +0. -/
theorem fpPick_min (ha : isNaN f a = false) (hb : isNaN f b = false) : (fpPick f false a b).1 =
    if orderKey f a < orderKey f b ∨ (orderKey f a = orderKey f b ∧ signOf f a = true) then a.toNat else b.toNat := by
  have hpick : (fpPick f false a b).1 = if strictKey f b < strictKey f a then b.toNat else a.toNat := by
    rw [fpPick, if_neg (by simp [ha]), if_neg (by simp [hb]), if_neg Bool.false_ne_true]
  rw [hpick, if_congr strictKey_lt_iff rfl rfl]
  rcases lt_trichotomy (orderKey f a) (orderKey f b) with hk | hk | hk
  · rw [if_neg (by omega), if_pos (.inl hk)]
  · by_cases hs : signOf f a = signOf f b
    · rw [toNat_eq_of_orderKey hs hk, ite_self, ite_self]
    · rw [Bool.eq_not_of_ne hs]
      cases signOf f b <;> simp [hk]
  · rw [if_pos (.inl hk), if_neg (by omega)]

/-- The greater of two patterns, -0 below +0. -/
theorem fpPick_max (ha : isNaN f a = false) (hb : isNaN f b = false) : (fpPick f true a b).1 =
    if orderKey f b < orderKey f a ∨ (orderKey f a = orderKey f b ∧ signOf f a = false) then a.toNat else b.toNat := by
  have hpick : (fpPick f true a b).1 = if strictKey f a < strictKey f b then b.toNat else a.toNat := by
    rw [fpPick, if_neg (by simp [ha]), if_neg (by simp [hb]), if_pos rfl]
  rw [hpick, if_congr strictKey_lt_iff rfl rfl]
  rcases lt_trichotomy (orderKey f a) (orderKey f b) with hk | hk | hk
  · rw [if_pos (.inl hk), if_neg (by omega)]
  · by_cases hs : signOf f a = signOf f b
    · rw [toNat_eq_of_orderKey hs hk, ite_self, ite_self]
    · rw [Bool.eq_not_of_ne hs]
      cases signOf f b <;> simp [hk]
  · rw [if_neg (by omega), if_pos (.inl hk)]

/-! ## Classes (R435) -/

theorem fpClass_of_isNaN (h : isNaN f w = true) : fpClass f w = if isSNaN f w then 8 else 9 := by
  have hlt := isNaN_iff.mp h
  have hfrac : fracOf f w ≠ 0 := by rw [fracOf_of_not_isFinite hlt.le]; omega
  simp [fpClass, expOf_eq_top_iff.mpr hlt.le, hfrac, isSNaN, h]

theorem fpClass_of_isInf (h : magOf f w = f.infBits) : fpClass f w = if signOf f w then 0 else 7 := by
  have hfrac : fracOf f w = 0 := by rw [fracOf_of_not_isFinite h.ge, h, Nat.sub_self]
  simp [fpClass, expOf_eq_top_iff.mpr h.ge, hfrac]

/-- The class of a finite pattern goes by its magnitude: zero, subnormal, normal. -/
theorem fpClass_of_isFinite (h : isFinite f w) : fpClass f w =
    if magOf f w = 0 then (if signOf f w then 3 else 4)
    else if magOf f w < 2 ^ f.mb then (if signOf f w then 2 else 5)
    else (if signOf f w then 1 else 6) := by
  have hne : expOf f w ≠ 2 ^ f.eb - 1 := h.ne
  have hexp : expOf f w = 0 ↔ magOf f w < 2 ^ f.mb := by
    rw [expOf_eq_magOf_div, Nat.div_eq_zero_iff_lt f.fracBound_pos]
  have hfrac := fracOf_eq_magOf_mod w
  simp only [fpClass, if_neg hne, hexp, hfrac]
  by_cases hsub : magOf f w < 2 ^ f.mb
  · simp only [if_pos hsub, Nat.mod_eq_of_lt hsub]
  · have h0 : magOf f w ≠ 0 := fun h0 => hsub (h0 ▸ f.fracBound_pos)
    simp only [if_neg hsub, if_neg h0]

theorem extValue_ne_of_isFinite (h : isFinite f w) : extValue f w ≠ ⊥ ∧ extValue f w ≠ ⊤ := by
  rw [extValue, unpack_of_isFinite h]
  exact ⟨EReal.coe_ne_bot _, EReal.coe_ne_top _⟩

theorem extValue_of_isInf (h : magOf f w = f.infBits) : extValue f w = if signOf f w then ⊥ else ⊤ := by
  rw [extValue, unpack_of_isInf h]

theorem extValue_of_isNaN (h : isNaN f w = true) : extValue f w = 0 := by
  rw [extValue, valueOf, unpack_of_isNaN h]
  simp [FVal.value]

/-- The classes of the infinities and the NaNs. -/
theorem fpClass_special (w : BitVec f.bits) :
    (fpClass f w = 0 ↔ extValue f w = ⊥) ∧ (fpClass f w = 7 ↔ extValue f w = ⊤) ∧
    (fpClass f w = 8 ↔ isNaN f w = true ∧ isSNaN f w = true) ∧
    (fpClass f w = 9 ↔ isNaN f w = true ∧ isSNaN f w = false) := by
  rcases isFinite_or_isInf_or_isNaN w with h | h | h
  · obtain ⟨hbot, htop⟩ := extValue_ne_of_isFinite h
    rw [fpClass_of_isFinite h, isNaN_of_isFinite h]
    simp only [hbot, htop]
    split_ifs <;> simp
  · rw [fpClass_of_isInf h, isNaN_of_isInf h, extValue_of_isInf h]
    cases signOf f w <;> simp
  · rw [fpClass_of_isNaN h, extValue_of_isNaN h, h]
    cases isSNaN f w <;> simp

/-- The classes of the finite numbers, by their sign and their distance from 0. -/
theorem fpClass_finite (h : isFinite f w) :
    let least : ℚ := 2 ^ (f.emin + (f.mb : Int))
    (fpClass f w = 3 ↔ valueOf f w = 0 ∧ signOf f w = true) ∧ (fpClass f w = 4 ↔ valueOf f w = 0 ∧ signOf f w = false) ∧
    (fpClass f w = 1 ↔ valueOf f w ≤ -least) ∧ (fpClass f w = 6 ↔ least ≤ valueOf f w) ∧
    (fpClass f w = 2 ↔ -least < valueOf f w ∧ valueOf f w < 0) ∧
    (fpClass f w = 5 ↔ 0 < valueOf f w ∧ valueOf f w < least) := by
  intro least
  have hleast : 0 < least := Fmt.ulp_pos _
  have hnonneg := f.magValue_nonneg (magOf f w)
  have hzero := f.magValue_eq_zero_iff (k := magOf f w)
  have hsub : f.magValue (magOf f w) < least ↔ magOf f w < 2 ^ f.mb := by
    rw [← f.magValue_strictMono.lt_iff_lt, f.magValue_fracBound]
  rw [fpClass_of_isFinite h, valueOf_of_isFinite h]
  simp only [← hzero, ← hsub]
  generalize f.magValue (magOf f w) = v at *
  cases signOf f w <;> simp only [signed_true, signed_false] <;> split_ifs <;> grind

theorem fpClass_of_not_isFinite (h : ¬isFinite f w) :
    fpClass f w = 0 ∨ fpClass f w = 7 ∨ fpClass f w = 8 ∨ fpClass f w = 9 := by
  rcases (isFinite_or_isInf_or_isNaN w).resolve_left h with h | h
  · rw [fpClass_of_isInf h]
    split <;> simp
  · rw [fpClass_of_isNaN h]
    split <;> simp

end Patterns

/-- Settles O51: keys order patterns as their numbers, and the class goes by the magnitude. -/
theorem floatOrderAndClass : Obligations.FloatOrderAndClass := by
  unfold Obligations.FloatOrderAndClass
  intro f hmem a b nan nv x y least
  have hf := Fmt.proper_of_mem hmem
  have not_nan : ∀ {w : BitVec f.bits}, ¬nan w → isNaN f w = false := fun h => Bool.eq_false_of_not_eq_true h
  obtain ⟨hbot, htop, hsnan, hqnan⟩ := fpClass_special a
  refine ⟨fun ha hb => fpCompare_of_not_isNaN hf (not_nan ha) (not_nan hb), fpCompare_of_isNaN, rfl, rfl, rfl,
    fun mx => ⟨fpPick_flags mx, fun ha hb => ?_, fun ha hb => ?_, fun ha hb => fpPick_of_isNaN_right mx (not_nan ha) hb⟩,
    fun ha hb => ?_, hbot, htop, hsnan, hqnan, ?_⟩
  · rw [fpPick_of_isNaN_left mx ha, if_pos hb]
  · rw [fpPick_of_isNaN_left mx ha, if_neg hb]
  · have ha' := not_nan ha
    have hb' := not_nan hb
    simp only [x, y, ← orderKey_lt_iff hf ha' hb', ← orderKey_lt_iff hf hb' ha', ← orderKey_eq_iff hf ha' hb']
    exact ⟨fpPick_min ha' hb', fpPick_max ha' hb'⟩
  · by_cases h : isFinite f a
    · simpa only [h, true_and] using fpClass_finite h
    · rcases fpClass_of_not_isFinite h with hc | hc | hc | hc <;> simp [hc, h]

end Sys2Proof.Machine
end

section
/-! Exact sums and products of finite values, as rational numbers (R405). -/

namespace Sys2Proof.Machine

open Sys2Proof

theorem signed_eq_mul (neg : Bool) (x : ℚ) : signed neg x = (if neg then -1 else 1) * x := by cases neg <;> simp

theorem signed_mul_signed (n k : Bool) (x y : ℚ) : signed n x * signed k y = signed (n ^^ k) (x * y) := by
  cases n <;> cases k <;> simp

theorem signedNat_cast (neg : Bool) (m : Nat) : ((signedNat neg m : Int) : ℚ) = signed neg (m : ℚ) := by
  cases neg <;> simp [signedNat]

/-- A value, negated where asked: what the fused forms do to the product and to the addend. -/
def FVal.negIf (neg : Bool) (x : FVal) : FVal := if neg then x.neg else x

@[simp] theorem FVal.negIf_inf (neg s : Bool) : (FVal.inf s).negIf neg = .inf (s ^^ neg) := by
  cases neg <;> simp [negIf, FVal.neg]

@[simp] theorem FVal.negIf_fin (neg s : Bool) (m : Nat) (e : Int) :
    (FVal.fin s m e).negIf neg = .fin (s ^^ neg) m e := by
  cases neg <;> simp [negIf, FVal.neg]

theorem fpFma_eq (f : Fmt) (rm : Rounding) (np na : Bool) {n : Nat} (a b d : BitVec n) :
    fpFma f rm np na a b d =
      roundVal f rm ((((unpack f a).mul (unpack f b)).negIf np).add rm ((unpack f d).negIf na)) := rfl

theorem fpSub_eq (f : Fmt) (rm : Rounding) {n : Nat} (a b : BitVec n) :
    fpSub f rm a b = roundVal f rm ((unpack f a).add rm ((unpack f b).negIf true)) := rfl

theorem value_fin_xor (n neg : Bool) (m : Nat) (e : Int) :
    (FVal.fin (n ^^ neg) m e).value = signed neg (FVal.fin n m e).value := by
  rw [value_fin, value_fin]
  cases n <;> cases neg <;> simp

/-- The product of two finite values is exact. -/
theorem value_mul_fin (n k : Bool) (m l : Nat) (e g : Int) :
    (FVal.fin (n ^^ k) (m * l) (e + g)).value = (FVal.fin n m e).value * (FVal.fin k l g).value := by
  rw [value_fin, value_fin, value_fin, signed_mul_signed, zpow_add₀ two_ne_zero, Nat.cast_mul]
  congr 1
  ring

/-- A significand moved to a lower exponent. -/
theorem shiftLeft_mul_zpow (m : Nat) {u e : Int} (h : u ≤ e) :
    ((m <<< (e - u).toNat : Nat) : ℚ) * 2 ^ u = m * 2 ^ e := by
  obtain ⟨k, hk⟩ := Int.eq_ofNat_of_zero_le (sub_nonneg.mpr h)
  have he : e = u + (k : Int) := by omega
  rw [hk, Int.toNat_natCast, Nat.shiftLeft_eq, he, zpow_add₀ two_ne_zero, zpow_natCast]
  push_cast
  ring

/-- The sum of two finite values, in units of the lesser of their exponents. -/
def sumInt (n : Bool) (m : Nat) (e : Int) (k : Bool) (l : Nat) (g : Int) : Int :=
  signedNat n (m <<< (e - min e g).toNat) + signedNat k (l <<< (g - min e g).toNat)

section Sum

variable {n k : Bool} {m l : Nat} {e g : Int} {q : ℚ}

theorem sumInt_mul_zpow :
    (sumInt n m e k l g : ℚ) * 2 ^ min e g = (FVal.fin n m e).value + (FVal.fin k l g).value := by
  have signed_mul : ∀ (b : Bool) (x y : ℚ), signed b x * y = signed b (x * y) := by rintro (_ | _) <;> simp
  rw [sumInt, Int.cast_add, signedNat_cast, signedNat_cast, add_mul, signed_mul, signed_mul,
    shiftLeft_mul_zpow m (min_le_left e g), shiftLeft_mul_zpow l (min_le_right e g), value_fin, value_fin]

theorem FVal.add_fin (rm : Rounding) : (FVal.fin n m e).add rm (.fin k l g) =
    if sumInt n m e k l g = 0 then .fin (if n = k then n else decide (rm = .rdn)) 0 (min e g)
    else .fin (decide (sumInt n m e k l g < 0)) (sumInt n m e k l g).natAbs (min e g) := rfl

/-- An exact zero sum has the common sign of its terms, or the sign of the mode (R405 h). -/
theorem FVal.add_fin_of_sum_eq_zero (rm : Rounding) (h : (FVal.fin n m e).value + (FVal.fin k l g).value = 0) :
    (FVal.fin n m e).add rm (.fin k l g) = .fin (if n = k then n else decide (rm = .rdn)) 0 (min e g) := by
  rw [← sumInt_mul_zpow, mul_eq_zero, or_iff_left (Fmt.ulp_pos _).ne', Int.cast_eq_zero] at h
  rw [add_fin, if_pos h]

/-- Any other sum of finite values is exact, and has its own sign. -/
theorem FVal.add_fin_of_sum_ne_zero (rm : Rounding) (h : (FVal.fin n m e).value + (FVal.fin k l g).value ≠ 0) :
    ∃ s, s ≠ 0 ∧ (FVal.fin n m e).add rm (.fin k l g) = .fin (decide ((FVal.fin n m e).value + (FVal.fin k l g).value < 0))
      s (min e g) ∧ (s : ℚ) * 2 ^ min e g = |(FVal.fin n m e).value + (FVal.fin k l g).value| := by
  have hu : (0 : ℚ) < 2 ^ min e g := Fmt.ulp_pos _
  rw [← sumInt_mul_zpow] at h ⊢
  have hne : sumInt n m e k l g ≠ 0 := Int.cast_ne_zero.mp (left_ne_zero_of_mul h)
  have hsign : (sumInt n m e k l g : ℚ) * 2 ^ min e g < 0 ↔ sumInt n m e k l g < 0 := by
    rw [mul_neg_iff, Int.cast_lt_zero]
    simp [hu, hu.not_gt]
  refine ⟨_, Int.natAbs_ne_zero.mpr hne, ?_, ?_⟩
  · rw [add_fin, if_neg hne, decide_eq_decide.mpr hsign]
  · rw [abs_mul, abs_of_pos hu, Nat.cast_natAbs, Int.cast_abs]

end Sum

end Sys2Proof.Machine
end

section
/-! NaNs, invalid operations, infinities and zeros: what each operation gives where its result is not rounded (R405). -/

namespace Sys2Proof.Machine

open Sys2Proof

/-! ## Values that are no number -/

/-- The value is a NaN. -/
def FVal.isNan : FVal → Bool
  | .nan _ => true
  | _ => false

/-- The value is a NaN that signals. -/
def FVal.signals : FVal → Bool
  | .nan s => s
  | _ => false

@[simp] theorem FVal.isNan_nan (s : Bool) : (FVal.nan s).isNan = true := rfl
@[simp] theorem FVal.isNan_inf (neg : Bool) : (FVal.inf neg).isNan = false := rfl
@[simp] theorem FVal.isNan_fin (neg : Bool) (m : Nat) (e : Int) : (FVal.fin neg m e).isNan = false := rfl
@[simp] theorem FVal.signals_nan (s : Bool) : (FVal.nan s).signals = s := rfl
@[simp] theorem FVal.signals_inf (neg : Bool) : (FVal.inf neg).signals = false := rfl
@[simp] theorem FVal.signals_fin (neg : Bool) (m : Nat) (e : Int) : (FVal.fin neg m e).signals = false := rfl

/-- The product is invalid: an infinity times a zero. -/
def FVal.invalidMul : FVal → FVal → Bool
  | .inf _, .fin _ m _ => m = 0
  | .fin _ m _, .inf _ => m = 0
  | _, _ => false

theorem FVal.add_of_isNan (rm : Rounding) {x y : FVal} (h : x.isNan = true ∨ y.isNan = true) :
    x.add rm y = .nan (x.signals || y.signals) := by
  cases x <;> cases y <;> simp_all [add]

theorem FVal.mul_of_isNan {x y : FVal} (h : x.isNan = true ∨ y.isNan = true) :
    x.mul y = .nan (x.signals || y.signals) := by
  cases x <;> cases y <;> simp_all [mul]

theorem FVal.div_of_isNan (f : Fmt) {x y : FVal} (h : x.isNan = true ∨ y.isNan = true) :
    x.div f y = (.nan (x.signals || y.signals), 0) := by
  cases x <;> cases y <;> simp_all [div]

theorem FVal.isNan_mul (x y : FVal) : (x.mul y).isNan = (x.isNan || y.isNan || x.invalidMul y) := by
  cases x <;> cases y <;> simp [mul, invalidMul, apply_ite isNan]

theorem FVal.signals_mul (x y : FVal) : (x.mul y).signals = (x.signals || y.signals || x.invalidMul y) := by
  cases x <;> cases y <;> simp [mul, invalidMul, apply_ite signals]

@[simp] theorem FVal.isNan_neg (x : FVal) : x.neg.isNan = x.isNan := by cases x <;> rfl

@[simp] theorem FVal.signals_neg (x : FVal) : x.neg.signals = x.signals := by cases x <;> rfl

@[simp] theorem FVal.isNan_negIf (neg : Bool) (x : FVal) : (x.negIf neg).isNan = x.isNan := by cases neg <;> simp [negIf]

@[simp] theorem FVal.signals_negIf (neg : Bool) (x : FVal) : (x.negIf neg).signals = x.signals := by
  cases neg <;> simp [negIf]

section Kinds

variable {f : Fmt} {w : BitVec f.bits}

theorem unpack_of_isZero (hf : f.Proper) (h : magOf f w = 0) : unpack f w = .fin (signOf f w) 0 (f.ulpExp 0) := by
  have hfin : isFinite f w := isFinite_iff.mpr (h ▸ f.infBits_pos hf)
  rw [unpack_of_isFinite hfin, h, f.sig_eq_zero_iff.mpr rfl]

theorem unpack_isNan (w : BitVec f.bits) : (unpack f w).isNan = isNaN f w := by
  rcases isFinite_or_isInf_or_isNaN w with h | h | h
  · rw [unpack_of_isFinite h, isNaN_of_isFinite h]; rfl
  · rw [unpack_of_isInf h, isNaN_of_isInf h]; rfl
  · rw [unpack_of_isNaN h, h]; rfl

theorem unpack_signals (w : BitVec f.bits) : (unpack f w).signals = isSNaN f w := by
  rcases isFinite_or_isInf_or_isNaN w with h | h | h
  · rw [unpack_of_isFinite h, isSNaN_of_not_isNaN (isNaN_of_isFinite h)]; rfl
  · rw [unpack_of_isInf h, isSNaN_of_not_isNaN (isNaN_of_isInf h)]; rfl
  · rw [unpack_of_isNaN h]; rfl

/-- An operand pair whose product is invalid, as patterns. -/
theorem unpack_invalidMul (hf : f.Proper) (a b : BitVec f.bits) : (unpack f a).invalidMul (unpack f b) =
    decide ((magOf f a = f.infBits ∧ magOf f b = 0) ∨ (magOf f a = 0 ∧ magOf f b = f.infBits)) := by
  have hinf := (f.infBits_pos hf).ne'
  rcases isFinite_or_isInf_or_isNaN a with ha | ha | ha <;> rcases isFinite_or_isInf_or_isNaN b with hb | hb | hb
  · have ha' := (isFinite_iff.mp ha).ne
    have hb' := (isFinite_iff.mp hb).ne
    simp [unpack_of_isFinite ha, unpack_of_isFinite hb, FVal.invalidMul, ha', hb']
  · simp [unpack_of_isFinite ha, unpack_of_isInf hb, FVal.invalidMul, hb, f.sig_eq_zero_iff, hinf]
  · have hb' := isNaN_iff.mp hb
    simp [unpack_of_isNaN hb, FVal.invalidMul, hb'.ne', (Nat.zero_lt_of_lt hb').ne']
  · simp [unpack_of_isInf ha, unpack_of_isFinite hb, FVal.invalidMul, ha, f.sig_eq_zero_iff, hinf]
  · simp [unpack_of_isInf ha, unpack_of_isInf hb, FVal.invalidMul, ha, hb, hinf]
  · have hb' := isNaN_iff.mp hb
    simp [unpack_of_isNaN hb, FVal.invalidMul, hb'.ne', (Nat.zero_lt_of_lt hb').ne']
  all_goals
    have ha' := isNaN_iff.mp ha
    simp [unpack_of_isNaN ha, FVal.invalidMul, ha'.ne', (Nat.zero_lt_of_lt ha').ne']

end Kinds

/-! ## Results that are not rounded -/

/-- The sign bit of a result. -/
def Fmt.signBits (f : Fmt) (neg : Bool) : Nat := if neg then f.signBit else 0

theorem roundVal_nan (f : Fmt) (rm : Rounding) (s : Bool) : roundVal f rm (.nan s) = (f.cNaN, flagIf s flagNV) := rfl

theorem roundVal_inf (f : Fmt) (rm : Rounding) (neg : Bool) :
    roundVal f rm (.inf neg) = (f.signBits neg + f.infBits, 0) := rfl

theorem roundVal_zero (f : Fmt) (rm : Rounding) (neg : Bool) (e : Int) :
    roundVal f rm (.fin neg 0 e) = (f.signBits neg, 0) := rfl

section NaNs

variable {f : Fmt} (rm : Rounding) {a b d : BitVec f.bits}

theorem fpAdd_of_isNaN (h : isNaN f a = true ∨ isNaN f b = true) :
    fpAdd f rm a b = (f.cNaN, flagIf (isSNaN f a || isSNaN f b) flagNV) := by
  rw [← unpack_isNan, ← unpack_isNan] at h
  rw [fpAdd, FVal.add_of_isNan rm h, roundVal_nan, unpack_signals, unpack_signals]

theorem fpSub_of_isNaN (h : isNaN f a = true ∨ isNaN f b = true) :
    fpSub f rm a b = (f.cNaN, flagIf (isSNaN f a || isSNaN f b) flagNV) := by
  rw [← unpack_isNan, ← unpack_isNan, ← FVal.isNan_neg (unpack f b)] at h
  rw [fpSub, FVal.add_of_isNan rm h, roundVal_nan, FVal.signals_neg, unpack_signals, unpack_signals]

theorem fpMul_of_isNaN (h : isNaN f a = true ∨ isNaN f b = true) :
    fpMul f rm a b = (f.cNaN, flagIf (isSNaN f a || isSNaN f b) flagNV) := by
  rw [← unpack_isNan, ← unpack_isNan] at h
  rw [fpMul, FVal.mul_of_isNan h, roundVal_nan, unpack_signals, unpack_signals]

theorem fpDiv_of_isNaN (h : isNaN f a = true ∨ isNaN f b = true) :
    fpDiv f rm a b = (f.cNaN, flagIf (isSNaN f a || isSNaN f b) flagNV) := by
  rw [← unpack_isNan, ← unpack_isNan] at h
  rw [fpDiv, FVal.div_of_isNan f h, roundVal_nan, unpack_signals, unpack_signals]
  simp

theorem fpSqrt_of_isNaN (h : isNaN f a = true) : fpSqrt f rm a = (f.cNaN, flagIf (isSNaN f a) flagNV) := by
  rw [fpSqrt, unpack_of_isNaN h]
  rfl

theorem fpToFp_of_isNaN (g : Fmt) (h : isNaN f a = true) : fpToFp f g rm a = (g.cNaN, flagIf (isSNaN f a) flagNV) := by
  rw [fpToFp, unpack_of_isNaN h]
  rfl

/-- A fused operation signals where an operand does, or where the product is invalid. -/
theorem fpFma_of_isNaN (hf : f.Proper) (np na : Bool)
    (h : isNaN f a = true ∨ isNaN f b = true ∨ isNaN f d = true ∨
      (magOf f a = f.infBits ∧ magOf f b = 0) ∨ (magOf f a = 0 ∧ magOf f b = f.infBits)) :
    fpFma f rm np na a b d = (f.cNaN, flagIf (isSNaN f a || isSNaN f b || isSNaN f d ||
      decide ((magOf f a = f.infBits ∧ magOf f b = 0) ∨ (magOf f a = 0 ∧ magOf f b = f.infBits))) flagNV) := by
  rw [fpFma_eq, FVal.add_of_isNan rm, roundVal_nan, FVal.signals_negIf, FVal.signals_negIf, FVal.signals_mul,
    unpack_signals, unpack_signals, unpack_signals, unpack_invalidMul hf, Bool.or_right_comm]
  rw [FVal.isNan_negIf, FVal.isNan_negIf, FVal.isNan_mul, unpack_isNan, unpack_isNan, unpack_isNan, unpack_invalidMul hf]
  simp only [Bool.or_eq_true, decide_eq_true_eq]
  tauto

theorem fpFma_of_invalid (hf : f.Proper) (np na : Bool)
    (h : (magOf f a = f.infBits ∧ magOf f b = 0) ∨ (magOf f a = 0 ∧ magOf f b = f.infBits)) :
    fpFma f rm np na a b d = (f.cNaN, flagNV) := by
  rw [fpFma_of_isNaN rm hf np na (.inr (.inr (.inr h))), decide_eq_true h, Bool.or_true]
  rfl

end NaNs

/-! ## Infinities (R405 b) -/

section Infinities

variable {f : Fmt} (rm : Rounding) {a b d : BitVec f.bits}

/-- A quotient that is no division by 0 has the flags of its rounding. -/
theorem fpDiv_of_div {v : FVal} (h : (unpack f a).div f (unpack f b) = (v, 0)) : fpDiv f rm a b = roundVal f rm v := by
  simp [fpDiv, h]

theorem fpAdd_inf_inf (ha : magOf f a = f.infBits) (hb : magOf f b = f.infBits) : fpAdd f rm a b =
    if signOf f a = signOf f b then (f.signBits (signOf f a) + f.infBits, 0) else (f.cNaN, flagNV) := by
  rw [fpAdd, unpack_of_isInf ha, unpack_of_isInf hb, FVal.add, apply_ite (roundVal f rm)]
  rfl

theorem fpSub_inf_inf (ha : magOf f a = f.infBits) (hb : magOf f b = f.infBits) : fpSub f rm a b =
    if signOf f a = signOf f b then (f.cNaN, flagNV) else (f.signBits (signOf f a) + f.infBits, 0) := by
  rw [fpSub, unpack_of_isInf ha, unpack_of_isInf hb, FVal.neg, FVal.add, apply_ite (roundVal f rm)]
  cases signOf f a <;> cases signOf f b <;> rfl

theorem fpMul_inf_inf (ha : magOf f a = f.infBits) (hb : magOf f b = f.infBits) :
    fpMul f rm a b = (f.signBits (signOf f a ^^ signOf f b) + f.infBits, 0) := by
  rw [fpMul, unpack_of_isInf ha, unpack_of_isInf hb]
  rfl

theorem fpDiv_inf_inf (ha : magOf f a = f.infBits) (hb : magOf f b = f.infBits) :
    fpDiv f rm a b = (f.cNaN, flagNV) := by
  have h : (unpack f a).div f (unpack f b) = (.nan true, 0) := by rw [unpack_of_isInf ha, unpack_of_isInf hb]; rfl
  rw [fpDiv_of_div rm h]
  rfl

theorem fpAdd_inf_finite (ha : magOf f a = f.infBits) (hb : isFinite f b) :
    fpAdd f rm a b = (f.signBits (signOf f a) + f.infBits, 0) ∧
    fpAdd f rm b a = (f.signBits (signOf f a) + f.infBits, 0) := by
  rw [fpAdd, fpAdd, unpack_of_isInf ha, unpack_of_isFinite hb]
  exact ⟨rfl, rfl⟩

theorem fpSub_inf_finite (ha : magOf f a = f.infBits) (hb : isFinite f b) :
    fpSub f rm a b = (f.signBits (signOf f a) + f.infBits, 0) ∧
    fpSub f rm b a = (f.signBits (!signOf f a) + f.infBits, 0) := by
  rw [fpSub, fpSub, unpack_of_isInf ha, unpack_of_isFinite hb]
  exact ⟨rfl, rfl⟩

theorem fpDiv_inf_finite (ha : magOf f a = f.infBits) (hb : isFinite f b) :
    fpDiv f rm a b = (f.signBits (signOf f a ^^ signOf f b) + f.infBits, 0) ∧
    fpDiv f rm b a = (f.signBits (signOf f a ^^ signOf f b), 0) := by
  have h : (unpack f a).div f (unpack f b) = (.inf (signOf f a ^^ signOf f b), 0) := by
    rw [unpack_of_isInf ha, unpack_of_isFinite hb]; rfl
  have h' : (unpack f b).div f (unpack f a) = (.fin (signOf f a ^^ signOf f b) 0 (f.ulpExp (magOf f b)), 0) := by
    rw [unpack_of_isInf ha, unpack_of_isFinite hb, Bool.xor_comm]; rfl
  exact ⟨fpDiv_of_div rm h, fpDiv_of_div rm h'⟩

theorem fpMul_inf_finite (ha : magOf f a = f.infBits) (hb : isFinite f b) :
    fpMul f rm a b =
      (if magOf f b = 0 then (f.cNaN, flagNV) else (f.signBits (signOf f a ^^ signOf f b) + f.infBits, 0)) ∧
    fpMul f rm b a = fpMul f rm a b := by
  rw [fpMul, fpMul, unpack_of_isInf ha, unpack_of_isFinite hb, FVal.mul, FVal.mul, Bool.xor_comm,
    apply_ite (roundVal f rm), if_congr f.sig_eq_zero_iff rfl rfl]
  exact ⟨rfl, rfl⟩

theorem fpSqrt_inf (ha : magOf f a = f.infBits) :
    fpSqrt f rm a = if signOf f a then (f.cNaN, flagNV) else (f.infBits, 0) := by
  rw [fpSqrt, unpack_of_isInf ha, FVal.sqrt, apply_ite (roundVal f rm), roundVal_inf, Fmt.signBits,
    if_neg Bool.false_ne_true, Nat.zero_add]
  rfl

theorem fpToFp_inf (g : Fmt) (ha : magOf f a = f.infBits) :
    fpToFp f g rm a = (g.signBits (signOf f a) + g.infBits, 0) := by
  rw [fpToFp, unpack_of_isInf ha]
  rfl

/-- An infinite product that is not invalid. -/
theorem unpack_mul_of_infinite (h : (magOf f a = f.infBits ∧ isNaN f b = false ∧ magOf f b ≠ 0) ∨
    (magOf f b = f.infBits ∧ isNaN f a = false ∧ magOf f a ≠ 0)) :
    (unpack f a).mul (unpack f b) = .inf (signOf f a ^^ signOf f b) := by
  have cases_of : ∀ {w : BitVec f.bits}, isNaN f w = false → isFinite f w ∨ magOf f w = f.infBits := fun h => by
    rw [isFinite_iff, ← le_iff_lt_or_eq]
    exact isNaN_eq_false_iff.mp h
  rcases h with ⟨ha, hb, h0⟩ | ⟨hb, ha, h0⟩
  · rw [unpack_of_isInf ha]
    rcases cases_of hb with hb | hb
    · rw [unpack_of_isFinite hb, FVal.mul, if_neg (mt f.sig_eq_zero_iff.mp h0)]
    · rw [unpack_of_isInf hb, FVal.mul]
  · rw [unpack_of_isInf hb]
    rcases cases_of ha with ha | ha
    · rw [unpack_of_isFinite ha, FVal.mul, if_neg (mt f.sig_eq_zero_iff.mp h0)]
    · rw [unpack_of_isInf ha, FVal.mul]

/-- A fused operation with an infinite product, or an infinite addend, or both. -/
theorem fpFma_infinite (np na : Bool) :
    let sp := signOf f a ^^ signOf f b ^^ np
    let sd := signOf f d ^^ na
    let infProduct := (magOf f a = f.infBits ∧ isNaN f b = false ∧ magOf f b ≠ 0) ∨
      (magOf f b = f.infBits ∧ isNaN f a = false ∧ magOf f a ≠ 0)
    (infProduct → magOf f d = f.infBits → fpFma f rm np na a b d =
      if sp = sd then (f.signBits sp + f.infBits, 0) else (f.cNaN, flagNV)) ∧
    (infProduct → isFinite f d → fpFma f rm np na a b d = (f.signBits sp + f.infBits, 0)) ∧
    (isFinite f a → isFinite f b → magOf f d = f.infBits →
      fpFma f rm np na a b d = (f.signBits sd + f.infBits, 0)) := by
  intro sp sd infProduct
  refine ⟨fun hp hd => ?_, fun hp hd => ?_, fun ha hb hd => ?_⟩
  · rw [fpFma_eq, unpack_mul_of_infinite hp, unpack_of_isInf hd, FVal.negIf_inf, FVal.negIf_inf, FVal.add,
      apply_ite (roundVal f rm)]
    rfl
  · rw [fpFma_eq, unpack_mul_of_infinite hp, unpack_of_isFinite hd, FVal.negIf_inf, FVal.negIf_fin]
    rfl
  · rw [fpFma_eq, unpack_of_isFinite ha, unpack_of_isFinite hb, unpack_of_isInf hd, FVal.mul, FVal.negIf_fin,
      FVal.negIf_inf]
    rfl

end Infinities

/-! ## Zeros (R405 c, h) -/

section Zeros

variable {f : Fmt} (rm : Rounding) {a b d : BitVec f.bits}

theorem fpDiv_by_zero (hf : f.Proper) (ha : isFinite f a) (hb : magOf f b = 0) : fpDiv f rm a b =
    if magOf f a = 0 then (f.cNaN, flagNV) else (f.signBits (signOf f a ^^ signOf f b) + f.infBits, flagDZ) := by
  by_cases ha0 : magOf f a = 0
  · have h : (unpack f a).div f (unpack f b) = (.nan true, 0) := by
      rw [unpack_of_isZero hf ha0, unpack_of_isZero hf hb]; rfl
    rw [fpDiv_of_div rm h, if_pos ha0]
    rfl
  · have h : (unpack f a).div f (unpack f b) = (.inf (signOf f a ^^ signOf f b), flagDZ) := by
      rw [unpack_of_isFinite ha, unpack_of_isZero hf hb, FVal.div, if_pos rfl, if_neg (mt f.sig_eq_zero_iff.mp ha0)]
    simp [fpDiv, h, ha0, roundVal_inf]

theorem fpDiv_of_isZero (hf : f.Proper) (ha : magOf f a = 0) (hb : isFinite f b) (hb0 : magOf f b ≠ 0) :
    fpDiv f rm a b = (f.signBits (signOf f a ^^ signOf f b), 0) := by
  rw [fpDiv, unpack_of_isZero hf ha, unpack_of_isFinite hb, FVal.div, if_neg (mt f.sig_eq_zero_iff.mp hb0)]
  simp [withSticky, roundVal_zero]

theorem fpMul_of_isZero (ha : isFinite f a) (hb : isFinite f b) (h : magOf f a = 0 ∨ magOf f b = 0) :
    fpMul f rm a b = (f.signBits (signOf f a ^^ signOf f b), 0) := by
  have h0 : f.sig (magOf f a) * f.sig (magOf f b) = 0 := by
    rwa [mul_eq_zero, f.sig_eq_zero_iff, f.sig_eq_zero_iff]
  rw [fpMul, unpack_of_isFinite ha, unpack_of_isFinite hb, FVal.mul, h0, roundVal_zero]

theorem fpAdd_of_sum_eq_zero (ha : isFinite f a) (hb : isFinite f b) (h : valueOf f a + valueOf f b = 0) :
    fpAdd f rm a b =
      (f.signBits (if signOf f a = signOf f b then signOf f a else decide (rm = .rdn)), 0) := by
  unfold valueOf at h
  rw [unpack_of_isFinite ha, unpack_of_isFinite hb] at h
  rw [fpAdd, unpack_of_isFinite ha, unpack_of_isFinite hb, FVal.add_fin_of_sum_eq_zero rm h, roundVal_zero]

theorem fpSub_of_difference_eq_zero (ha : isFinite f a) (hb : isFinite f b) (h : valueOf f a - valueOf f b = 0) :
    fpSub f rm a b =
      (f.signBits (if signOf f a = signOf f b then decide (rm = .rdn) else signOf f a), 0) := by
  unfold valueOf at h
  rw [unpack_of_isFinite ha, unpack_of_isFinite hb, sub_eq_add_neg, ← signed_true, ← value_fin_xor] at h
  rw [fpSub_eq, unpack_of_isFinite ha, unpack_of_isFinite hb, FVal.negIf_fin, FVal.add_fin_of_sum_eq_zero rm h,
    roundVal_zero]
  cases signOf f a <;> cases signOf f b <;> rfl

theorem fpFma_of_sum_eq_zero (np na : Bool) (ha : isFinite f a) (hb : isFinite f b) (hd : isFinite f d)
    (h : (if np then -1 else 1) * (valueOf f a * valueOf f b) + (if na then -1 else 1) * valueOf f d = 0) :
    fpFma f rm np na a b d = (f.signBits (if (signOf f a ^^ signOf f b ^^ np) = (signOf f d ^^ na)
      then signOf f a ^^ signOf f b ^^ np else decide (rm = .rdn)), 0) := by
  unfold valueOf at h
  rw [unpack_of_isFinite ha, unpack_of_isFinite hb, unpack_of_isFinite hd, ← signed_eq_mul, ← signed_eq_mul,
    ← value_mul_fin, ← value_fin_xor, ← value_fin_xor] at h
  rw [fpFma_eq, unpack_of_isFinite ha, unpack_of_isFinite hb, unpack_of_isFinite hd, FVal.mul, FVal.negIf_fin,
    FVal.negIf_fin, FVal.add_fin_of_sum_eq_zero rm h, roundVal_zero]

theorem fpSqrt_of_isZero (hf : f.Proper) (ha : magOf f a = 0) : fpSqrt f rm a = (a.toNat, 0) := by
  rw [fpSqrt, unpack_of_isZero hf ha, FVal.sqrt, if_pos rfl, roundVal_zero, toNat_eq_sign_add_magOf a, ha]
  rfl

theorem fpSqrt_of_negative (ha : isFinite f a) (h0 : magOf f a ≠ 0) (hs : signOf f a = true) :
    fpSqrt f rm a = (f.cNaN, flagNV) := by
  rw [fpSqrt, unpack_of_isFinite ha, FVal.sqrt, if_neg (mt f.sig_eq_zero_iff.mp h0), if_pos hs]
  rfl

theorem fpToFp_of_isZero (hf : f.Proper) (g : Fmt) (ha : magOf f a = 0) :
    fpToFp f g rm a = (g.signBits (signOf f a), 0) := by
  rw [fpToFp, unpack_of_isZero hf ha, roundVal_zero]

end Zeros

/-- Settles O49: each clause is the law of its operation for that kind of operand. -/
theorem floatSpecialResults : Obligations.FloatSpecialResults := by
  unfold Obligations.FloatSpecialResults
  intro f hmem rm a b d sig nan inf sign isInf isZero nv s1 s2
  have hf := Fmt.proper_of_mem hmem
  refine ⟨fun h => ⟨fpAdd_of_isNaN rm h, fpSub_of_isNaN rm h, fpMul_of_isNaN rm h, fpDiv_of_isNaN rm h⟩,
    fun h => ⟨fpSqrt_of_isNaN rm h, fun g _ => fpToFp_of_isNaN rm g h⟩,
    fun h np na => fpFma_of_isNaN rm hf np na (by tauto),
    fun ha hb => ⟨fpDiv_inf_inf rm ha hb, fpAdd_inf_inf rm ha hb, fpSub_inf_inf rm ha hb, fpMul_inf_inf rm ha hb⟩,
    fun ha hb => ?infFinite, fun ha hb => fpDiv_by_zero rm hf ha hb, fun ha hb h => fpMul_of_isZero rm ha hb h,
    fun ha hb hb0 => fpDiv_of_isZero rm hf ha hb hb0, fun ha hb h => fpAdd_of_sum_eq_zero rm ha hb h,
    fun ha hb h => fpSub_of_difference_eq_zero rm ha hb h, fun ha => fpSqrt_of_isZero rm hf ha,
    fun ha => fpSqrt_inf rm ha, fun ha h0 hs => fpSqrt_of_negative rm ha h0 hs, fun np na => ?fused,
    fun g _ => ⟨fun ha => fpToFp_of_isZero rm hf g ha, fun ha => fpToFp_inf rm g ha⟩, rfl⟩
  case infFinite =>
    obtain ⟨hadd, hadd'⟩ := fpAdd_inf_finite rm ha hb
    obtain ⟨hsub, hsub'⟩ := fpSub_inf_finite rm ha hb
    obtain ⟨hdiv, hdiv'⟩ := fpDiv_inf_finite rm ha hb
    obtain ⟨hmul, hmul'⟩ := fpMul_inf_finite rm ha hb
    exact ⟨hadd, hsub, hdiv, hdiv', hmul, hmul', hadd'.trans hadd.symm, hsub'⟩
  case fused =>
    obtain ⟨hpd, hp, hd⟩ := fpFma_infinite rm (a := a) (b := b) (d := d) np na
    exact ⟨fun h => fpFma_of_invalid rm hf np na h, hpd, hp, hd,
      fun ha hb hd h => fpFma_of_sum_eq_zero rm np na ha hb hd h⟩

end Sys2Proof.Machine
end

section
/-! Rounding a positive number to one of a rising sequence of numbers, and that `roundShift` does it for the multiples of a
power of two (R401). The sequence is that of the integers for a conversion, and that of the magnitudes of a format for a
floating-point result. -/

namespace Sys2Proof.Machine

open Sys2Proof

/-! ## Directions -/

/-- What a rounding mode does to a magnitude. -/
inductive Direction where
  /-- to nearest, a tie to the even one -/
  | even
  /-- to nearest, a tie upwards -/
  | outward
  | down
  | up

/-- The direction of a mode, for a number of this sign. -/
def Rounding.dir (rm : Rounding) (neg : Bool) : Direction :=
  match rm, neg with
  | .rne, _ => .even
  | .rmm, _ => .outward
  | .rtz, _ => .down
  | .rdn, false => .down
  | .rdn, true => .up
  | .rup, false => .up
  | .rup, true => .down

/-- Whether x, from a up to b, goes up to b and not down to a. -/
def Direction.GoesUp (dir : Direction) (a b x : ℝ) (odd : Prop) : Prop :=
  match dir with
  | .even => (a + b) / 2 < x ∨ ((a + b) / 2 = x ∧ odd)
  | .outward => (a + b) / 2 ≤ x
  | .down => False
  | .up => a < x

/-- x lies between two neighbours of the sequence, and the index N is that of the one it goes to. -/
def Direction.Rounds (dir : Direction) (v : Nat → ℝ) (x : ℝ) (N : Nat) : Prop :=
  ∃ r, v r ≤ x ∧ x < v (r + 1) ∧
    ((dir.GoesUp (v r) (v (r + 1)) x (r % 2 = 1) ∧ N = r + 1) ∨ (¬dir.GoesUp (v r) (v (r + 1)) x (r % 2 = 1) ∧ N = r))

section Laws

variable {dir : Direction} {v : Nat → ℝ} {x : ℝ} {N : Nat}

theorem Direction.not_goesUp_of_le {a b : ℝ} {odd : Prop} (hab : a < b) (hx : x ≤ a) : ¬dir.GoesUp a b x odd := by
  cases dir
  case even => rintro (h | ⟨h, -⟩) <;> linarith
  case outward => intro (h : _ ≤ x); linarith
  case down => exact id
  case up => exact hx.not_gt

/-- Which members of the sequence the rounded number reaches: this says all about it. -/
theorem Direction.Rounds.succ_le_iff (h : dir.Rounds v x N) (hv : StrictMono v) (B : Nat) :
    B + 1 ≤ N ↔ v (B + 1) ≤ x ∨ dir.GoesUp (v B) (v (B + 1)) x (B % 2 = 1) := by
  obtain ⟨r, hr, hr1, hN⟩ := h
  have hB := hv (Nat.lt_succ_self B)
  rcases lt_trichotomy B r with hlt | rfl | hgt
  · have hle : v (B + 1) ≤ x := (hv.monotone hlt).trans hr
    simp only [hle, true_or, iff_true]
    omega
  · rw [or_iff_right hr1.not_ge]
    rcases hN with ⟨hup, rfl⟩ | ⟨hup, rfl⟩ <;> simp [hup]
  · have hxB : x < v B := hr1.trans_le (hv.monotone hgt)
    have hno := Direction.not_goesUp_of_le (dir := dir) (odd := B % 2 = 1) hB hxB.le
    simp only [hno, (hxB.trans hB).not_ge, or_false, iff_false]
    omega

theorem Direction.Rounds.le_of_le (h : dir.Rounds v x N) (hv : StrictMono v) {B : Nat} (hx : x ≤ v B) : N ≤ B := by
  have hlt := hv (Nat.lt_succ_self B)
  rw [← Nat.lt_succ_iff, ← not_le]
  intro hle
  rcases (h.succ_le_iff hv B).mp hle with h | h
  · exact (hx.trans_lt hlt).not_ge h
  · exact Direction.not_goesUp_of_le hlt hx h

/-- The rounded number is x itself exactly when the sequence holds x. -/
theorem Direction.Rounds.eq_iff (h : dir.Rounds v x N) (hv : StrictMono v) : v N = x ↔ ∃ M, v M = x := by
  refine ⟨fun he => ⟨N, he⟩, fun ⟨M, hM⟩ => ?_⟩
  obtain ⟨r, hr, hr1, hN⟩ := h
  subst hM
  have hMr : M = r := le_antisymm (Nat.lt_succ_iff.mp (hv.lt_iff_lt.mp hr1)) (hv.le_iff_le.mp hr)
  rw [hMr] at hN ⊢
  rcases hN with ⟨hup, -⟩ | ⟨-, rfl⟩
  · exact absurd hup (Direction.not_goesUp_of_le (hv (Nat.lt_succ_self r)) le_rfl)
  · rfl

theorem Direction.Rounds.down (h : Direction.down.Rounds v x N) : v N ≤ x ∧ x < v (N + 1) := by
  obtain ⟨r, hr, hr1, ⟨hup, -⟩ | ⟨-, rfl⟩⟩ := h
  · exact hup.elim
  · exact ⟨hr, hr1⟩

/-- The number rounded up is the first of the sequence from x on. -/
theorem Direction.Rounds.up (h : Direction.up.Rounds v x N) (hv : StrictMono v) :
    x ≤ v N ∧ ∀ M, x ≤ v M → N ≤ M := by
  obtain ⟨r, hr, hr1, ⟨hup, rfl⟩ | ⟨hup, rfl⟩⟩ := h
  · exact ⟨hr1.le, fun M hM => hv.lt_iff_lt.mp (hup.trans_le hM)⟩
  · have hx : x ≤ v N := not_lt.mp hup
    exact ⟨hx, fun M hM => hv.le_iff_le.mp (hr.trans hM)⟩

theorem abs_sub_eq_of_le {a x : ℝ} (h : a ≤ x) : |a - x| = x - a := by rw [abs_sub_comm, abs_of_nonneg (sub_nonneg.mpr h)]

theorem abs_sub_eq_of_ge {a x : ℝ} (h : x ≤ a) : |a - x| = a - x := abs_of_nonneg (sub_nonneg.mpr h)

/-- The number rounded to nearest is none the further from x; a tie goes to the even index. -/
theorem Direction.Rounds.even (h : Direction.even.Rounds v x N) (hv : StrictMono v) (M : Nat) :
    |v N - x| ≤ |v M - x| ∧ (|v N - x| = |v M - x| → M ≠ N → N % 2 = 0) := by
  obtain ⟨r, hr, hr1, ⟨hup, rfl⟩ | ⟨hup, rfl⟩⟩ := h
  · rw [abs_sub_eq_of_ge hr1.le]
    rcases Nat.lt_or_ge r M with hM | hM
    · have hle := hv.monotone hM
      rw [abs_sub_eq_of_ge (hr1.le.trans hle)]
      refine ⟨by simpa using hle, fun he hne => absurd (hv.injective ?_) hne⟩
      simpa using he.symm
    · have hle := hv.monotone hM
      rw [abs_sub_eq_of_le (hle.trans hr)]
      rcases hup with hup | ⟨hup, hodd⟩
      · exact ⟨by linarith, fun he => by linarith⟩
      · exact ⟨by linarith, fun _ _ => by omega⟩
  · have hmid : x ≤ (v N + v (N + 1)) / 2 := not_lt.mp fun hlt => hup (.inl hlt)
    rw [abs_sub_eq_of_le hr]
    rcases Nat.lt_or_ge N M with hM | hM
    · have hle := hv.monotone (Nat.succ_le_of_lt hM)
      rw [abs_sub_eq_of_ge (hr1.le.trans hle)]
      refine ⟨by linarith, fun he _ => ?_⟩
      by_contra hodd
      exact hup (.inr ⟨by linarith, by omega⟩)
    · have hle := hv.monotone hM
      rw [abs_sub_eq_of_le (hle.trans hr)]
      refine ⟨by linarith, fun he hne => absurd (hv.injective ?_) hne⟩
      linarith

/-- The number rounded to nearest is none the further from x; a tie goes to the greater index. -/
theorem Direction.Rounds.outward (h : Direction.outward.Rounds v x N) (hv : StrictMono v) (M : Nat) :
    |v N - x| ≤ |v M - x| ∧ (|v N - x| = |v M - x| → M ≤ N) := by
  obtain ⟨r, hr, hr1, ⟨hup, rfl⟩ | ⟨hup, rfl⟩⟩ := h
  · have hmid : (v r + v (r + 1)) / 2 ≤ x := hup
    rw [abs_sub_eq_of_ge hr1.le]
    rcases Nat.lt_or_ge r M with hM | hM
    · have hle := hv.monotone hM
      rw [abs_sub_eq_of_ge (hr1.le.trans hle)]
      exact ⟨by simpa using hle, fun he => (hv.injective (by simpa using he)).ge⟩
    · have hle := hv.monotone hM
      rw [abs_sub_eq_of_le (hle.trans hr)]
      exact ⟨by linarith, fun _ => Nat.le_succ_of_le hM⟩
  · have hmid : x < (v N + v (N + 1)) / 2 := not_le.mp hup
    rw [abs_sub_eq_of_le hr]
    rcases Nat.lt_or_ge N M with hM | hM
    · have hle := hv.monotone (Nat.succ_le_of_lt hM)
      rw [abs_sub_eq_of_ge (hr1.le.trans hle)]
      exact ⟨by linarith, fun he => by linarith⟩
    · have hle := hv.monotone hM
      rw [abs_sub_eq_of_le (hle.trans hr)]
      exact ⟨by linarith, fun _ => hM⟩

end Laws

/-! ## A significand in place of the number -/

/-- At the places from 2^q up, m * 2^e can be rounded in place of x: it is x, or it is an odd number of units, a
quarter of 2^q or less each, and x lies strictly between its even neighbours (a sticky bit). -/
def Proxy (m : Nat) (e q : Int) (x : ℝ) : Prop :=
  x = m * 2 ^ e ∨ (m % 2 = 1 ∧ e + 2 ≤ q ∧ ((m : ℝ) - 1) * 2 ^ e < x ∧ x < ((m : ℝ) + 1) * 2 ^ e)

section Shift

variable {m k : Nat} {e q : Int} {x : ℝ}

theorem realUlp_pos (e : Int) : (0 : ℝ) < 2 ^ e := zpow_pos (by norm_num) e

theorem realUlp_add (e : Int) (k : Nat) : (2 : ℝ) ^ (e + (k : Int)) = 2 ^ k * 2 ^ e := by
  rw [zpow_add₀ two_ne_zero, zpow_natCast, mul_comm]

theorem Proxy.mono {p : Int} (h : Proxy m e q x) (hq : q ≤ p) : Proxy m e p x :=
  h.imp_right fun ⟨hodd, hle, hlo, hhi⟩ => ⟨hodd, hle.trans hq, hlo, hhi⟩

/-- x and its proxy compare alike with an even number of units, and with any number of quarters of 2^q. -/
theorem Proxy.lt_iff (h : Proxy m e q x) {c : Nat} (hc : e + 2 ≤ q → c % 2 = 0) :
    ((c : ℝ) * 2 ^ e < x ↔ c < m) ∧ (x < (c : ℝ) * 2 ^ e ↔ m < c) := by
  have hu := realUlp_pos e
  rcases h with rfl | ⟨hodd, hq, hlo, hhi⟩
  · simp only [mul_lt_mul_iff_left₀ hu, Nat.cast_lt, and_self]
  · have hc := hc hq
    have below : c < m → (c : ℝ) * 2 ^ e < x := fun hlt => by
      have hcm : (c : ℝ) ≤ m - 1 := by
        rw [le_sub_iff_add_le]
        exact_mod_cast hlt
      exact (mul_le_mul_of_nonneg_right hcm hu.le).trans_lt hlo
    have above : m < c → x < (c : ℝ) * 2 ^ e := fun hlt => by
      have hcm : (m : ℝ) + 1 ≤ c := by exact_mod_cast hlt
      exact hhi.trans_le (mul_le_mul_of_nonneg_right hcm hu.le)
    rcases lt_trichotomy c m with hlt | rfl | hgt
    · exact ⟨iff_of_true (below hlt) hlt, iff_of_false (below hlt).not_gt hlt.not_gt⟩
    · omega
    · exact ⟨iff_of_false (above hgt).not_gt hgt.not_gt, iff_of_true (above hgt) hgt⟩

theorem Proxy.eq_iff (h : Proxy m e q x) {c : Nat} (hc : e + 2 ≤ q → c % 2 = 0) : (c : ℝ) * 2 ^ e = x ↔ c = m := by
  obtain ⟨hlt, hgt⟩ := h.lt_iff hc
  rw [le_antisymm_iff, ← not_lt, ← not_lt, hlt, hgt]
  omega

theorem Proxy.le_iff (h : Proxy m e q x) {c : Nat} (hc : e + 2 ≤ q → c % 2 = 0) : (c : ℝ) * 2 ^ e ≤ x ↔ c ≤ m := by
  rw [← not_lt, (h.lt_iff hc).2, not_lt]

theorem roundsUp_iff (rm : Rounding) (neg : Bool) (r rem d : Nat) : roundsUp rm neg r rem d = true ↔
    match rm.dir neg with
    | .even => 2 ^ d < 2 * rem ∨ (2 ^ d = 2 * rem ∧ r % 2 = 1)
    | .outward => 2 ^ d ≤ 2 * rem
    | .down => False
    | .up => 0 < rem := by
  have := Nat.two_pow_pos d
  cases rm <;> cases neg <;> simp [roundsUp, Rounding.dir] <;> omega

/-- `roundShift` goes up from the multiple of 2^q below exactly where the direction does. -/
theorem roundsUp_iff_goesUp (rm : Rounding) (neg : Bool) {k : Nat} (hk : 1 ≤ k) (h : Proxy m e (e + (k : Int)) x) :
    roundsUp rm neg (m / 2 ^ k) (m % 2 ^ k) k = true ↔
      (rm.dir neg).GoesUp ((m / 2 ^ k : Nat) * 2 ^ (e + (k : Int))) ((m / 2 ^ k + 1 : Nat) * 2 ^ (e + (k : Int))) x
        (m / 2 ^ k % 2 = 1) := by
  obtain ⟨j, rfl⟩ := Nat.exists_eq_add_of_le' hk
  set r := m / 2 ^ (j + 1) with hr
  have hsplit : r * 2 ^ (j + 1) + m % 2 ^ (j + 1) = m := Nat.div_add_mod' m _
  have hlow : ((r : ℝ) * 2 ^ (e + ((j + 1 : Nat) : Int))) = (r * 2 ^ (j + 1) : Nat) * 2 ^ e := by
    rw [realUlp_add]; push_cast; ring
  have hmid : ((r : ℝ) * 2 ^ (e + ((j + 1 : Nat) : Int)) + ((r + 1 : Nat) : ℝ) * 2 ^ (e + ((j + 1 : Nat) : Int))) / 2 =
      (r * 2 ^ (j + 1) + 2 ^ j : Nat) * 2 ^ e := by
    rw [realUlp_add]; push_cast; ring
  have hp : 2 ^ (j + 1) = 2 * 2 ^ j := pow_succ' 2 j
  have even_low : r * 2 ^ (j + 1) % 2 = 0 := by rw [hp, mul_left_comm, Nat.mul_mod_right]
  have even_mid : e + 2 ≤ e + ((j + 1 : Nat) : Int) → (r * 2 ^ (j + 1) + 2 ^ j) % 2 = 0 := fun hle => by
    obtain ⟨i, rfl⟩ := Nat.exists_eq_add_of_le' (show 1 ≤ j by omega)
    rw [pow_succ' 2 i]
    omega
  rw [roundsUp_iff]
  unfold Direction.GoesUp
  cases rm.dir neg
  case even =>
    simp only [hmid, (h.lt_iff even_mid).1, h.eq_iff even_mid]
    omega
  case outward =>
    simp only [hmid, h.le_iff even_mid]
    omega
  case down => exact Iff.rfl
  case up =>
    simp only [hlow, (h.lt_iff fun _ => even_low).1]
    omega

/-! ## Shifts -/

theorem roundShift_neg_natCast (rm : Rounding) (neg : Bool) (m k : Nat) : roundShift rm neg m (-(k : Int)) = m * 2 ^ k := by
  rw [roundShift, if_pos (by omega), neg_neg, Int.toNat_natCast, Nat.shiftLeft_eq]

theorem roundShift_natCast (rm : Rounding) (neg : Bool) (m : Nat) {k : Nat} (hk : 1 ≤ k) :
    roundShift rm neg m (k : Int) =
      if roundsUp rm neg (m / 2 ^ k) (m % 2 ^ k) k = true then m / 2 ^ k + 1 else m / 2 ^ k := by
  rw [roundShift, if_neg (by omega), Int.toNat_natCast]
  simp only [Nat.shiftRight_eq_div_pow]

/-- Below its exponent a number is a multiple of 2^q, and no proxy. -/
theorem Proxy.eq_of_le (h : Proxy m (q + (k : Nat)) q x) : x = (m * 2 ^ k : Nat) * 2 ^ q := by
  rcases h with rfl | ⟨-, hle, -⟩
  · rw [realUlp_add]
    push_cast
    ring
  · omega

/-- A multiple of 2^q in units of the proxy. -/
theorem multiple_eq (c : Nat) (e : Int) (k : Nat) :
    (c : ℝ) * 2 ^ (e + (k : Int)) = ((c * 2 ^ k : Nat) : ℝ) * 2 ^ e := by
  rw [realUlp_add]
  push_cast
  ring

theorem multiple_even {k : Nat} (hk : 1 ≤ k) (c : Nat) : c * 2 ^ k % 2 = 0 := by
  obtain ⟨i, rfl⟩ := Nat.exists_eq_add_of_le' hk
  rw [pow_succ, ← mul_assoc, Nat.mul_mod_left]

theorem multiples_strictMono (q : Int) : StrictMono fun r : Nat => (r : ℝ) * 2 ^ q := fun _ _ h =>
  mul_lt_mul_of_pos_right (Nat.cast_lt.mpr h) (realUlp_pos q)

/-- The exponents of a significand and of the place it is rounded to, one a natural number above the other. -/
theorem exponent_cases (e q : Int) : (∃ k : Nat, e = q + k ∧ q - e = -(k : Int)) ∨
    ∃ k : Nat, 1 ≤ k ∧ q = e + k ∧ q - e = (k : Int) := by
  rcases le_or_gt q e with hd | hd
  · exact .inl ⟨(e - q).toNat, by omega, by omega⟩
  · exact .inr ⟨(q - e).toNat, by omega, by omega, by omega⟩

/-- `roundShift` rounds to a multiple of 2^q. -/
theorem roundShift_rounds (rm : Rounding) (neg : Bool) (h : Proxy m e q x) :
    (rm.dir neg).Rounds (fun r => r * 2 ^ q) x (roundShift rm neg m (q - e)) := by
  rcases exponent_cases e q with ⟨k, rfl, hk⟩ | ⟨k, hk1, rfl, hk⟩
  · rw [hk, roundShift_neg_natCast]
    have hx := h.eq_of_le
    have hlt := multiples_strictMono q (Nat.lt_succ_self (m * 2 ^ k))
    exact ⟨m * 2 ^ k, hx.ge, hx.trans_lt hlt, .inr ⟨Direction.not_goesUp_of_le hlt hx.le, rfl⟩⟩
  · rw [hk, roundShift_natCast rm neg m hk1]
    refine ⟨m / 2 ^ k, ?_, ?_, ?_⟩
    · simp only [multiple_eq, h.le_iff fun _ => multiple_even hk1 _]
      exact Nat.div_mul_le_self m _
    · simp only [multiple_eq, (h.lt_iff fun _ => multiple_even hk1 _).2]
      exact (Nat.div_lt_iff_lt_mul (Nat.two_pow_pos k)).mp (Nat.lt_succ_self _)
    · rw [← roundsUp_iff_goesUp rm neg hk1 h]
      by_cases hup : roundsUp rm neg (m / 2 ^ k) (m % 2 ^ k) k = true
      · exact .inl ⟨hup, if_pos hup⟩
      · exact .inr ⟨hup, if_neg hup⟩

/-- `inexactShift` says that the number is no multiple of 2^q. -/
theorem inexactShift_eq_false_iff (h : Proxy m e q x) :
    inexactShift m (q - e) = false ↔ ∃ c : Nat, (c : ℝ) * 2 ^ q = x := by
  rcases exponent_cases e q with ⟨k, rfl, hk⟩ | ⟨k, hk1, rfl, hk⟩
  · rw [hk]
    exact iff_of_true (by simp [inexactShift]) ⟨m * 2 ^ k, h.eq_of_le.symm⟩
  · have hpos : (0 : Int) < (k : Int) := by omega
    simp only [hk, inexactShift, multiple_eq, h.eq_iff fun _ => multiple_even hk1 _, Int.toNat_natCast, hpos,
      decide_true, Bool.true_and, bne_eq_false_iff_eq]
    exact ⟨fun h0 => ⟨m / 2 ^ k, Nat.div_mul_cancel (Nat.dvd_of_mod_eq_zero h0)⟩,
      fun ⟨c, hc⟩ => hc ▸ Nat.mul_mod_left c _⟩

end Shift

end Sys2Proof.Machine
end

section
/-! The conversions to an integer: the integer a finite number is rounded to is the only one that its mode allows, and what
lies outside the range is the nearest bound (R401, R406). -/

namespace Sys2Proof.Machine

open Sys2Proof

/-! ## Rounding to an integer -/

/-- The natural number N is x rounded in the direction. -/
def Direction.RoundsNat (dir : Direction) (x : ℚ) (N : Nat) : Prop :=
  match dir with
  | .even => |(N : ℚ) - x| ≤ 1 / 2 ∧ (|(N : ℚ) - x| = 1 / 2 → N % 2 = 0)
  | .outward => |(N : ℚ) - x| ≤ 1 / 2 ∧ (|(N : ℚ) - x| = 1 / 2 → x < N)
  | .down => (N : ℚ) ≤ x ∧ x < N + 1
  | .up => x ≤ N ∧ (N : ℚ) < x + 1

theorem Direction.Rounds.roundsNat {dir : Direction} {x : ℚ} {N : Nat} (h : dir.Rounds (fun r => (r : ℝ)) x N) :
    dir.RoundsNat x N := by
  obtain ⟨r, hr, hr1, hN⟩ := h
  beta_reduce at hr hr1
  have hr : (r : ℚ) ≤ x := by exact_mod_cast hr
  have hr1 : x < (r : ℚ) + 1 := by exact_mod_cast hr1
  have hmid : ((r : ℝ) + ((r + 1 : Nat) : ℝ)) / 2 = ((r + 1 / 2 : ℚ) : ℝ) := by push_cast; ring
  beta_reduce at hN
  unfold RoundsNat
  cases dir
  case even =>
    simp only [GoesUp, hmid, Rat.cast_lt, Rat.cast_inj] at hN
    rcases hN with ⟨hup, rfl⟩ | ⟨hup, rfl⟩
    · push_cast
      rw [abs_of_nonneg (by linarith)]
      rcases hup with hup | ⟨hup, hodd⟩
      · exact ⟨by linarith, fun he => by linarith⟩
      · exact ⟨by linarith, fun _ => by omega⟩
    · rw [abs_sub_comm, abs_of_nonneg (by linarith)]
      rw [not_or, not_lt] at hup
      obtain ⟨hle, htie⟩ := hup
      refine ⟨by linarith, fun he => ?_⟩
      have hx : (N : ℚ) + 1 / 2 = x := by linarith
      exact Nat.mod_two_ne_one.mp fun hodd => htie ⟨hx, hodd⟩
  case outward =>
    simp only [GoesUp, hmid, Rat.cast_le] at hN
    rcases hN with ⟨hup, rfl⟩ | ⟨hup, rfl⟩
    · push_cast
      rw [abs_of_nonneg (by linarith)]
      exact ⟨by linarith, fun _ => hr1⟩
    · rw [abs_sub_comm, abs_of_nonneg (by linarith)]
      exact ⟨by linarith, fun he => by linarith⟩
  case down =>
    rcases hN with ⟨hup, -⟩ | ⟨-, rfl⟩
    · exact hup.elim
    · exact ⟨hr, hr1⟩
  case up =>
    simp only [GoesUp] at hN
    rcases hN with ⟨hup, rfl⟩ | ⟨hup, rfl⟩
    · have hup : (r : ℚ) < x := by exact_mod_cast hup
      push_cast
      exact ⟨hr1.le, by linarith⟩
    · have hup : x ≤ (N : ℚ) := by exact_mod_cast not_lt.mp hup
      exact ⟨hup, by linarith⟩

/-- With its sign put back, it is the number rounded in the mode. -/
theorem Direction.RoundsNat.roundsToInt {rm : Rounding} {neg : Bool} {x : ℚ} {N : Nat} (hx : 0 ≤ x)
    (h : (rm.dir neg).RoundsNat x N) : RoundsToInt rm (signed neg x) (signedNat neg N) := by
  have hN : (0 : ℚ) ≤ N := Nat.cast_nonneg N
  have abs_signed : ∀ {y : ℚ}, 0 ≤ y → |signed neg y| = y := fun hy => by cases neg <;> simp [abs_of_nonneg hy]
  have abs_diff : |signed neg (N : ℚ) - signed neg x| = |(N : ℚ) - x| := by
    cases neg
    · rfl
    · rw [signed_true, signed_true, neg_sub_neg, abs_sub_comm]
  unfold RoundsToInt
  rw [signedNat_cast]
  cases rm
  case rne =>
    rw [abs_diff]
    exact ⟨h.1, fun he => by have := h.2 he; unfold signedNat; split <;> omega⟩
  case rmm =>
    rw [abs_diff, abs_signed hN, abs_signed hx]
    exact h
  case rtz =>
    rw [abs_signed hN, abs_signed hx, signed_mul_signed, Bool.xor_self]
    exact ⟨h.1, h.2, mul_nonneg hN hx⟩
  case rdn =>
    cases neg
    · exact h
    · obtain ⟨hle, hlt⟩ := h
      exact ⟨neg_le_neg hle, by simp only [signed_true]; linarith⟩
  case rup =>
    cases neg
    · exact h
    · obtain ⟨hle, hlt⟩ := h
      exact ⟨neg_le_neg hle, by simp only [signed_true]; linarith⟩

/-- Integers at most 1/2 from one number are one integer, or two neighbours with the number halfway. -/
theorem eq_or_halfway {q : ℚ} {i j : Int} (hi : |(i : ℚ) - q| ≤ 1 / 2) (hj : |(j : ℚ) - q| ≤ 1 / 2) (hij : i < j) :
    j = i + 1 ∧ q = i + 1 / 2 := by
  rw [abs_le] at hi hj
  have hij' : (i : ℚ) + 1 ≤ j := by exact_mod_cast hij
  have hj' : (j : ℚ) ≤ i + 1 := by linarith
  refine ⟨le_antisymm (by exact_mod_cast hj') hij, by linarith⟩

theorem roundsToInt_not_lt {rm : Rounding} {q : ℚ} {i j : Int} (hi : RoundsToInt rm q i) (hj : RoundsToInt rm q j) :
    ¬i < j := by
  intro hij
  have hij' : (i : ℚ) + 1 ≤ j := by exact_mod_cast hij
  cases rm
  case rne =>
    obtain ⟨hi, htie⟩ := hi
    obtain ⟨hj, htie'⟩ := hj
    obtain ⟨rfl, rfl⟩ := eq_or_halfway hi hj hij
    have := htie (by norm_num [abs_of_nonneg, abs_of_nonpos])
    have := htie' (by push_cast; norm_num [abs_of_nonneg, abs_of_nonpos])
    omega
  case rmm =>
    obtain ⟨hi, htie⟩ := hi
    obtain ⟨hj, htie'⟩ := hj
    obtain ⟨rfl, rfl⟩ := eq_or_halfway hi hj hij
    have hlow := htie (by norm_num [abs_of_nonneg, abs_of_nonpos])
    have hhigh := htie' (by push_cast; norm_num [abs_of_nonneg, abs_of_nonpos])
    rw [← sq_lt_sq] at hlow hhigh
    push_cast at hhigh
    have h1 : (i : ℚ) < 0 := by linarith
    have h2 : (-1 : ℚ) < i := by linarith
    have h1 : i < 0 := by exact_mod_cast h1
    have h2 : -1 < i := by exact_mod_cast h2
    omega
  case rtz =>
    obtain ⟨hi, hi1, his⟩ := hi
    obtain ⟨hj, hj1, hjs⟩ := hj
    rcases lt_trichotomy q 0 with hq | rfl | hq
    · have hi0 := nonpos_of_mul_nonneg_left his hq
      have hj0 := nonpos_of_mul_nonneg_left hjs hq
      rw [abs_of_neg hq, abs_of_nonpos hi0] at hi
      rw [abs_of_neg hq, abs_of_nonpos hj0] at hj1
      linarith
    · rw [abs_zero] at hi hj
      have hi0 := abs_nonpos_iff.mp hi
      have hj0 := abs_nonpos_iff.mp hj
      linarith
    · have hi0 := nonneg_of_mul_nonneg_left his hq
      have hj0 := nonneg_of_mul_nonneg_left hjs hq
      rw [abs_of_pos hq, abs_of_nonneg hj0] at hj
      rw [abs_of_pos hq, abs_of_nonneg hi0] at hi1
      linarith
  case rdn =>
    obtain ⟨-, hi⟩ := hi
    obtain ⟨hj, -⟩ := hj
    linarith
  case rup =>
    obtain ⟨hi, -⟩ := hi
    obtain ⟨-, hj⟩ := hj
    linarith

/-- A mode rounds a number to one integer. -/
theorem roundsToInt_unique {rm : Rounding} {q : ℚ} {i j : Int} (hi : RoundsToInt rm q i) (hj : RoundsToInt rm q j) :
    i = j :=
  le_antisymm (not_lt.mp (roundsToInt_not_lt hj hi)) (not_lt.mp (roundsToInt_not_lt hi hj))

/-! ## The conversion -/

theorem intMin_eq (sgn : Bool) (n : Nat) : intMin sgn n = if sgn then -2 ^ (n - 1) else 0 := by
  cases sgn <;> simp [intMin]

theorem intMax_eq (sgn : Bool) (n : Nat) : intMax sgn n = if sgn then 2 ^ (n - 1) - 1 else 2 ^ n - 1 := by
  cases sgn <;> simp [intMax]

section Convert

variable {f : Fmt} {a : BitVec f.bits} (rm : Rounding) (sgn : Bool) (n : Nat)

/-- The integer that a finite pattern is rounded to, before its range is looked at. -/
def roundedInt (f : Fmt) (rm : Rounding) (a : BitVec f.bits) : Int :=
  signedNat (signOf f a) (roundShift rm (signOf f a) (f.sig (magOf f a)) (-f.ulpExp (magOf f a)))

theorem fpToInt_of_isFinite (ha : isFinite f a) : fpToInt f rm sgn n a =
    if roundedInt f rm a < intMin sgn n then (intMin sgn n, flagNV)
    else if intMax sgn n < roundedInt f rm a then (intMax sgn n, flagNV)
    else (roundedInt f rm a, flagIf (inexactShift (f.sig (magOf f a)) (-f.ulpExp (magOf f a))) flagNX) := by
  rw [fpToInt, unpack_of_isFinite ha]
  rfl

theorem proxy_magValue (f : Fmt) (k : Nat) (q : Int) : Proxy (f.sig k) (f.ulpExp k) q ((f.magValue k : ℚ) : ℝ) :=
  .inl (by rw [Fmt.magValue]; push_cast; rfl)

theorem roundShift_magValue_rounds (f : Fmt) (neg : Bool) (k : Nat) :
    (rm.dir neg).Rounds (fun r => (r : ℝ)) (f.magValue k) (roundShift rm neg (f.sig k) (-f.ulpExp k)) := by
  simpa using roundShift_rounds rm neg (proxy_magValue f k 0)

theorem roundsToInt_roundedInt (ha : isFinite f a) : RoundsToInt rm (valueOf f a) (roundedInt f rm a) := by
  rw [valueOf_of_isFinite ha]
  exact (roundShift_magValue_rounds rm f _ _).roundsNat.roundsToInt (f.magValue_nonneg _)

/-- The conversion is exact where the number is an integer. -/
theorem inexactShift_eq_false_iff_roundedInt (ha : isFinite f a) :
    inexactShift (f.sig (magOf f a)) (-f.ulpExp (magOf f a)) = false ↔ ((roundedInt f rm a : Int) : ℚ) = valueOf f a := by
  have hex := inexactShift_eq_false_iff (proxy_magValue f (magOf f a) 0)
  have hround := (roundShift_magValue_rounds rm f (signOf f a) (magOf f a)).eq_iff Nat.strictMono_cast
  simp only [zpow_zero, mul_one, zero_sub] at hex
  rw [hex, ← hround, valueOf_of_isFinite ha, roundedInt, signedNat_cast]
  cases signOf f a <;> simp only [signed_false, signed_true, neg_inj] <;> norm_cast

theorem fpToInt_of_isNaN (ha : isNaN f a = true) : fpToInt f rm sgn n a = (intMax sgn n, flagNV) := by
  rw [fpToInt, unpack_of_isNaN ha]

theorem fpToInt_of_isInf (ha : magOf f a = f.infBits) :
    fpToInt f rm sgn n a = (if signOf f a then intMin sgn n else intMax sgn n, flagNV) := by
  rw [fpToInt, unpack_of_isInf ha]

theorem intMin_le_intMax : intMin sgn n ≤ intMax sgn n := by
  have h1 : (0 : Int) < 2 ^ n := by positivity
  have h2 : (0 : Int) < 2 ^ (n - 1) := by positivity
  rw [intMin_eq, intMax_eq]
  cases sgn
  · simp only [Bool.false_eq_true, if_false]
    omega
  · simp only [if_true]
    omega

end Convert

/-- Settles O50: the rounded integer is the one that the mode allows, and is cut to the range. -/
theorem conversionToInteger : Obligations.ConversionToInteger := by
  unfold Obligations.ConversionToInteger
  intro f hmem rm a sgn n hn lo hi nv r
  have hlo : intMin sgn n = lo := intMin_eq sgn n
  have hhi : intMax sgn n = hi := intMax_eq sgn n
  have hle : lo ≤ hi := hlo ▸ hhi ▸ intMin_le_intMax sgn n
  refine ⟨fun ha => ?_, fun ha hinf => ?_, fun ha i hround => ?_⟩
  · rw [← hhi]
    exact fpToInt_of_isNaN rm sgn n ha
  · have hmag : magOf f a = f.infBits :=
      ((isFinite_or_isInf_or_isNaN a).resolve_left hinf).resolve_right (Bool.eq_false_iff.mp ha)
    rw [← hlo, ← hhi]
    exact fpToInt_of_isInf rm sgn n hmag
  · obtain rfl : i = roundedInt f rm a := roundsToInt_unique hround (roundsToInt_roundedInt rm ha)
    have hr : r = _ := fpToInt_of_isFinite rm sgn n ha
    rw [hlo, hhi] at hr
    refine ⟨fun hlt => ?_, fun hlt => ?_, fun h1 h2 => ?_⟩
    · rw [hr, if_pos hlt]
      rfl
    · rw [hr, if_neg (hle.trans hlt.le).not_gt, if_pos hlt]
      rfl
    · have hex := inexactShift_eq_false_iff_roundedInt rm ha
      rw [hr, if_neg h1.not_gt, if_neg h2.not_gt]
      by_cases he : ((roundedInt f rm a : Int) : ℚ) = valueOf f a
      · rw [if_pos he, hex.mpr he]
        rfl
      · rw [if_neg he, Bool.eq_true_of_not_eq_false (mt hex.mp he)]
        rfl

end Sys2Proof.Machine
end

section
/-! Rounding to a format: `roundFin` gives the number rounded once, and the flags of that rounding (R401, R405 c to g). -/

namespace Sys2Proof.Machine

open Sys2Proof

/-! ## The magnitudes of a format as real numbers -/

/-- The number a magnitude stands for, as a real number. -/
noncomputable def Fmt.magReal (f : Fmt) (k : Nat) : ℝ := ((f.magValue k : ℚ) : ℝ)

theorem Fmt.magReal_strictMono (f : Fmt) : StrictMono f.magReal := fun _ _ h => Rat.cast_lt.mpr (f.magValue_strictMono h)

theorem Fmt.magReal_zero (f : Fmt) : f.magReal 0 = 0 := by rw [magReal, magValue_zero, Rat.cast_zero]

theorem Fmt.magReal_nonneg (f : Fmt) (k : Nat) : 0 ≤ f.magReal k := Rat.cast_nonneg.mpr (f.magValue_nonneg k)

theorem Fmt.magReal_add (f : Fmt) {j r : Nat} (hr : r ≤ 2 ^ f.prec) (h : j = 0 ∨ 2 ^ f.mb ≤ r) :
    f.magReal (j * 2 ^ f.mb + r) = r * 2 ^ (f.emin + (j : Int)) := by
  rw [magReal, f.magValue_add hr h]
  push_cast
  rfl

theorem Fmt.magReal_fracBound (f : Fmt) : f.magReal (2 ^ f.mb) = f.least := by
  rw [magReal, magValue_fracBound, least]
  push_cast
  rfl

theorem Fmt.Proper.three_le {f : Fmt} (hf : f.Proper) : 3 ≤ 2 ^ f.eb := by
  have : 2 ^ 2 ≤ 2 ^ f.eb := Nat.pow_le_pow_right (by norm_num) hf.eb
  omega

/-- Infinity as a magnitude: the highest binade, and a significand that has just left it. -/
theorem Fmt.Proper.infBits_eq {f : Fmt} (hf : f.Proper) : f.infBits = (2 ^ f.eb - 3) * 2 ^ f.mb + 2 ^ f.prec := by
  have h3 := hf.three_le
  rw [Fmt.infBits, Fmt.prec, pow_succ', ← Nat.add_mul]
  congr 1
  omega

theorem Fmt.Proper.topUlp_eq {f : Fmt} (hf : f.Proper) : f.topUlp = 2 ^ (f.emin + ((2 ^ f.eb - 3 : Nat) : Int)) := by
  rw [Fmt.topUlp, Nat.cast_sub hf.three_le]
  push_cast
  rw [add_sub_assoc]

theorem Fmt.magReal_infBits {f : Fmt} (hf : f.Proper) : f.magReal f.infBits = f.top + f.topUlp := by
  rw [hf.infBits_eq, f.magReal_add le_rfl (.inr (Nat.pow_le_pow_right (by norm_num) (Nat.le_succ _))), top, hf.topUlp_eq]
  push_cast
  ring

theorem Fmt.magReal_top {f : Fmt} (hf : f.Proper) : f.magReal (f.infBits - 1) = f.top := by
  have hpow : 2 ^ f.prec = 2 * 2 ^ f.mb := pow_succ' 2 f.mb
  have hB := f.fracBound_pos
  rw [hf.infBits_eq, Nat.add_sub_assoc (by omega), f.magReal_add (Nat.sub_le _ _) (.inr (by omega)), top, hf.topUlp_eq,
    Nat.cast_sub (by omega)]
  push_cast
  rfl

theorem Fmt.Proper.infBits_even {f : Fmt} (hf : f.Proper) : f.infBits % 2 = 0 := multiple_even hf.mb _

/-! ## The place of rounding -/

section Place

variable {f : Fmt} {m : Nat} {e : Int} {x : ℝ} (rm : Rounding) (neg : Bool)

/-- The place of the last bit of the significand, if the exponent had no lower bound. -/
def Fmt.leadPlace (f : Fmt) (m : Nat) (e : Int) : Int := e + (m.log2 : Int) + 1 - (f.prec : Int)

/-- The place a result is rounded at. -/
def Fmt.place (f : Fmt) (m : Nat) (e : Int) : Int := max (f.leadPlace m e) f.emin

theorem Fmt.leadPlace_le_place (f : Fmt) (m : Nat) (e : Int) : f.leadPlace m e ≤ f.place m e := le_max_left _ _

/-- How many binades the place lies above that of the subnormal numbers. -/
def Fmt.binades (f : Fmt) (m : Nat) (e : Int) : Nat := (f.place m e - f.emin).toNat

theorem Fmt.place_eq (f : Fmt) (m : Nat) (e : Int) : f.place m e = f.emin + (f.binades m e : Int) := by
  have : f.emin ≤ f.place m e := le_max_right _ _
  unfold binades
  omega

/-- The magnitude of the rounded result, as if the exponent had no upper bound. -/
def Fmt.roundedMag (f : Fmt) (m : Nat) (e : Int) : Nat :=
  f.binades m e * 2 ^ f.mb + roundShift rm neg m (f.place m e - e)

/-- A significand's leading bit lies one place above its fraction. -/
theorem Proxy.bounds (hm : m ≠ 0) (h : Proxy m e (f.leadPlace m e) x) :
    2 ^ f.mb * 2 ^ f.leadPlace m e ≤ x ∧ x < 2 ^ f.prec * 2 ^ f.leadPlace m e := by
  have hprec : (f.prec : Int) = f.mb + 1 := by unfold Fmt.prec; push_cast; rfl
  have hlead : f.leadPlace m e + f.mb = e + m.log2 := by unfold Fmt.leadPlace; omega
  have hlow : (2 : ℝ) ^ f.mb * 2 ^ f.leadPlace m e = (2 ^ m.log2 : Nat) * 2 ^ e := by
    rw [← realUlp_add, hlead, realUlp_add]
    push_cast
    rfl
  have hhigh : (2 : ℝ) ^ f.prec * 2 ^ f.leadPlace m e = (2 ^ (m.log2 + 1) : Nat) * 2 ^ e := by
    rw [Fmt.prec, pow_succ', mul_assoc, hlow, pow_succ']
    push_cast
    ring
  rw [hlow, hhigh]
  constructor
  · rw [h.le_iff fun hle => ?_]
    · exact Nat.log2_self_le hm
    · simpa using multiple_even (k := m.log2) (by omega) 1
  · rw [(h.lt_iff fun _ => ?_).2]
    · exact Nat.lt_log2_self
    · exact Nat.mul_mod_left _ _

theorem Proxy.pos (hm : m ≠ 0) (h : Proxy m e (f.leadPlace m e) x) : 0 < x :=
  lt_of_lt_of_le (by positivity) (h.bounds hm).1

/-- The multiples of the place on both sides of x are magnitudes of the format. -/
theorem magReal_of_between (hm : m ≠ 0) (h : Proxy m e (f.leadPlace m e) x) {r : Nat} (hr : r * 2 ^ f.place m e ≤ x)
    (hr1 : x < (r + 1 : Nat) * 2 ^ f.place m e) {s : Nat} (hs : s = r ∨ s = r + 1) :
    f.magReal (f.binades m e * 2 ^ f.mb + s) = s * 2 ^ f.place m e := by
  obtain ⟨hlo, hhi⟩ := h.bounds hm
  have hplace := realUlp_pos (f.place m e)
  have hr_lt : r < 2 ^ f.prec := by
    have hle : (2 : ℝ) ^ f.leadPlace m e ≤ 2 ^ f.place m e := zpow_le_zpow_right₀ (by norm_num) (le_max_left _ _)
    have hlt : (r : ℝ) * 2 ^ f.place m e < 2 ^ f.prec * 2 ^ f.place m e :=
      calc (r : ℝ) * 2 ^ f.place m e ≤ x := hr
        _ < 2 ^ f.prec * 2 ^ f.leadPlace m e := hhi
        _ ≤ 2 ^ f.prec * 2 ^ f.place m e := mul_le_mul_of_nonneg_left hle (by positivity)
    exact_mod_cast lt_of_mul_lt_mul_right hlt hplace.le
  have hr_ge : f.binades m e = 0 ∨ 2 ^ f.mb ≤ r := by
    refine or_iff_not_imp_left.mpr fun hb => Nat.lt_succ_iff.mp ?_
    have hlead : f.place m e = f.leadPlace m e := max_eq_left (by unfold Fmt.binades Fmt.place at hb; omega)
    rw [← hlead] at hlo
    exact_mod_cast lt_of_mul_lt_mul_right (hlo.trans_lt hr1) hplace.le
  rw [f.magReal_add (by omega) (by omega), f.place_eq]

/-- The result is x rounded to the magnitudes of the format. -/
theorem roundedMag_rounds (hf : f.Proper) (hm : m ≠ 0) (h : Proxy m e (f.leadPlace m e) x) :
    (rm.dir neg).Rounds f.magReal x (f.roundedMag rm neg m e) := by
  obtain ⟨r, hr, hr1, hN⟩ := roundShift_rounds rm neg (h.mono (f.leadPlace_le_place m e))
  have hlow := magReal_of_between hm h hr hr1 (.inl rfl)
  have hhigh := magReal_of_between hm h hr hr1 (.inr rfl)
  have hodd : (f.binades m e * 2 ^ f.mb + r) % 2 = 1 ↔ r % 2 = 1 := by
    have := multiple_even hf.mb (f.binades m e)
    omega
  refine ⟨f.binades m e * 2 ^ f.mb + r, hlow.trans_le hr, hr1.trans_eq hhigh.symm, ?_⟩
  rw [hodd, add_assoc, hlow, hhigh]
  exact hN.imp (And.imp_right fun hN => congrArg (_ + ·) hN) (And.imp_right fun hN => congrArg (_ + ·) hN)

/-- The model's test for exactness is that the result is x. -/
theorem inexactShift_place_eq_false_iff (hm : m ≠ 0) (h : Proxy m e (f.leadPlace m e) x) :
    inexactShift m (f.place m e - e) = false ↔ f.magReal (f.roundedMag rm neg m e) = x := by
  have hp := h.mono (f.leadPlace_le_place m e)
  have hround := roundShift_rounds rm neg hp
  obtain ⟨r, hr, hr1, hN⟩ := id hround
  rw [inexactShift_eq_false_iff hp, ← hround.eq_iff (multiples_strictMono _), Fmt.roundedMag,
    magReal_of_between hm h hr hr1 (by tauto)]

end Place

end Sys2Proof.Machine
end

section
/-! The result of a rounding and its flags, as claims state them: the nearest finite number of the mode or an overflow, and
inexact, overflow and underflow (R401, R405 d to g). -/

namespace Sys2Proof.Machine

open Sys2Proof

/-! ## Overflow and tininess, by direction -/

section Bounds

variable {f : Fmt} {rm : Rounding} {neg : Bool} {x : ℝ}

theorem abs_signed (neg : Bool) {y : ℝ} (hy : 0 ≤ y) : |signed neg y| = y := by
  cases neg <;> simp [abs_of_nonneg hy]

theorem signed_lt_zero_iff (hx : 0 < x) : signed neg x < 0 ↔ neg = true := by
  cases neg <;> simp [hx, hx.le]

theorem roundsAway_iff (hx : 0 < x) : RoundsAway rm (signed neg x) ↔ rm.dir neg = .up := by
  cases rm <;> cases neg <;> simp [RoundsAway, Rounding.dir, hx, hx.le]

theorem nearest_iff : (rm = .rne ∨ rm = .rmm) ↔ (rm.dir neg = .even ∨ rm.dir neg = .outward) := by
  cases rm <;> cases neg <;> simp [Rounding.dir]

theorem Fmt.bottomUlp_pos (f : Fmt) : 0 < f.bottomUlp := realUlp_pos _

theorem Fmt.topUlp_pos (f : Fmt) : 0 < f.topUlp := realUlp_pos _

/-- To nearest, a number goes up, or is up already, from halfway on: the lower neighbour here is an odd one. -/
theorem Direction.reaches_iff_of_nearest {dir : Direction} {a u : ℝ} (hu : 0 < u) (hdir : dir = .even ∨ dir = .outward) :
    (a + u ≤ x ∨ dir.GoesUp a (a + u) x True) ↔ a + u / 2 ≤ x := by
  have hmid : (a + (a + u)) / 2 = a + u / 2 := by ring
  have hgoes : dir.GoesUp a (a + u) x True ↔ a + u / 2 ≤ x := by
    rcases hdir with rfl | rfl
    · simp only [GoesUp, hmid, and_true, le_iff_lt_or_eq]
    · simp only [GoesUp, hmid]
  rw [hgoes]
  exact ⟨fun h => h.elim (fun h => by linarith) id, .inr⟩

/-- A number overflows where it reaches the number after the largest finite one, or rounds up to it. -/
theorem overflows_iff_goesUp (hx : 0 < x) : Overflows f rm (signed neg x) ↔
    f.top + f.topUlp ≤ x ∨ (rm.dir neg).GoesUp f.top (f.top + f.topUlp) x True := by
  have hnear := nearest_iff (rm := rm) (neg := neg)
  rw [Overflows, roundsAway_iff hx, abs_signed neg hx.le]
  by_cases hdir : rm.dir neg = .even ∨ rm.dir neg = .outward
  · rw [if_pos (hnear.mpr hdir), Direction.reaches_iff_of_nearest f.topUlp_pos hdir]
  · rw [if_neg (mt hnear.mp hdir)]
    cases hd : rm.dir neg <;> simp_all [Direction.GoesUp, or_comm]

/-- A number is tiny where it neither reaches the least normal number, nor rounds up to it at half the unit. -/
theorem tinyAfterRounding_iff_goesUp (hx : 0 < x) : TinyAfterRounding f rm (signed neg x) ↔
    ¬(f.least ≤ x ∨ (rm.dir neg).GoesUp (f.least - f.bottomUlp / 2) f.least x True) := by
  have hnear := nearest_iff (rm := rm) (neg := neg)
  rw [TinyAfterRounding, roundsAway_iff hx, abs_signed neg hx.le]
  by_cases hdir : rm.dir neg = .even ∨ rm.dir neg = .outward
  · have hreach := Direction.reaches_iff_of_nearest (a := f.least - f.bottomUlp / 2) (x := x) (half_pos f.bottomUlp_pos) hdir
    have hquarter : f.least - f.bottomUlp / 2 + f.bottomUlp / 2 / 2 = f.least - f.bottomUlp / 4 := by ring
    rw [sub_add_cancel, hquarter] at hreach
    rw [if_pos (hnear.mpr hdir), hreach, not_le]
  · rw [if_neg (mt hnear.mp hdir)]
    cases hd : rm.dir neg <;> simp_all [Direction.GoesUp]

end Bounds

/-! ## Overflow and tininess of the rounded result -/

section Result

variable {f : Fmt} {rm : Rounding} {neg : Bool} {m : Nat} {e : Int} {x : ℝ}

/-- A rounded number reaches infinity where it reaches the number after the largest finite one, or rounds up to it: the
largest finite magnitude is odd. -/
theorem Direction.Rounds.infBits_le_iff {dir : Direction} {N : Nat} (hf : f.Proper) (h : dir.Rounds f.magReal x N) :
    f.infBits ≤ N ↔ f.top + f.topUlp ≤ x ∨ dir.GoesUp f.top (f.top + f.topUlp) x True := by
  have hpos := f.infBits_pos hf
  have heven := hf.infBits_even
  have hle := h.succ_le_iff f.magReal_strictMono (f.infBits - 1)
  rwa [Nat.sub_add_cancel hpos, Fmt.magReal_infBits hf, Fmt.magReal_top hf, eq_true (by omega : (f.infBits - 1) % 2 = 1)]
    at hle

/-- The result reaches infinity exactly where the number overflows (R405 d). -/
theorem infBits_le_roundedMag_iff (hf : f.Proper) (hm : m ≠ 0) (h : Proxy m e (f.leadPlace m e) x) :
    f.infBits ≤ f.roundedMag rm neg m e ↔ Overflows f rm (signed neg x) := by
  rw [(roundedMag_rounds rm neg hf hm h).infBits_le_iff hf, overflows_iff_goesUp (h.pos hm)]

/-- The model's test for tininess: the result, rounded at the place of its own leading bit, is below the least normal
number. -/
def Fmt.tinyTest (f : Fmt) (rm : Rounding) (neg : Bool) (m : Nat) (e : Int) : Bool :=
  f.leadPlace m e < f.emin &&
    !(f.leadPlace m e == f.emin - 1 && roundShift rm neg m (f.leadPlace m e - e) == 2 ^ f.prec)

/-- The least normal number, as so many units half as great as those of the subnormal numbers. -/
theorem Fmt.least_eq (f : Fmt) : f.least = 2 ^ f.prec * 2 ^ (f.emin - 1) := by
  rw [least, ← realUlp_add, prec]
  congr 1
  push_cast
  ring

theorem Fmt.half_bottomUlp (f : Fmt) : f.bottomUlp / 2 = 2 ^ (f.emin - 1) := by
  rw [bottomUlp, zpow_sub_one₀ two_ne_zero]
  ring

/-- Just below the least normal number, the result goes up to it exactly where the number is not tiny. -/
theorem roundShift_eq_prec_iff (hm : m ≠ 0) (h : Proxy m e (f.leadPlace m e) x) (hlead : f.leadPlace m e = f.emin - 1) :
    roundShift rm neg m (f.leadPlace m e - e) = 2 ^ f.prec ↔
      f.least ≤ x ∨ (rm.dir neg).GoesUp (f.least - f.bottomUlp / 2) f.least x True := by
  have hround := roundShift_rounds rm neg h
  have hlt : x < f.least := by
    rw [f.least_eq, ← hlead]
    exact (h.bounds hm).2
  have hp := Nat.two_pow_pos f.prec
  have hcast : ((2 ^ f.prec : Nat) : ℝ) * 2 ^ (f.emin - 1) = f.least := by rw [f.least_eq]; push_cast; rfl
  have hpred : ((2 ^ f.prec - 1 : Nat) : ℝ) * 2 ^ (f.emin - 1) = f.least - f.bottomUlp / 2 := by
    rw [f.half_bottomUlp, f.least_eq, Nat.cast_sub hp]
    push_cast
    ring
  have hodd : (2 ^ f.prec - 1) % 2 = 1 := by rw [Fmt.prec, pow_succ']; have := f.fracBound_pos; omega
  have hreach := hround.succ_le_iff (multiples_strictMono _) (2 ^ f.prec - 1)
  rw [hlead] at hround hreach ⊢
  have hmax := hround.le_of_le (multiples_strictMono _) (hlt.le.trans_eq hcast.symm)
  rw [Nat.sub_add_cancel hp, hcast, hpred, eq_true hodd] at hreach
  rw [← hreach]
  exact ⟨Eq.ge, hmax.antisymm⟩

theorem tinyTest_iff (hm : m ≠ 0) (h : Proxy m e (f.leadPlace m e) x) :
    f.tinyTest rm neg m e = true ↔ TinyAfterRounding f rm (signed neg x) := by
  obtain ⟨hlo, hhi⟩ := h.bounds hm
  have hulp := f.bottomUlp_pos
  have hleast : f.least = 2 ^ f.mb * 2 ^ f.emin := realUlp_add _ _
  rw [tinyAfterRounding_iff_goesUp (h.pos hm), Fmt.tinyTest]
  rcases lt_trichotomy (f.leadPlace m e) (f.emin - 1) with hlt | heq | hgt
  · have hx : x ≤ f.least - f.bottomUlp / 2 := by
      have hp2 : (2 : ℝ) ≤ 2 ^ f.prec := le_self_pow₀ (by norm_num) (Nat.succ_ne_zero _)
      have hstep : (2 : ℝ) ^ f.leadPlace m e ≤ 2 ^ (f.emin - 2) := zpow_le_zpow_right₀ (by norm_num) (by omega)
      have hhalf : (2 : ℝ) ^ (f.emin - 1) = 2 * 2 ^ (f.emin - 2) := by
        rw [show f.emin - 1 = f.emin - 2 + 1 by omega, zpow_add_one₀ two_ne_zero, mul_comm]
      rw [f.least_eq, f.half_bottomUlp, hhalf]
      nlinarith [mul_le_mul_of_nonneg_left hstep (by positivity : (0 : ℝ) ≤ 2 ^ f.prec), realUlp_pos (f.emin - 2)]
    have hno := Direction.not_goesUp_of_le (dir := rm.dir neg) (odd := True) (by linarith : _ < f.least) hx
    refine iff_of_true ?_ (not_or.mpr ⟨by linarith, hno⟩)
    simp [hlt.ne, hlt.trans (sub_one_lt _)]
  · rw [← roundShift_eq_prec_iff hm h heq, heq]
    simp
  · have hx : f.least ≤ x := by
      rw [hleast]
      refine le_trans ?_ hlo
      exact mul_le_mul_of_nonneg_left (zpow_le_zpow_right₀ (by norm_num) (by omega)) (by positivity)
    refine iff_of_false ?_ (not_not.mpr (.inl hx))
    simp
    omega

end Result

end Sys2Proof.Machine
end

section
/-! `roundFin` meets `RoundsTo`: the pattern it gives, where it lands among the finite patterns, and its flags (R401, R405
d to g). -/

namespace Sys2Proof.Machine

open Sys2Proof

/-! ## The pattern of a sign and a magnitude -/

section Pattern

variable {f : Fmt} (neg : Bool) {K : Nat}

theorem signBits_add_lt (hK : K < 2 ^ (f.eb + f.mb)) : f.signBits neg + K < 2 ^ f.bits := by
  rw [Fmt.bits, pow_succ]
  unfold Fmt.signBits Fmt.signBit
  split <;> omega

theorem toNat_signBits_add (hK : K < 2 ^ (f.eb + f.mb)) :
    (BitVec.ofNat f.bits (f.signBits neg + K)).toNat = f.signBits neg + K := by
  rw [BitVec.toNat_ofNat, Nat.mod_eq_of_lt (signBits_add_lt neg hK)]

/-- A pattern put together from a sign and a magnitude has them. -/
theorem fields_signBits_add (hK : K < 2 ^ (f.eb + f.mb)) :
    signOf f (BitVec.ofNat f.bits (f.signBits neg + K)) = neg ∧
    magOf f (BitVec.ofNat f.bits (f.signBits neg + K)) = K := by
  have hsplit := toNat_eq_sign_add_magOf (BitVec.ofNat f.bits (f.signBits neg + K))
  have hlt := magOf_lt (BitVec.ofNat f.bits (f.signBits neg + K))
  rw [toNat_signBits_add neg hK] at hsplit
  generalize magOf f (BitVec.ofNat f.bits (f.signBits neg + K)) = M at *
  generalize signOf f (BitVec.ofNat f.bits (f.signBits neg + K)) = s at *
  unfold Fmt.signBits Fmt.signBit at hsplit
  cases neg <;> cases s <;> simp at hsplit ⊢ <;> omega

end Pattern

/-! ## Where a result lands -/

/-- The rounded magnitude, or what stands for it from infinity on: infinity, or the largest finite magnitude where the
direction is down (R405 d). -/
def Direction.cap (dir : Direction) (f : Fmt) (N : Nat) : Nat :=
  if f.infBits ≤ N then
    match dir with
    | .down => f.infBits - 1
    | .even | .outward | .up => f.infBits
  else N

/-- K is where x lands among the magnitudes up to infinity: what `RoundsTo` asks, without the signs. -/
def Direction.Lands (dir : Direction) (f : Fmt) (x : ℝ) (K : Nat) : Prop :=
  match dir with
  | .even => (K < f.infBits ↔ x < f.top + f.topUlp / 2) ∧ (K < f.infBits → ∀ M,
      |f.magReal K - x| ≤ |f.magReal M - x| ∧ (|f.magReal K - x| = |f.magReal M - x| → M ≠ K → K % 2 = 0))
  | .outward => (K < f.infBits ↔ x < f.top + f.topUlp / 2) ∧ (K < f.infBits → ∀ M,
      |f.magReal K - x| ≤ |f.magReal M - x| ∧ (|f.magReal K - x| = |f.magReal M - x| → M ≤ K))
  | .down => K < f.infBits ∧ f.magReal K ≤ x ∧ ∀ M < f.infBits, f.magReal M ≤ x → f.magReal M ≤ f.magReal K
  | .up => (K < f.infBits → x ≤ f.magReal K) ∧
      ∀ M < f.infBits, x ≤ f.magReal M → K < f.infBits ∧ f.magReal K ≤ f.magReal M

section Cap

variable {f : Fmt} {dir : Direction} {x : ℝ} {N : Nat}

theorem Direction.cap_of_lt (h : N < f.infBits) : dir.cap f N = N := if_neg h.not_ge

theorem Direction.cap_of_le (h : f.infBits ≤ N) (hdir : dir ≠ .down) : dir.cap f N = f.infBits := by
  cases dir
  case down => exact absurd rfl hdir
  all_goals exact if_pos h

theorem Direction.cap_down_of_le (h : f.infBits ≤ N) : Direction.down.cap f N = f.infBits - 1 := if_pos h

theorem Direction.cap_le (dir : Direction) (f : Fmt) (N : Nat) : dir.cap f N ≤ f.infBits := by
  rcases lt_or_ge N f.infBits with h | h
  · exact (cap_of_lt h).trans_le h.le
  · cases dir <;> simp [cap, h]

/-- The magnitude from which a number goes to infinity, in the directions to nearest. -/
theorem lt_infBits_iff_of_nearest (hf : f.Proper) (h : dir.Rounds f.magReal x N) (hdir : dir = .even ∨ dir = .outward) :
    N < f.infBits ↔ x < f.top + f.topUlp / 2 := by
  rw [← not_le, h.infBits_le_iff hf, Direction.reaches_iff_of_nearest f.topUlp_pos hdir, not_le]

/-- The result, capped, is where the number lands. -/
theorem Direction.Rounds.lands (hf : f.Proper) (h : dir.Rounds f.magReal x N) : dir.Lands f x (dir.cap f N) := by
  have hv := f.magReal_strictMono
  cases dir
  case even =>
    have hinf := lt_infBits_iff_of_nearest hf h (.inl rfl)
    rcases lt_or_ge N f.infBits with hN | hN
    · rw [Direction.cap_of_lt hN]
      exact ⟨hinf, fun _ M => h.even hv M⟩
    · rw [Direction.cap_of_le (dir := .even) hN nofun]
      exact ⟨by rw [← hinf]; exact iff_of_false (lt_irrefl _) hN.not_gt, fun hlt => absurd hlt (lt_irrefl _)⟩
  case outward =>
    have hinf := lt_infBits_iff_of_nearest hf h (.inr rfl)
    rcases lt_or_ge N f.infBits with hN | hN
    · rw [Direction.cap_of_lt hN]
      exact ⟨hinf, fun _ M => h.outward hv M⟩
    · rw [Direction.cap_of_le (dir := .outward) hN nofun]
      exact ⟨by rw [← hinf]; exact iff_of_false (lt_irrefl _) hN.not_gt, fun hlt => absurd hlt (lt_irrefl _)⟩
  case down =>
    obtain ⟨hle, hlt⟩ := h.down
    rcases lt_or_ge N f.infBits with hN | hN
    · rw [Direction.cap_of_lt hN]
      exact ⟨hN, hle, fun M _ hM => hv.monotone (Nat.lt_succ_iff.mp (hv.lt_iff_lt.mp (hM.trans_lt hlt)))⟩
    · rw [Direction.cap_down_of_le hN]
      have hpos := f.infBits_pos hf
      exact ⟨by omega, (hv.monotone (by omega)).trans hle, fun M hM _ => hv.monotone (by omega)⟩
  case up =>
    obtain ⟨hle, hleast⟩ := h.up hv
    rcases lt_or_ge N f.infBits with hN | hN
    · rw [Direction.cap_of_lt hN]
      exact ⟨fun _ => hle, fun M _ hM => ⟨hN, hv.monotone (hleast M hM)⟩⟩
    · rw [Direction.cap_of_le (dir := .up) hN nofun]
      exact ⟨fun hlt => absurd hlt (lt_irrefl _), fun M hM hx => absurd (hN.trans (hleast M hx)) hM.not_ge⟩

end Cap

/-! ## The signs put back -/

section Signs

variable {f : Fmt} {rm : Rounding} {neg : Bool} {x : ℝ} {w : BitVec f.bits}

/-- The real number of a finite pattern. -/
theorem valueOf_real {u : BitVec f.bits} (hu : isFinite f u) :
    ((valueOf f u : ℚ) : ℝ) = signed (signOf f u) (f.magReal (magOf f u)) := by
  rw [valueOf_of_isFinite hu, Fmt.magReal]
  cases signOf f u <;> simp

/-- The clause of `RoundsTo` that says which finite pattern, if any, the mode gives. -/
def NearestPattern (f : Fmt) (rm : Rounding) (q : ℝ) (w : BitVec f.bits) : Prop :=
  let v (u : BitVec f.bits) : ℝ := ((valueOf f u : ℚ) : ℝ)
  match rm with
  | .rdn => (isFinite f w → v w ≤ q) ∧ ∀ u, isFinite f u → v u ≤ q → isFinite f w ∧ v u ≤ v w
  | .rup => (isFinite f w → q ≤ v w) ∧ ∀ u, isFinite f u → q ≤ v u → isFinite f w ∧ v w ≤ v u
  | .rtz => isFinite f w ∧ |v w| ≤ |q| ∧ ∀ u, isFinite f u → |v u| ≤ |q| → |v u| ≤ |v w|
  | .rne => (isFinite f w ↔ |q| < f.top + f.topUlp / 2) ∧
      (isFinite f w → ∀ u, isFinite f u → |v w - q| ≤ |v u - q| ∧
        (|v w - q| = |v u - q| → v u ≠ v w → w.toNat % 2 = 0))
  | .rmm => (isFinite f w ↔ |q| < f.top + f.topUlp / 2) ∧
      (isFinite f w → ∀ u, isFinite f u → |v w - q| ≤ |v u - q| ∧ (|v w - q| = |v u - q| → |v u| ≤ |v w|))

theorem signed_signed (n k : Bool) (y : ℝ) : signed n (signed k y) = signed (n ^^ k) y := by
  cases n <;> cases k <;> simp

theorem abs_signed_sub_signed (neg : Bool) (y x : ℝ) : |signed neg y - signed neg x| = |y - x| := by
  cases neg
  · rfl
  · rw [signed_true, signed_true, neg_sub_neg, abs_sub_comm]

/-- A number of the other sign lies at least as far from x as 0 does. -/
theorem abs_signed_sub_of_ne {s : Bool} (hs : s ≠ neg) {y : ℝ} (hy : 0 ≤ y) (hx : 0 ≤ x) :
    |signed s y - signed neg x| = y + x := by
  rw [Bool.eq_not_of_ne hs]
  cases neg
  · rw [Bool.not_false, signed_true, signed_false, ← neg_add', abs_neg, abs_of_nonneg (add_nonneg hy hx)]
  · rw [Bool.not_true, signed_true, signed_false, sub_neg_eq_add, abs_of_nonneg (add_nonneg hy hx)]

theorem toNat_mod_two (hf : f.Proper) (w : BitVec f.bits) : w.toNat % 2 = magOf f w % 2 := by
  have hsign : f.signBit % 2 = 0 := by simpa [Fmt.signBit] using multiple_even (k := f.eb + f.mb) (by have := hf.mb; omega) 1
  rw [toNat_eq_sign_add_magOf w]
  split <;> omega

section Landed

variable (hx : 0 < x) (hs : signOf f w = neg)
include hs

theorem valueOf_of_sign (hw : isFinite f w) : ((valueOf f w : ℚ) : ℝ) = signed neg (f.magReal (magOf f w)) := by
  rw [valueOf_real hw, hs]

/-- Towards 0, seen from the side of the number's own sign. -/
theorem signed_valueOf_of_lands_down (h : Direction.down.Lands f x (magOf f w)) :
    isFinite f w ∧ signed neg ((valueOf f w : ℚ) : ℝ) ≤ x ∧ ∀ u : BitVec f.bits, isFinite f u →
      signed neg ((valueOf f u : ℚ) : ℝ) ≤ x →
        signed neg ((valueOf f u : ℚ) : ℝ) ≤ signed neg ((valueOf f w : ℚ) : ℝ) := by
  obtain ⟨hK, hle, hmax⟩ := h
  have hw := isFinite_iff.mpr hK
  rw [valueOf_of_sign hs hw, signed_signed, Bool.xor_self, signed_false]
  refine ⟨hw, hle, fun u hu hux => ?_⟩
  rw [valueOf_real hu, signed_signed] at hux ⊢
  cases hsu : neg ^^ signOf f u <;> rw [hsu] at hux
  · exact hmax _ (isFinite_iff.mp hu) hux
  · exact (neg_nonpos.mpr (f.magReal_nonneg _)).trans (f.magReal_nonneg _)

include hx in
/-- Away from 0, seen from the side of the number's own sign. -/
theorem signed_valueOf_of_lands_up (h : Direction.up.Lands f x (magOf f w)) :
    (isFinite f w → x ≤ signed neg ((valueOf f w : ℚ) : ℝ)) ∧ ∀ u : BitVec f.bits, isFinite f u →
      x ≤ signed neg ((valueOf f u : ℚ) : ℝ) →
      isFinite f w ∧ signed neg ((valueOf f w : ℚ) : ℝ) ≤ signed neg ((valueOf f u : ℚ) : ℝ) := by
  obtain ⟨hup, hmin⟩ := h
  have own : isFinite f w → signed neg ((valueOf f w : ℚ) : ℝ) = f.magReal (magOf f w) := fun hw => by
    rw [valueOf_of_sign hs hw, signed_signed, Bool.xor_self, signed_false]
  refine ⟨fun hw => (hup (isFinite_iff.mp hw)).trans_eq (own hw).symm, fun u hu hux => ?_⟩
  rw [valueOf_real hu, signed_signed] at hux ⊢
  cases hsu : neg ^^ signOf f u <;> rw [hsu] at hux
  · obtain ⟨hK, hle⟩ := hmin _ (isFinite_iff.mp hu) hux
    have hw := isFinite_iff.mpr hK
    exact ⟨hw, (own hw).trans_le hle⟩
  · exact absurd (hx.trans_le hux) (neg_nonpos.mpr (f.magReal_nonneg _)).not_gt

omit hs in
include hx in
/-- A finite pattern has the sign of the number, or lies further from it than 0 does. -/
theorem same_sign_or_beyond_zero {u : BitVec f.bits} (hu : isFinite f u) :
    ((valueOf f u : ℚ) : ℝ) = signed neg (f.magReal (magOf f u)) ∨
    |((valueOf f u : ℚ) : ℝ) - signed neg x| = f.magReal (magOf f u) + |f.magReal 0 - x| := by
  rw [valueOf_real hu]
  by_cases hsu : signOf f u = neg
  · exact .inl (by rw [hsu])
  · rw [f.magReal_zero, zero_sub, abs_neg, abs_of_pos hx]
    exact .inr (abs_signed_sub_of_ne hsu (f.magReal_nonneg _) hx.le)

include hx in
/-- Where the magnitude lands is where the number does. -/
theorem nearestPattern_of_lands (hf : f.Proper) (h : (rm.dir neg).Lands f x (magOf f w)) :
    NearestPattern f rm (signed neg x) w := by
  have hmag := fun k => f.magReal_nonneg k
  have habs : ∀ {u : BitVec f.bits}, isFinite f u → |((valueOf f u : ℚ) : ℝ)| = f.magReal (magOf f u) := fun hu => by
    rw [valueOf_real hu, abs_signed _ (hmag _)]
  have own : isFinite f w → |((valueOf f w : ℚ) : ℝ) - signed neg x| = |f.magReal (magOf f w) - x| := fun hw => by
    rw [valueOf_of_sign hs hw, abs_signed_sub_signed]
  unfold NearestPattern
  cases rm <;> dsimp only
  case rtz =>
    obtain ⟨hK, hle, hmax⟩ := h
    have hw := isFinite_iff.mpr hK
    rw [abs_signed neg hx.le, habs hw]
    refine ⟨hw, hle, fun u hu hux => ?_⟩
    rw [habs hu] at hux ⊢
    exact hmax _ (isFinite_iff.mp hu) hux
  case rdn =>
    cases neg
    · obtain ⟨hw, hle, hmax⟩ := signed_valueOf_of_lands_down hs h
      exact ⟨fun _ => hle, fun u hu hux => ⟨hw, hmax u hu hux⟩⟩
    · obtain ⟨hup, hmin⟩ := signed_valueOf_of_lands_up hx hs h
      refine ⟨fun hw => le_neg.mp (hup hw), fun u hu hux => ?_⟩
      obtain ⟨hw, hle⟩ := hmin u hu (le_neg.mp hux)
      exact ⟨hw, neg_le_neg_iff.mp hle⟩
  case rup =>
    cases neg
    · exact signed_valueOf_of_lands_up hx hs h
    · obtain ⟨hw, hle, hmax⟩ := signed_valueOf_of_lands_down hs h
      exact ⟨fun _ => neg_le.mp hle, fun u hu hux => ⟨hw, neg_le_neg_iff.mp (hmax u hu (neg_le.mp hux))⟩⟩
  case rne =>
    obtain ⟨hinf, hnear⟩ := h
    refine ⟨by rw [isFinite_iff, abs_signed neg hx.le]; exact hinf, fun hw u hu => ?_⟩
    have hnear := hnear (isFinite_iff.mp hw)
    rw [own hw, toNat_mod_two hf]
    rcases same_sign_or_beyond_zero (neg := neg) hx hu with hd | hd
    · rw [hd, abs_signed_sub_signed]
      obtain ⟨hle, htie⟩ := hnear (magOf f u)
      exact ⟨hle, fun he hne => htie he fun hM => hne (by rw [hM, valueOf_of_sign hs hw])⟩
    · rw [hd]
      obtain ⟨hle, htie⟩ := hnear 0
      refine ⟨by linarith [hmag (magOf f u)], fun he _ => ?_⟩
      rcases eq_or_ne 0 (magOf f w) with h0 | h0
      · rw [← h0]
      · exact htie (by linarith [hmag (magOf f u)]) h0
  case rmm =>
    obtain ⟨hinf, hnear⟩ := h
    refine ⟨by rw [isFinite_iff, abs_signed neg hx.le]; exact hinf, fun hw u hu => ?_⟩
    have hnear := hnear (isFinite_iff.mp hw)
    rw [own hw, habs hu, habs hw]
    rcases same_sign_or_beyond_zero (neg := neg) hx hu with hd | hd
    · rw [hd, abs_signed_sub_signed]
      obtain ⟨hle, htie⟩ := hnear (magOf f u)
      exact ⟨hle, fun he => f.magReal_strictMono.monotone (htie he)⟩
    · rw [hd]
      obtain ⟨hle, -⟩ := hnear 0
      exact ⟨by linarith [hmag (magOf f u)], fun he => by linarith [hmag (magOf f u), hmag (magOf f w)]⟩

end Landed

end Signs

/-! ## The result and its flags -/

section RoundFin

variable {f : Fmt} (rm : Rounding) (neg : Bool) {m : Nat} {e : Int} {x : ℝ}

theorem roundFin_of_ne_zero (hm : m ≠ 0) : roundFin f rm neg m e =
    if f.infBits ≤ f.roundedMag rm neg m e then overflowed f rm neg
    else (f.signBits neg + f.roundedMag rm neg m e,
      flagIf (f.tinyTest rm neg m e && inexactShift m (f.place m e - e)) flagUF |||
        flagIf (inexactShift m (f.place m e - e)) flagNX) := by
  unfold roundFin
  rw [if_neg hm]
  rfl

theorem overflowed_eq {N : Nat} (h : f.infBits ≤ N) :
    overflowed f rm neg = (f.signBits neg + (rm.dir neg).cap f N, flagOF ||| flagNX) := by
  cases rm <;> cases neg <;> simp [overflowed, Rounding.dir, Direction.cap, Fmt.signBits, h]

theorem roundFin_fst (hm : m ≠ 0) :
    (roundFin f rm neg m e).1 = f.signBits neg + (rm.dir neg).cap f (f.roundedMag rm neg m e) := by
  rw [roundFin_of_ne_zero rm neg hm]
  split
  · next h => rw [overflowed_eq rm neg h]
  · next h => rw [Direction.cap_of_lt (not_le.mp h)]

/-- The bits of the flags of a result that does not overflow. -/
theorem flags_of_finite (tiny inexact : Bool) :
    let fl := flagIf tiny flagUF ||| flagIf inexact flagNX
    fl.getLsbD 0 = inexact ∧ fl.getLsbD 1 = tiny ∧ fl.getLsbD 2 = false ∧ fl.getLsbD 3 = false ∧
      fl.getLsbD 4 = false := by
  revert tiny inexact
  decide

/-- What `RoundsTo` asks of the flags. -/
def FlagsOf (f : Fmt) (rm : Rounding) (q : ℝ) (exact : Prop) (fl : BitVec 5) : Prop :=
  (fl.getLsbD 0 = false ↔ exact) ∧ (fl.getLsbD 1 = true ↔ fl.getLsbD 0 = true ∧ TinyAfterRounding f rm q) ∧
  (fl.getLsbD 2 = true ↔ Overflows f rm q) ∧ fl.getLsbD 3 = false ∧ fl.getLsbD 4 = false

/-- A tiny number does not overflow. -/
theorem not_tiny_of_overflow (hf : f.Proper) (hm : m ≠ 0) (h : Proxy m e (f.leadPlace m e) x)
    (hN : f.infBits ≤ f.roundedMag rm neg m e) : ¬TinyAfterRounding f rm (signed neg x) := by
  rw [tinyAfterRounding_iff_goesUp (h.pos hm), not_not]
  by_contra hno
  have hlt : x ≤ f.magReal (2 ^ f.mb) := by
    rw [f.magReal_fracBound]
    exact (not_le.mp (not_or.mp hno).1).le
  have hle := (roundedMag_rounds rm neg hf hm h).le_of_le f.magReal_strictMono hlt
  have hinf : 2 * 2 ^ f.mb ≤ f.infBits := Nat.mul_le_mul_right _ (by have := hf.three_le; omega)
  have := f.fracBound_pos
  omega

theorem roundFin_flags (hf : f.Proper) (hm : m ≠ 0) (h : Proxy m e (f.leadPlace m e) x) :
    FlagsOf f rm (signed neg x) (f.roundedMag rm neg m e < f.infBits ∧ f.magReal (f.roundedMag rm neg m e) = x)
      (roundFin f rm neg m e).2 := by
  have hover := infBits_le_roundedMag_iff (rm := rm) (neg := neg) hf hm h
  rw [roundFin_of_ne_zero rm neg hm]
  rcases le_or_gt f.infBits (f.roundedMag rm neg m e) with hN | hN
  · rw [if_pos hN, overflowed_eq rm neg hN]
    have hbits : (flagOF ||| flagNX).getLsbD 0 = true ∧ (flagOF ||| flagNX).getLsbD 1 = false ∧
      (flagOF ||| flagNX).getLsbD 2 = true ∧ (flagOF ||| flagNX).getLsbD 3 = false ∧
      (flagOF ||| flagNX).getLsbD 4 = false := by decide
    obtain ⟨h0, h1, h2, h3, h4⟩ := hbits
    refine ⟨?_, ?_, ?_, h3, h4⟩
    · exact iff_of_false (ne_of_eq_of_ne h0 (Ne.symm Bool.false_ne_true)) fun hno => hno.1.not_ge hN
    · exact iff_of_false (ne_of_eq_of_ne h1 Bool.false_ne_true) fun hno => not_tiny_of_overflow rm neg hf hm h hN hno.2
    · exact iff_of_true h2 (hover.mp hN)
  · rw [if_neg hN.not_ge]
    obtain ⟨h0, h1, h2, h3, h4⟩ :=
      flags_of_finite (f.tinyTest rm neg m e && inexactShift m (f.place m e - e)) (inexactShift m (f.place m e - e))
    refine ⟨?_, ?_, ?_, h3, h4⟩
    · rw [h0, inexactShift_place_eq_false_iff rm neg hm h, and_iff_right hN]
    · rw [h0, h1, Bool.and_eq_true, tinyTest_iff hm h, and_comm]
    · rw [h2, ← hover]
      simp [hN]

/-- `roundFin` rounds the number its significand stands for, once. -/
theorem roundFin_roundsTo (hf : f.Proper) (hm : m ≠ 0) (h : Proxy m e (f.leadPlace m e) x) :
    RoundsTo f rm (signed neg x) (roundFin f rm neg m e) := by
  have hx := h.pos hm
  have hround := roundedMag_rounds rm neg hf hm h
  have hv := f.magReal_strictMono
  have hK := ((rm.dir neg).cap_le f (f.roundedMag rm neg m e)).trans_lt f.infBits_lt
  obtain ⟨hsign, hmag⟩ := fields_signBits_add neg hK
  have hfst := roundFin_fst (f := f) rm neg (e := e) hm
  obtain ⟨hNX, hUF, hOF, hDZ, hNV⟩ := roundFin_flags rm neg hf hm h
  rw [← hfst] at hsign hmag
  have hlands := hround.lands hf
  rw [← hmag] at hlands
  refine ⟨?_, ?_, ?_, nearestPattern_of_lands hx hsign hf hlands, hNX.trans ?_, hUF, hOF, hDZ, hNV⟩
  · rw [hfst]
    exact signBits_add_lt neg hK
  · rw [isNaN_eq_false_iff, hmag]
    exact Direction.cap_le _ _ _
  · rw [hsign, Bool.eq_iff_iff, decide_eq_true_iff, signed_lt_zero_iff hx]
  · have signed_inj : ∀ y : ℝ, signed neg y = signed neg x ↔ y = x := fun y => by cases neg <;> simp
    dsimp only
    rcases lt_or_ge (f.roundedMag rm neg m e) f.infBits with hN | hN
    · rw [Direction.cap_of_lt hN] at hmag
      have hfin := isFinite_iff.mpr (hmag.trans_lt hN)
      rw [and_iff_right hN, and_iff_right hfin, valueOf_real hfin, hsign, hmag, signed_inj]
    · refine iff_of_false (fun hno => hno.1.not_ge hN) fun ⟨hfin, hval⟩ => ?_
      rw [valueOf_real hfin, hsign, signed_inj] at hval
      have hself := (hround.eq_iff hv).mpr ⟨_, hval⟩
      have hlt := isFinite_iff.mp hfin
      rw [← hv.injective (hself.trans hval.symm)] at hlt
      exact hlt.not_ge hN

end RoundFin

end Sys2Proof.Machine
end

section
/-! Every floating-point result is the exact one, rounded once: sums, products and conversions are exact before they are
rounded, quotients and square roots have a sticky bit (R405). -/

namespace Sys2Proof.Machine

open Sys2Proof

section Operations

variable {f : Fmt} (rm : Rounding)

/-! ## Exact results -/

/-- An exact value that is not 0 is rounded once. -/
theorem roundFin_exact (hf : f.Proper) {neg : Bool} {m : Nat} {e : Int} (hm : m ≠ 0) :
    RoundsTo f rm ((FVal.fin neg m e).value : ℚ) (roundFin f rm neg m e) := by
  have hval : (((FVal.fin neg m e).value : ℚ) : ℝ) = signed neg ((m : ℝ) * 2 ^ e) := by
    rw [value_fin]
    cases neg <;> simp
  rw [hval]
  exact roundFin_roundsTo rm neg hf hm (.inl rfl)

theorem value_fin_ne_zero {neg : Bool} {m : Nat} {e : Int} (h : (FVal.fin neg m e).value ≠ 0) : m ≠ 0 := by
  rintro rfl
  exact h (by cases neg <;> simp [FVal.value])

theorem roundVal_fin_roundsTo (hf : f.Proper) {neg : Bool} {m : Nat} {e : Int} (h : (FVal.fin neg m e).value ≠ 0) :
    RoundsTo f rm ((FVal.fin neg m e).value : ℚ) (roundVal f rm (.fin neg m e)) :=
  roundFin_exact rm hf (value_fin_ne_zero h)

/-- A sum of finite values that is not 0. -/
theorem roundVal_add_roundsTo (hf : f.Proper) {n k : Bool} {m l : Nat} {e g : Int}
    (h : (FVal.fin n m e).value + (FVal.fin k l g).value ≠ 0) :
    RoundsTo f rm ((FVal.fin n m e).value + (FVal.fin k l g).value : ℚ)
      (roundVal f rm ((FVal.fin n m e).add rm (.fin k l g))) := by
  obtain ⟨s, hs, hadd, habs⟩ := FVal.add_fin_of_sum_ne_zero rm h
  have hval : (FVal.fin (decide ((FVal.fin n m e).value + (FVal.fin k l g).value < 0)) s (min e g)).value =
      (FVal.fin n m e).value + (FVal.fin k l g).value := by
    rw [value_fin, habs]
    rcases lt_or_gt_of_ne h with hneg | hpos
    · rw [decide_eq_true hneg, signed_true, abs_of_neg hneg, neg_neg]
    · rw [decide_eq_false hpos.not_gt, signed_false, abs_of_pos hpos]
  have hround := roundFin_exact rm hf hs (neg := decide ((FVal.fin n m e).value + (FVal.fin k l g).value < 0))
    (e := min e g)
  rw [hadd]
  rwa [hval] at hround

/-! ## Results with a sticky bit -/

/-- The integer part of a number, doubled, with a sticky bit: a proxy of the number where it has more bits than the
format. -/
theorem withSticky_proxy {r : Nat} {rest : Bool} {t : ℝ} (E : Int) (hr : 2 ^ f.prec ≤ r) (hlo : r ≤ t) (hhi : t < r + 1)
    (hrest : rest = false ↔ (r : ℝ) = t) :
    withSticky r rest ≠ 0 ∧ Proxy (withSticky r rest) E (f.leadPlace (withSticky r rest) E) (t * 2 ^ (E + 1)) := by
  have hpos := Nat.two_pow_pos f.prec
  have hE := realUlp_pos E
  have hbig : 2 ^ (f.prec + 1) ≤ withSticky r rest := by
    rw [pow_succ', withSticky]
    omega
  have hne : withSticky r rest ≠ 0 := by omega
  have hplace : E + 2 ≤ f.leadPlace (withSticky r rest) E := by
    have := (Nat.le_log2 hne).mpr hbig
    unfold Fmt.leadPlace
    omega
  have hstep : (2 : ℝ) ^ (E + 1) = 2 * 2 ^ E := by rw [zpow_add_one₀ two_ne_zero, mul_comm]
  refine ⟨hne, ?_⟩
  rw [hstep]
  cases rest
  · left
    rw [← hrest.mp rfl]
    simp only [withSticky, Bool.false_eq_true, if_false, Nat.add_zero]
    push_cast
    ring
  · right
    have hlt : (r : ℝ) < t := lt_of_le_of_ne hlo fun he => by simpa using hrest.mpr he
    refine ⟨by simp [withSticky], hplace, ?_, ?_⟩ <;> simp only [withSticky, if_true] <;> push_cast <;> nlinarith

/-! ## Quotients -/

/-- How far the dividend is shifted before the division. -/
def Fmt.divShift (f : Fmt) (l : Nat) : Nat := f.prec + 3 + l.log2

theorem FVal.div_fin_of_ne_zero {n k : Bool} {m l : Nat} {e g : Int} (hl : l ≠ 0) :
    (fin n m e).div f (fin k l g) = (fin (n ^^ k)
      (withSticky (m * 2 ^ f.divShift l / l) (m * 2 ^ f.divShift l % l != 0)) (e - g - (f.divShift l : Int) - 1), 0) := by
  rw [div, if_neg hl]
  simp only [Nat.shiftLeft_eq]
  rfl

theorem roundVal_div_roundsTo (hf : f.Proper) {n k : Bool} {m l : Nat} {e g : Int} (hm : m ≠ 0) (hl : l ≠ 0) :
    RoundsTo f rm ((FVal.fin n m e).value / (FVal.fin k l g).value : ℚ)
      (roundVal f rm ((FVal.fin n m e).div f (.fin k l g)).1) := by
  have hl0 : (0 : ℝ) < l := Nat.cast_pos.mpr (Nat.pos_of_ne_zero hl)
  set num := m * 2 ^ f.divShift l with hnum
  set E := e - g - (f.divShift l : Int) - 1 with hE
  have hr : 2 ^ f.prec ≤ num / l := by
    rw [Nat.le_div_iff_mul_le (Nat.pos_of_ne_zero hl)]
    calc 2 ^ f.prec * l ≤ 2 ^ f.prec * 2 ^ (l.log2 + 1) := Nat.mul_le_mul_left _ Nat.lt_log2_self.le
      _ ≤ 2 ^ f.divShift l := by rw [← pow_add]; exact Nat.pow_le_pow_right (by norm_num) (by unfold Fmt.divShift; omega)
      _ ≤ num := Nat.le_mul_of_pos_left _ (Nat.pos_of_ne_zero hm)
  have hlo : ((num / l : Nat) : ℝ) ≤ num / l := Nat.cast_div_le
  have hhi : (num : ℝ) / l < (num / l : Nat) + 1 := by
    rw [div_lt_iff₀ hl0]
    exact_mod_cast (Nat.div_lt_iff_lt_mul (Nat.pos_of_ne_zero hl)).mp (Nat.lt_succ_self (num / l))
  have hrest : (num % l != 0) = false ↔ ((num / l : Nat) : ℝ) = num / l := by
    rw [bne_eq_false_iff_eq, eq_div_iff hl0.ne', ← Nat.cast_mul, Nat.cast_inj, ← Nat.dvd_iff_mod_eq_zero,
      Nat.dvd_iff_div_mul_eq]
  obtain ⟨hne, hproxy⟩ := withSticky_proxy (f := f) E hr hlo hhi hrest
  have hval : (((FVal.fin n m e).value / (FVal.fin k l g).value : ℚ) : ℝ) =
      signed (n ^^ k) ((num : ℝ) / l * 2 ^ (E + 1)) := by
    have hquot : (num : ℝ) / l * 2 ^ (E + 1) = (m * 2 ^ e) / (l * 2 ^ g) := by
      rw [hE, hnum, sub_add_cancel, zpow_sub₀ two_ne_zero, zpow_sub₀ two_ne_zero, zpow_natCast]
      push_cast
      field_simp
    rw [hquot, value_fin, value_fin]
    cases n <;> cases k <;> simp [neg_div, div_neg]
  rw [hval, FVal.div_fin_of_ne_zero hl]
  exact roundFin_roundsTo rm _ hf hne hproxy

/-! ## Square roots -/

/-- The search by binary digits finds the integer square root. -/
theorem isqrtFrom_spec (x : Nat) : ∀ n r : Nat, r * r ≤ x → x < (r + 2 ^ n) * (r + 2 ^ n) →
    isqrtFrom x n r * isqrtFrom x n r ≤ x ∧ x < (isqrtFrom x n r + 1) * (isqrtFrom x n r + 1)
  | 0, r, hlo, hhi => ⟨hlo, hhi⟩
  | n + 1, r, hlo, hhi => by
    unfold isqrtFrom
    split
    · next h =>
      refine isqrtFrom_spec x n _ h ?_
      rwa [add_assoc, ← two_mul, ← pow_succ']
    · next h => exact isqrtFrom_spec x n r hlo (not_le.mp h)

theorem isqrt_spec (x : Nat) : isqrt x * isqrt x ≤ x ∧ x < (isqrt x + 1) * (isqrt x + 1) := by
  refine isqrtFrom_spec x _ 0 (Nat.zero_le _) ?_
  rw [Nat.zero_add, ← pow_add]
  exact Nat.lt_log2_self.trans_le (Nat.pow_le_pow_right (by norm_num) (by omega))

/-- How far the radicand is shifted before the root, so that its exponent becomes even. -/
def Fmt.sqrtShift (f : Fmt) (e : Int) : Nat := 2 * (f.prec + 3) + (e % 2).toNat

theorem roundVal_sqrt_roundsTo (hf : f.Proper) {m : Nat} {e : Int} (hm : m ≠ 0) :
    RoundsTo f rm (Real.sqrt ((FVal.fin false m e).value : ℚ)) (roundVal f rm ((FVal.fin false m e).sqrt f)) := by
  set X := m * 2 ^ f.sqrtShift e with hX
  set h := (e - (f.sqrtShift e : Int)) / 2 with hh
  have hsqrt : (FVal.fin false m e).sqrt f = .fin false (withSticky (isqrt X) (isqrt X * isqrt X != X)) (h - 1) := by
    rw [FVal.sqrt, if_neg hm, if_neg Bool.false_ne_true]
    simp only [Nat.shiftLeft_eq]
    rfl
  obtain ⟨hsq, hsq1⟩ := isqrt_spec X
  have hhalf : h + h = e - (f.sqrtShift e : Int) := by unfold Fmt.sqrtShift at hh ⊢; omega
  have hr : 2 ^ f.prec ≤ isqrt X := by
    have hbig : 2 ^ f.prec * 2 ^ f.prec ≤ X := by
      rw [← pow_add]
      calc 2 ^ (f.prec + f.prec) ≤ 2 ^ f.sqrtShift e := Nat.pow_le_pow_right (by norm_num) (by unfold Fmt.sqrtShift; omega)
        _ ≤ X := Nat.le_mul_of_pos_left _ (Nat.pos_of_ne_zero hm)
    exact Nat.lt_succ_iff.mp (Nat.mul_self_lt_mul_self_iff.mp (hbig.trans_lt hsq1))
  have hlo : (isqrt X : ℝ) ≤ Real.sqrt X := Real.le_sqrt_of_sq_le (by rw [sq]; exact_mod_cast hsq)
  have hhi : Real.sqrt X < isqrt X + 1 := by
    rw [Real.sqrt_lt' (by positivity), sq]
    exact_mod_cast hsq1
  have hrest : (isqrt X * isqrt X != X) = false ↔ (isqrt X : ℝ) = Real.sqrt X := by
    rw [bne_eq_false_iff_eq, eq_comm (a := (isqrt X : ℝ)), Real.sqrt_eq_iff_mul_self_eq (by positivity) (by positivity),
      eq_comm]
    norm_cast
  obtain ⟨hne, hproxy⟩ := withSticky_proxy (f := f) (h - 1) hr hlo hhi hrest
  rw [sub_add_cancel] at hproxy
  have hval : Real.sqrt ((FVal.fin false m e).value : ℚ) = signed false (Real.sqrt X * 2 ^ h) := by
    have hsplit : (((FVal.fin false m e).value : ℚ) : ℝ) = X * (2 ^ h * 2 ^ h) := by
      rw [value_fin, signed_false, ← zpow_add₀ two_ne_zero, hhalf, zpow_sub₀ two_ne_zero, zpow_natCast, hX]
      push_cast
      field_simp
    rw [hsplit, Real.sqrt_mul (by positivity), Real.sqrt_mul_self (realUlp_pos h).le, signed_false]
  rw [hval, hsqrt]
  exact roundFin_roundsTo rm _ hf hne hproxy

/-! ## The operations on patterns -/

section Patterns

variable {a b d : BitVec f.bits}

theorem fpAdd_roundsTo (hf : f.Proper) (ha : isFinite f a) (hb : isFinite f b) (h : valueOf f a + valueOf f b ≠ 0) :
    RoundsTo f rm (valueOf f a + valueOf f b : ℚ) (fpAdd f rm a b) := by
  unfold valueOf fpAdd at *
  rw [unpack_of_isFinite ha, unpack_of_isFinite hb] at *
  exact roundVal_add_roundsTo rm hf h

theorem fpSub_roundsTo (hf : f.Proper) (ha : isFinite f a) (hb : isFinite f b) (h : valueOf f a - valueOf f b ≠ 0) :
    RoundsTo f rm (valueOf f a - valueOf f b : ℚ) (fpSub f rm a b) := by
  rw [fpSub_eq]
  unfold valueOf at *
  rw [unpack_of_isFinite ha, unpack_of_isFinite hb, sub_eq_add_neg, ← signed_true, ← value_fin_xor] at *
  rw [FVal.negIf_fin]
  exact roundVal_add_roundsTo rm hf h

theorem fpMul_roundsTo (hf : f.Proper) (ha : isFinite f a) (hb : isFinite f b) (h : valueOf f a * valueOf f b ≠ 0) :
    RoundsTo f rm (valueOf f a * valueOf f b : ℚ) (fpMul f rm a b) := by
  unfold valueOf fpMul at *
  rw [unpack_of_isFinite ha, unpack_of_isFinite hb, ← value_mul_fin] at *
  exact roundVal_fin_roundsTo rm hf h

theorem fpFma_roundsTo (hf : f.Proper) (np na : Bool) (ha : isFinite f a) (hb : isFinite f b) (hd : isFinite f d)
    (h : signed np (valueOf f a * valueOf f b) + signed na (valueOf f d) ≠ 0) :
    RoundsTo f rm (signed np (valueOf f a * valueOf f b) + signed na (valueOf f d) : ℚ) (fpFma f rm np na a b d) := by
  rw [fpFma_eq]
  unfold valueOf at *
  rw [unpack_of_isFinite ha, unpack_of_isFinite hb, unpack_of_isFinite hd, ← value_mul_fin, ← value_fin_xor,
    ← value_fin_xor] at *
  rw [FVal.mul, FVal.negIf_fin, FVal.negIf_fin]
  exact roundVal_add_roundsTo rm hf h

theorem fpDiv_roundsTo (hf : f.Proper) (ha : isFinite f a) (hb : isFinite f b) (ha0 : valueOf f a ≠ 0)
    (hb0 : valueOf f b ≠ 0) : RoundsTo f rm (valueOf f a / valueOf f b : ℚ) (fpDiv f rm a b) := by
  have hl := mt f.sig_eq_zero_iff.mp (mt (valueOf_eq_zero_iff hb).mpr hb0)
  have hflag : ((unpack f a).div f (unpack f b)).2 = 0 := by
    rw [unpack_of_isFinite ha, unpack_of_isFinite hb, FVal.div_fin_of_ne_zero hl]
  rw [fpDiv_of_div rm (Prod.ext rfl hflag)]
  unfold valueOf at *
  rw [unpack_of_isFinite ha, unpack_of_isFinite hb] at *
  exact roundVal_div_roundsTo rm hf (value_fin_ne_zero ha0) hl

theorem fpSqrt_roundsTo (hf : f.Proper) (ha : isFinite f a) (h : 0 < valueOf f a) :
    RoundsTo f rm (Real.sqrt (valueOf f a : ℚ)) (fpSqrt f rm a) := by
  have hs : signOf f a = false := by
    have hnonneg := f.magValue_nonneg (magOf f a)
    rw [valueOf_of_isFinite ha] at h
    cases hs : signOf f a
    · rfl
    · rw [hs, signed_true] at h
      linarith
  unfold valueOf fpSqrt at *
  rw [unpack_of_isFinite ha, hs] at *
  exact roundVal_sqrt_roundsTo rm hf (value_fin_ne_zero h.ne')

theorem fpToFp_roundsTo {g : Fmt} (hg : g.Proper) (ha : isFinite f a) (h : valueOf f a ≠ 0) :
    RoundsTo g rm (valueOf f a : ℚ) (fpToFp f g rm a) := by
  unfold valueOf fpToFp at *
  rw [unpack_of_isFinite ha] at *
  exact roundVal_fin_roundsTo rm hg h

theorem intToFp_roundsTo (hf : f.Proper) {i : Int} (hi : i ≠ 0) : RoundsTo f rm (i : ℝ) (intToFp f rm i) := by
  have hval : (FVal.fin (decide (i < 0)) i.natAbs 0).value = i := by
    rw [value_fin, zpow_zero, mul_one, Nat.cast_natAbs]
    rcases lt_or_gt_of_ne hi with hneg | hpos
    · rw [decide_eq_true hneg, signed_true, abs_of_neg hneg, Int.cast_neg, neg_neg]
    · rw [decide_eq_false hpos.not_gt, signed_false, abs_of_pos hpos]
  have hround := roundFin_exact rm hf (neg := decide (i < 0)) (e := 0) (Int.natAbs_ne_zero.mpr hi)
  rwa [hval, Rat.cast_intCast] at hround

end Patterns

end Operations

theorem signed_cast (neg : Bool) (y : ℚ) : ((signed neg y : ℚ) : ℝ) = (if neg then (-1 : ℝ) else 1) * (y : ℝ) := by
  cases neg <;> simp

/-- Settles O48: each operation computes its result exactly, or with a sticky bit, and rounds it once. -/
theorem floatResultsAreRounded : Obligations.FloatResultsAreRounded := by
  unfold Obligations.FloatResultsAreRounded
  intro f hmem rm a b d ha hb hd v sign
  have hf := Fmt.proper_of_mem hmem
  refine ⟨fun h => ?_, fun h => ?_, fun h => ?_, fun ha0 hb0 => ?_, fun h => ?_, fun np na h => ?_,
    fun i hi => intToFp_roundsTo rm hf hi, fun g hg h => fpToFp_roundsTo rm (Fmt.proper_of_mem hg) ha (Rat.cast_ne_zero.mp h)⟩
  · rw [← Rat.cast_add] at h ⊢
    exact fpAdd_roundsTo rm hf ha hb (Rat.cast_ne_zero.mp h)
  · rw [← Rat.cast_sub] at h ⊢
    exact fpSub_roundsTo rm hf ha hb (Rat.cast_ne_zero.mp h)
  · rw [← Rat.cast_mul] at h ⊢
    exact fpMul_roundsTo rm hf ha hb (Rat.cast_ne_zero.mp h)
  · rw [← Rat.cast_div]
    exact fpDiv_roundsTo rm hf ha hb (Rat.cast_ne_zero.mp ha0) (Rat.cast_ne_zero.mp hb0)
  · exact fpSqrt_roundsTo rm hf ha (Rat.cast_pos.mp h)
  · rw [← Rat.cast_mul, ← signed_cast, ← signed_cast, ← Rat.cast_add] at h ⊢
    exact fpFma_roundsTo rm hf np na ha hb hd (Rat.cast_ne_zero.mp h)

end Sys2Proof.Machine
end

section
/-! The RV64 word instructions (R444 to R458): 32-bit results, sign-extended. -/

namespace Sys2Proof.Machine

open Sys2Proof

section Words

variable {n : Nat}

/-! Quotients and remainders with the choice by the divisor made among integers, where the result is then cut once. -/

theorem divSigned_eq_ofInt (a b : BitVec n) :
    divSigned a b = BitVec.ofInt n (if b = 0 then -1 else a.toInt.tdiv b.toInt) := by
  rw [divSigned_eq, apply_ite (BitVec.ofInt n)]

theorem divUnsigned_eq_ofInt (a b : BitVec n) :
    divUnsigned a b = BitVec.ofInt n (if b = 0 then -1 else a.toNat / b.toNat) := by
  rw [divUnsigned_eq, apply_ite (BitVec.ofInt n)]

theorem remSigned_eq_ofInt (a b : BitVec n) :
    remSigned a b = BitVec.ofInt n (if b = 0 then a.toInt else a.toInt.tmod b.toInt) := by
  rw [remSigned_eq, apply_ite (BitVec.ofInt n), BitVec.ofInt_toInt]

theorem remUnsigned_eq_ofInt (a b : BitVec n) :
    remUnsigned a b = BitVec.ofInt n (if b = 0 then a.toNat else a.toNat % b.toNat) := by
  rw [remUnsigned_eq, apply_ite (BitVec.ofInt n), ofInt_natCast a.toNat, BitVec.ofNat_toNat, BitVec.setWidth_eq]

end Words

/-- An instruction whose result is the sign extension of a 32-bit word (R475). -/
theorem State.writesWord_of {s : State} {i : Instr} {rd : BitVec 5} {w : BitVec 32} {v : Int}
    (h : exec i s = s.run (encode i) (s.hart.result rd (sext32 s.cfg w))) (hw : w = BitVec.ofInt 32 v) :
    s.WritesX i rd ((BitVec.ofInt 32 v).signExtend s.cfg.xlen) :=
  State.writesX_of h (congrArg (sext32 s.cfg) hw)

/-- Settles O22: each instruction is the shared result shape, with its 32-bit result as an integer. -/
theorem wordInstructions : Obligations.WordInstructions := by
  unfold Obligations.WordInstructions
  intro s rd rs1 rs2 sh imm
  exact ⟨State.writesWord_of rfl (add_eq_ofInt _ _), State.writesWord_of rfl (low32_add_ofInt _ _ _),
    State.writesWord_of rfl (sub_eq_ofInt _ _),
    State.writesWord_of rfl (shiftLeft_eq_ofInt _ _), State.writesWord_of rfl (shiftLeft_eq_ofInt _ _),
    State.writesWord_of rfl (shiftRight_eq_ofInt _ _), State.writesWord_of rfl (shiftRight_eq_ofInt _ _),
    State.writesWord_of rfl (sshiftRight_eq_ofInt _ _), State.writesWord_of rfl (sshiftRight_eq_ofInt _ _),
    State.writesWord_of rfl (mul_eq_ofInt _ _),
    State.writesWord_of rfl (divSigned_eq_ofInt _ _), State.writesWord_of rfl (divUnsigned_eq_ofInt _ _),
    State.writesWord_of rfl (remSigned_eq_ofInt _ _), State.writesWord_of rfl (remUnsigned_eq_ofInt _ _)⟩

end Sys2Proof.Machine
end

section
/-! What ends a reservation (R462): sc.d, traps and returns; every other instruction but lr.d keeps it, by its shape. -/

namespace Sys2Proof.Machine

open Sys2Proof

variable {c : Config}

/-! ## What the operations of the state do to the reservation -/

theorem Hart.Transfers.reservation {h k : Hart c} (hk : h.Transfers k) : k.reservation = h.reservation := by
  rw [hk.frame]
  rfl

@[simp] theorem Hart.writeCsr_reservation (h : Hart c) (r : Csr) (v : BitVec c.xlen) :
    (h.writeCsr r v).reservation = h.reservation := by
  cases r
  case stvec | sip | mtvec | mip => rw [Hart.writeCsr]; split <;> rfl
  all_goals rfl

@[simp] theorem Hart.trap_reservation (h : Hart c) (intr : Bool) (code : Nat) (tval : BitVec c.xlen) :
    (h.trap intr code tval).reservation = none := by
  unfold Hart.trap
  split <;> rfl

@[simp] theorem Hart.raise_reservation (h : Hart c) (e : Exc) (tval : BitVec c.xlen) :
    (h.raise e tval).reservation = none :=
  h.trap_reservation false e.code tval

@[simp] theorem Hart.scStore_reservation (h : Hart c) (rd : BitVec 5) (a : BitVec c.xlen) (v : BitVec 64) :
    (h.scStore rd a v).reservation = none := by
  unfold Hart.scStore
  split <;> rfl

/-! ## The instructions that end a reservation -/

/-- sc.d ends the reservation in both cases of R463, and where its checks fail, by the trap. -/
theorem reservation_of_exec_scD {s : State} {rd rs2 rs1 : BitVec 5} {aq rl : BitVec 1} {t : Hart s.cfg}
    (he : exec (.scD rd rs2 rs1 aq rl) s = .next (s.withHart t)) : t.reservation = none := by
  have hsc : exec (.scD rd rs2 rs1 aq rl) s = s.run (encode (.scD rd rs2 rs1 aq rl))
    (match accessCheck s.cfg .sc (s.hart.getX rs1) 8 with
      | some e => .trap s.hart e (s.hart.getX rs1)
      | none => .next (s.hart.scStore rd (s.hart.getX rs1) (to64 (s.hart.getX rs2)))) := rfl
  obtain rfl := State.next_inj (he.symm.trans hsc)
  split
  · exact Hart.raise_reservation _ _ _
  · exact Hart.scStore_reservation _ _ _ _

theorem reservation_of_raisesIllegal {s : State} {i : Instr} {t : Hart s.cfg} (hi : s.RaisesIllegal i)
    (he : exec i s = .next (s.withHart t)) : t.reservation = none := by
  obtain rfl := State.next_inj (he.symm.trans hi)
  exact Hart.raise_reservation _ _ _

theorem reservation_of_exec_mret {s : State} {t : Hart s.cfg} (he : exec .mret s = .next (s.withHart t)) :
    t.reservation = none := by
  obtain hi | ⟨-, hx⟩ := exec_mret_ends s
  · exact reservation_of_raisesIllegal hi he
  · obtain rfl := State.next_inj (he.symm.trans hx)
    rfl

theorem reservation_of_exec_sret {s : State} {t : Hart s.cfg} (he : exec .sret s = .next (s.withHart t)) :
    t.reservation = none := by
  obtain hi | ⟨-, -, hx⟩ := exec_sret_ends s
  · exact reservation_of_raisesIllegal hi he
  · obtain rfl := State.next_inj (he.symm.trans hx)
    rfl

/-! ## The results that keep the reservation -/

/-- The result completes with the reservation of h, or raises an exception having transferred only elements of a vector
access (R706). -/
def Res.KeepsReservation (h : Hart c) : Res c → Prop
  | .next k | .jump k _ | .wrote k _ _ => k.reservation = h.reservation
  | .trap k _ _ => k = h.withElements k
  | .illegal => True

theorem Res.keepsReservation_ite {h : Hart c} {p : Prop} [Decidable p] {r r' : Res c} (hr : r.KeepsReservation h)
    (hr' : r'.KeepsReservation h) : (if p then r else r').KeepsReservation h := by
  split
  · exact hr
  · exact hr'

/-! ### Registers, branches and CSRs -/

theorem Hart.keepsReservation_result (h : Hart c) (rd : BitVec 5) (v : BitVec c.xlen) :
    (h.result rd v).KeepsReservation h :=
  h.setX_reservation rd v

theorem Hart.keepsReservation_branch (h : Hart c) (taken : Bool) {n : Nat} (offset : BitVec n) :
    (h.branch taken offset).KeepsReservation h :=
  Res.keepsReservation_ite rfl rfl

theorem Hart.keepsReservation_link (h : Hart c) (rd : BitVec 5) (len : Nat) (target : BitVec c.xlen) :
    (h.link rd len target).KeepsReservation h :=
  h.setX_reservation rd _

theorem Hart.keepsReservation_setVL (h : Hart c) (rd rs1 : BitVec 5) (newtype : BitVec c.xlen) :
    (h.setVL rd rs1 newtype).KeepsReservation h :=
  Res.keepsReservation_ite (h.setX_reservation rd _) (h.setX_reservation rd 0)

theorem Hart.keepsReservation_csrOp (h : Hart c) (rd : BitVec 5) (csr : BitVec 12) (reads writes : Bool)
    (new : BitVec c.xlen → BitVec c.xlen) : (h.csrOp rd csr reads writes new).KeepsReservation h := by
  unfold Hart.csrOp
  split
  · trivial
  · cases reads <;> cases writes <;> simp [Res.KeepsReservation]

/-! ### Floating point -/

theorem Hart.keepsReservation_withFp (h : Hart c) {r : Res c} (hr : r.KeepsReservation h) :
    (h.withFp r).KeepsReservation h :=
  Res.keepsReservation_ite trivial hr

theorem Hart.keepsReservation_withRm (h : Hart c) (rm : BitVec 3) {k : Rounding → Res c}
    (hk : ∀ m, (k m).KeepsReservation h) : (h.withRm rm k).KeepsReservation h :=
  h.keepsReservation_withFp <| by
    split
    · trivial
    · exact hk _

theorem Hart.keepsReservation_fpF (h : Hart c) (rd : BitVec 5) (w : BitVec c.flen) (fl : BitVec 5) :
    (Res.next ((h.setF rd w).setFlags fl)).KeepsReservation h :=
  Hart.setFlags_reservation _ fl

theorem Hart.keepsReservation_fpX (h : Hart c) (rd : BitVec 5) (v : BitVec c.xlen) (fl : BitVec 5) :
    (Res.next ((h.setX rd v).setFlags fl)).KeepsReservation h :=
  (Hart.setFlags_reservation _ fl).trans (h.setX_reservation rd v)

/-! ### Memory and atomics -/

theorem Hart.keepsReservation_withLoad (h : Hart c) (k : Access) (a : BitVec c.xlen) (n : Nat)
    {use : Hart c → BitVec 64 → Res c} (huse : ∀ v, (use (h.afterRead a n) v).KeepsReservation h) :
    (h.withLoad k a n use).KeepsReservation h := by
  unfold Hart.withLoad
  split
  · exact (Hart.Transfers.refl h).frame
  · exact huse _

theorem Hart.keepsReservation_loadX (h : Hart c) (rd : BitVec 5) (a : BitVec c.xlen) (n : Nat)
    (ext : BitVec 64 → BitVec c.xlen) : (h.loadX rd a n ext).KeepsReservation h :=
  h.keepsReservation_withLoad .load a n fun v =>
    (Hart.setX_reservation _ rd (ext v)).trans (h.afterRead_reservation a n)

theorem Hart.keepsReservation_loadF (h : Hart c) (rd : BitVec 5) (a : BitVec c.xlen) (n : Nat)
    (ext : BitVec 64 → BitVec c.flen) :
    (h.withFp (h.withLoad .load a n fun h' v => .next (h'.setF rd (ext v)))).KeepsReservation h :=
  h.keepsReservation_withFp (h.keepsReservation_withLoad .load a n fun _ => h.afterRead_reservation a n)

theorem Hart.keepsReservation_storeMem (h : Hart c) (a : BitVec c.xlen) (n : Nat) (v : BitVec 64) :
    (h.storeMem a n v).KeepsReservation h := by
  unfold Hart.storeMem Hart.withStore
  split
  · exact (Hart.Transfers.refl h).frame
  · exact h.writeMem_reservation a n v

theorem Hart.keepsReservation_amo (h : Hart c) (rd rs1 : BitVec 5) (n : Nat) (f : BitVec 64 → BitVec 64)
    (ext : BitVec 64 → BitVec c.xlen) : (h.amo rd rs1 n f ext).KeepsReservation h := by
  unfold Hart.amo
  refine h.keepsReservation_withLoad .amo (h.getX rs1) n fun v => ?_
  simp [Res.KeepsReservation]

/-! ### Vector elements -/

/-- vstart, which an exception sets to its element, is within the frame of the elements (R556). -/
theorem Hart.Transfers.frame_vstart {h k : Hart c} (hk : h.Transfers k) (start : BitVec c.xlen) :
    { k with vstart := start } = h.withElements { k with vstart := start } :=
  congrArg (fun k : Hart c => { k with vstart := start }) hk.frame

theorem keepsReservation_vloop {h : Hart c} {body : Nat → Hart c → Res c} (hbody : ∀ j k, Res.Elem k (body j k))
    (count j : Nat) (k : Hart c) (hk : h.Transfers k) : (vloop body count j k).KeepsReservation h := by
  induction count generalizing j k with
  | zero => exact hk.reservation
  | succ n ih =>
    rw [vloop]
    have hb := hbody j k
    generalize body j k = r at hb ⊢
    cases hb with
    | next hl => exact ih (j + 1) _ (hk.trans hl)
    | trap hl => exact (hk.trans hl).frame_vstart _

theorem Hart.keepsReservation_elements (h : Hart c) (vm : BitVec 1) {body : Nat → Hart c → Res c}
    (hbody : ∀ j k, Res.Elem k (body j k)) : (h.elements vm body).KeepsReservation h := by
  refine keepsReservation_vloop (fun j k => ?_) _ _ h (.refl h)
  split
  · exact hbody j k
  · exact .next (.refl k)

/-- A vector instruction: its checks fail, or it does its elements. -/
theorem Hart.keepsReservation_vector (h : Hart c) (vm : BitVec 1) (legal : Bool) {body : Nat → Hart c → Res c}
    (hbody : ∀ j k, Res.Elem k (body j k)) :
    Res.KeepsReservation h (if legal then h.elements vm body else .illegal) :=
  Res.keepsReservation_ite (h.keepsReservation_elements vm hbody) trivial

/-! ## Every other instruction -/

/-- The instructions that set or end a reservation by themselves: lr.d, sc.d, mret and sret. -/
def reserves (i : Instr) : Bool :=
  match i with
  | .lrD .. | .scD .. | .mret | .sret => true
  | _ => false

/-- Every other instruction ends in a result that keeps the reservation: by its shape. -/
theorem exec_keepsReservation (i : Instr) (s : State) (hi : reserves i = false) :
    ∃ r, exec i s = s.run (encode i) r ∧ r.KeepsReservation s.hart := by
  cases i
  case lrD | scD | mret | sret => cases hi
  case amoaddD | amoandD | amomaxD | amomaxuD | amominD | amominuD | amominuW | amoorD | amoswapD | amoxorD =>
    exact ⟨_, rfl, s.hart.keepsReservation_amo _ _ _ _ _⟩
  case cLw | cLwsp | cLd | cLdsp | lb | lbu | lh | lhu | lw | lwu | ld =>
    exact ⟨_, rfl, s.hart.keepsReservation_loadX _ _ _ _⟩
  case cSw | cSwsp | cSd | cSdsp | sb | sh | sw | sd => exact ⟨_, rfl, s.hart.keepsReservation_storeMem _ _ _⟩
  case cBeqz | cBnez | beq | bne | blt | bge | bltu | bgeu => exact ⟨_, rfl, s.hart.keepsReservation_branch _ _⟩
  case cJ | cJr | fence | fenceI => exact ⟨_, rfl, rfl⟩
  case cJal | jal | cJalr | jalr => exact ⟨_, rfl, s.hart.keepsReservation_link _ _ _⟩
  case cEbreak | ecall | ebreak => exact ⟨_, rfl, (Hart.Transfers.refl _).frame⟩
  case cFlw | cFlwsp | flw | cFld | cFldsp | fld => exact ⟨_, rfl, s.hart.keepsReservation_loadF _ _ _ _⟩
  case cFsw | cFswsp | cFsd | cFsdsp | fsd | fsw =>
    exact ⟨_, rfl, s.hart.keepsReservation_withFp (s.hart.keepsReservation_storeMem _ _ _)⟩
  case fmaddD | fmsubD | fnmsubD | fnmaddD | faddD | fsubD | fmulD | fdivD | fsqrtD | fcvtDS | fcvtDW | fcvtDWu
    | fcvtDL | fcvtDLu | fcvtSD | fmaddS | fmsubS | fnmaddS | fnmsubS | faddS | fsubS | fmulS | fdivS | fsqrtS
    | fcvtSW | fcvtSWu | fcvtSL | fcvtSLu =>
    exact ⟨_, rfl, s.hart.keepsReservation_withRm _ fun _ => s.hart.keepsReservation_fpF _ _ _⟩
  case fcvtWD | fcvtWuD | fcvtWS | fcvtWuS | fcvtLD | fcvtLuD | fcvtLS | fcvtLuS =>
    exact ⟨_, rfl, s.hart.keepsReservation_withRm _ fun _ => s.hart.keepsReservation_fpX _ _ _⟩
  case fminD | fmaxD | fminS | fmaxS =>
    exact ⟨_, rfl, s.hart.keepsReservation_withFp (s.hart.keepsReservation_fpF _ _ _)⟩
  case feqD | fltD | fleD | feqS | fltS | fleS =>
    exact ⟨_, rfl, s.hart.keepsReservation_withFp (s.hart.keepsReservation_fpX _ _ _)⟩
  case fsgnjD | fsgnjnD | fsgnjxD | fmvDX | fsgnjS | fsgnjnS | fsgnjxS | fmvWX =>
    exact ⟨_, rfl, s.hart.keepsReservation_withFp (s.hart.setF_reservation _ _)⟩
  case fmvXD | fclassD | fmvXW | fclassS =>
    exact ⟨_, rfl, s.hart.keepsReservation_withFp (s.hart.keepsReservation_result _ _)⟩
  case sfenceVma | wfi => exact ⟨_, rfl, Res.keepsReservation_ite trivial rfl⟩
  case csrrw | csrrs | csrrc | csrrwi | csrrsi | csrrci => exact ⟨_, rfl, s.hart.keepsReservation_csrOp _ _ _ _ _⟩
  case vsetvli | vsetvl => exact ⟨_, rfl, s.hart.keepsReservation_setVL _ _ _⟩
  case vlbV | vlhV | vlwV | vlbuV | vlhuV | vlwuV | vleV | vlsbV | vlshV | vlswV | vlsbuV | vlshuV | vlswuV |
    vlseV | vlxbV | vlxhV | vlxwV | vlxbuV | vlxhuV | vlxwuV | vlxeV =>
    exact ⟨_, rfl, s.hart.keepsReservation_vector _ _ fun _ _ => Hart.elem_loadElem _ _ _ _ _ _⟩
  case vsbV | vshV | vswV | vseV | vssbV | vsshV | vsswV | vsseV | vsxbV | vsxhV | vsxwV | vsxeV =>
    exact ⟨_, rfl, s.hart.keepsReservation_vector _ _ fun _ _ => Hart.elem_storeElem _ _ _ _ _⟩
  case cAdd | cAddi | cSub | cAddi16sp | cAddi4spn | cAnd | cAndi | cOr | cXor | cSlli | cSrli | cSrai | cMv |
    cLi | cLui | cAddw | cAddiw | cSubw | sll | slli | srl | srli | sra | srai | add | addi | sub | lui | auipc
    | and | andi | or | ori | xor | xori | slt | sltu | slti | sltiu | addw | addiw | subw | sllw | slliw | sraw
    | sraiw | srliw | srlw | mul | mulh | mulhsu | mulhu | div | divu | rem | remu | mulw | divw | divuw | remw
    | remuw =>
    exact ⟨_, rfl, s.hart.keepsReservation_result _ _⟩
  all_goals exact ⟨_, rfl, s.hart.keepsReservation_vector _ _ fun _ _ => .next (Hart.transfers_setV _ _ _)⟩

/-- Such an instruction that takes no exception leaves the reservation. -/
theorem reservation_of_exec {s : State} {i : Instr} {t : Hart s.cfg} (he : exec i s = .next (s.withHart t))
    (hno : ¬s.Traps i) (hi : reserves i = false) : t.reservation = s.hart.reservation := by
  obtain ⟨r, hr, hkeeps⟩ := exec_keepsReservation i s hi
  cases r with
  | trap k e tval => exact absurd ⟨k, e, tval, hr, hkeeps⟩ hno
  | illegal => exact absurd ⟨s.hart, _, _, hr, rfl⟩ hno
  | next k | jump k target | wrote k cycle instret =>
    obtain rfl := State.next_inj (he.symm.trans hr)
    exact hkeeps

/-- Settles O41: sc.d, traps and returns end the reservation, and the shapes of the other instructions keep it. -/
theorem reservationRule : Obligations.ReservationRule := by
  unfold Obligations.ReservationRule
  intro s
  refine ⟨fun _ _ _ _ _ _ => reservation_of_exec_scD, s.hart.trap_reservation,
    fun _ he => he.elim reservation_of_exec_mret reservation_of_exec_sret, rfl, rfl,
    fun i t he hno hlr hsc hm hs => reservation_of_exec he hno ?_⟩
  cases i
  case lrD => exact absurd rfl (hlr _ _ _ _)
  case scD => exact absurd rfl (hsc _ _ _ _ _)
  case mret => exact absurd rfl hm
  case sret => exact absurd rfl hs
  all_goals rfl

end Sys2Proof.Machine
end

section
/-! vsetvli and vsetvl (R543 to R547): the fields of a setting as numbers, the new vl and its bounds, and what the two
instructions leave. -/

namespace Sys2Proof.Machine

open Sys2Proof

variable {c : Config}

/-! ## The fields of a setting (R77 to R79, R544) -/

theorem sewOf_eq {n : Nat} (vtype : BitVec n) : sewOf vtype = 8 * 2 ^ (vtype.toNat / 4 % 8) := by
  unfold sewOf
  rw [BitVec.extractLsb'_toNat, Nat.shiftRight_eq_div_pow]

theorem lmulOf_eq {n : Nat} (vtype : BitVec n) : lmulOf vtype = 2 ^ (vtype.toNat % 4) := by
  unfold lmulOf
  rw [BitVec.extractLsb'_toNat, Nat.shiftRight_zero]

theorem vlmaxOf_eq (c : Config) {n : Nat} (vtype : BitVec n) :
    vlmaxOf c vtype = 2 ^ (vtype.toNat % 4) * c.vlen / (8 * 2 ^ (vtype.toNat / 4 % 8)) := by
  unfold vlmaxOf
  rw [lmulOf_eq, sewOf_eq]

/-- The bits above bit 4 are zero where the setting is below 32. -/
theorem vtypeSupported_iff (newtype : BitVec c.xlen) :
    vtypeSupported c newtype = true ↔ newtype.toNat < 32 ∧ 8 * 2 ^ (newtype.toNat / 4 % 8) ≤ c.elen := by
  have hlow : newtype >>> 5 = 0 ↔ newtype.toNat < 32 := by
    rw [← BitVec.toNat_inj, BitVec.toNat_ushiftRight, Nat.shiftRight_eq_div_pow]
    exact Nat.div_eq_zero_iff_lt (by norm_num)
  unfold vtypeSupported
  rw [Bool.and_eq_true, beq_iff_eq, decide_eq_true_eq, hlow, sewOf_eq]

/-! ## The new vl (R543, R545, R546) -/

/-- Between the two fixed cases the new vl is at least half of AVL, rounded up, whatever value is proposed (R546). -/
theorem half_avl_le_newVl {avl vlmax : Nat} (hlo : vlmax < avl) (hhi : avl < 2 * vlmax) :
    (avl + 1) / 2 ≤ newVl avl vlmax := by
  unfold newVl
  rw [if_neg hlo.not_ge, if_neg hhi.not_ge]
  exact le_max_left _ _

/-- The two cases that R545 fixes. -/
theorem newVl_eq (avl vlmax : Nat) :
    newVl avl vlmax = if avl ≤ vlmax then avl else if 2 * vlmax ≤ avl then vlmax else newVl avl vlmax := by
  unfold newVl
  split_ifs <;> rfl

theorem newVl_le_avl (avl vlmax : Nat) : newVl avl vlmax ≤ avl := by
  by_cases h : avl ≤ vlmax
  · exact (if_pos h).le
  · exact (newVl_le avl vlmax).trans (le_of_not_ge h)

theorem Hart.avl_lt (h : Hart c) (rd rs1 : BitVec 5) : h.avl rd rs1 < 2 ^ c.xlen := by
  unfold Hart.avl
  split_ifs
  · exact (h.getX rs1).isLt
  · exact Nat.sub_lt (Nat.two_pow_pos _) Nat.one_pos
  · exact h.vl.isLt

/-- The new vl fits an x register. -/
theorem Hart.newVl_avl_toNat (h : Hart c) (rd rs1 : BitVec 5) (vlmax : Nat) :
    (BitVec.ofNat c.xlen (newVl (h.avl rd rs1) vlmax)).toNat = newVl (h.avl rd rs1) vlmax :=
  (BitVec.toNat_ofNat ..).trans (Nat.mod_eq_of_lt ((newVl_le_avl _ _).trans_lt (h.avl_lt rd rs1)))

/-! ## The instructions (R547) -/

/-- The hart with a new vector setting, whose vl also goes to x[rd]. -/
def Hart.withSetting (h : Hart c) (rd : BitVec 5) (vtype vl : BitVec c.xlen) : Hart c :=
  { h.setX rd vl with vtype := vtype, vl := vl, vstart := 0 }

theorem Hart.setVL_of_supported (h : Hart c) (rd rs1 : BitVec 5) {newtype : BitVec c.xlen}
    (hs : vtypeSupported c newtype = true) :
    h.setVL rd rs1 newtype =
      .next (h.withSetting rd newtype (BitVec.ofNat c.xlen (newVl (h.avl rd rs1) (vlmaxOf c newtype)))) :=
  if_pos hs

theorem Hart.setVL_of_not_supported (h : Hart c) (rd rs1 : BitVec 5) {newtype : BitVec c.xlen}
    (hs : ¬vtypeSupported c newtype = true) :
    h.setVL rd rs1 newtype = .next (h.withSetting rd (BitVec.twoPow c.xlen (c.xlen - 1)) 0) :=
  if_neg hs

/-- An instruction that completes with a new setting, as claims say it. -/
theorem State.setting_of {s : State} {i : Instr} {rd : BitVec 5} {vtype vl : BitVec s.cfg.xlen}
    (h : exec i s = s.run (encode i) (.next (s.hart.withSetting rd vtype vl))) :
    ∃ t : Hart s.cfg, exec i s = .next (s.withHart t) ∧ t.vtype = vtype ∧ t.vl = vl ∧
      s.hart.XBecomes t rd t.vl ∧ t.vstart = 0 ∧ s.hart.Passes t i ∧
      t = { s.hart with x := t.x, vtype := t.vtype, vl := t.vl, vstart := t.vstart, pc := t.pc,
                        minstret := t.minstret, mcycle := t.mcycle, draws := t.draws } := by
  refine ⟨_, h.trans (s.run_next _ _), rfl, rfl, Hart.xBecomes_of (k := s.hart) rfl rfl, rfl, ⟨?_, ?_⟩, ?_⟩
  · simp [Hart.withSetting, Hart.finish_next, Instr.ilen]
  · simp [Hart.withSetting, Hart.finish_next]
  · simp only [Hart.withSetting, Hart.finish_next]
    unfold Hart.setX
    split <;> rfl

/-- Settles O52: the choice function is the model's `newVl`, and both instructions are `Hart.setVL` of their setting. -/
theorem setVectorLength : Obligations.SetVectorLength := by
  unfold Obligations.SetVectorLength
  refine ⟨newVl, fun avl vlmax hlo hhi => ⟨half_avl_le_newVl hlo hhi, newVl_le avl vlmax⟩, ?_⟩
  intro s rd rs1 rs2 zimm rule
  have hrule {i : Instr} {newtype : BitVec s.cfg.xlen}
      (hi : exec i s = s.run (encode i) (s.hart.setVL rd rs1 newtype)) : rule i newtype.toNat := by
    have hok := vtypeSupported_iff newtype
    by_cases hs : vtypeSupported s.cfg newtype = true
    · obtain ⟨t, he, htype, hvl, rest⟩ :=
        State.setting_of (hi.trans (congrArg _ (s.hart.setVL_of_supported rd rs1 hs)))
      refine ⟨t, he, fun _ => ⟨congrArg _ htype, ?_⟩, fun hno => absurd (hok.1 hs) hno, rest⟩
      rw [hvl, Hart.newVl_avl_toNat, newVl_eq, vlmaxOf_eq]
      rfl
    · obtain ⟨t, he, htype, hvl, rest⟩ :=
        State.setting_of (hi.trans (congrArg _ (s.hart.setVL_of_not_supported rd rs1 hs)))
      refine ⟨t, he, fun h => absurd (hok.2 h) hs, fun _ => ⟨?_, hvl⟩, rest⟩
      rw [htype, BitVec.toNat_twoPow_of_lt (Nat.sub_lt (xlen_pos s.cfg) Nat.one_pos)]
  have hzimm : (zimm.setWidth s.cfg.xlen).toNat = zimm.toNat := toNat_setWidth_xlen zimm (by decide)
  exact ⟨hzimm ▸ hrule rfl, hrule rfl⟩

end Sys2Proof.Machine
end

section
/-! No instruction stops the machine (R706, R710, R776), and which interrupt is selected (R720, R723, R724). -/

namespace Sys2Proof.Machine

open Sys2Proof

variable {c : Config}

/-- Settles O7: every instruction is plain, a return, or one of the CSR instructions, and each of these completes. -/
theorem execAlwaysCompletesOrTraps : Obligations.ExecAlwaysCompletesOrTraps := by
  unfold Obligations.ExecAlwaysCompletesOrTraps
  exact exec_next

/-! ## The first of a list -/

/-- What a search finds stands no later than anything else it could have found. -/
theorem idxOf_le_of_find? {α : Type} [DecidableEq α] {p : α → Bool} {l : List α} {a b : α}
    (ha : l.find? p = some a) (hb : p b = true) : l.idxOf a ≤ l.idxOf b := by
  induction l with
  | nil => simp at ha
  | cons x l ih =>
    by_cases hx : p x = true
    · obtain rfl : x = a := by simpa [hx] using ha
      rw [List.idxOf_cons_self]
      exact Nat.zero_le _
    · have hne {y : α} (hy : p y = true) : x ≠ y := fun h => hx (h ▸ hy)
      rw [List.idxOf_cons_ne l (hne (List.find?_some ha)), List.idxOf_cons_ne l (hne hb)]
      exact Nat.succ_le_succ (ih (by simpa [hx] using ha))

/-! ## The interrupts for one mode -/

/-- The M-mode interrupts that are pending and enabled (R723). -/
def Hart.ForM (h : Hart c) (k : Nat) : Prop :=
  (h.priv ≠ .m ∨ h.mstatus.mie = true) ∧ h.mip.getLsbD k = true ∧ h.mie.getLsbD k = true ∧ h.mideleg.getLsbD k = false

/-- The S-mode interrupts that are pending and enabled (R723). -/
def Hart.ForS (h : Hart c) (k : Nat) : Prop :=
  c.hasS = true ∧ (h.priv = .u ∨ (h.priv = .s ∧ h.mstatus.sie = true)) ∧
    h.mip.getLsbD k = true ∧ h.mie.getLsbD k = true ∧ h.mideleg.getLsbD k = true

/-- The model's search through the interrupts for one mode. -/
def firstPending {n : Nat} (enabled : Bool) (pend : BitVec n) : Option Nat :=
  if enabled then interruptOrder.find? pend.getLsbD else none

theorem Hart.interrupt_eq_or (h : Hart c) :
    h.interrupt = (firstPending h.mEnabled (h.pend &&& ~~~h.mideleg)).or
      (firstPending (c.hasS && h.sEnabled) (h.pend &&& h.mideleg)) := by
  change (match firstPending h.mEnabled (h.pend &&& ~~~h.mideleg) with | some k => some k | none => _) = _
  cases firstPending h.mEnabled (h.pend &&& ~~~h.mideleg) <;> rfl

theorem firstPending_eq_some {n : Nat} {enabled : Bool} {pend : BitVec n} {k : Nat}
    (hk : firstPending enabled pend = some k) :
    k ∈ interruptOrder ∧ (enabled = true ∧ pend.getLsbD k = true) ∧
      ∀ j, enabled = true ∧ pend.getLsbD j = true → interruptOrder.idxOf k ≤ interruptOrder.idxOf j := by
  unfold firstPending at hk
  split at hk
  · next he =>
    exact ⟨List.mem_of_find?_eq_some hk, ⟨he, List.find?_some hk⟩, fun j hj => idxOf_le_of_find? hk hj.2⟩
  · cases hk

theorem firstPending_eq_none {n : Nat} {enabled : Bool} {pend : BitVec n} {k : Nat}
    (hnone : firstPending enabled pend = none) (hk : k ∈ interruptOrder) :
    ¬(enabled = true ∧ pend.getLsbD k = true) := by
  rintro ⟨he, hp⟩
  rw [firstPending, if_pos he, List.find?_eq_none] at hnone
  exact hnone k hk hp

/-- Only the six codes of the order can be pending (R720). -/
theorem Hart.mem_interruptOrder_of_mip {h : Hart c} {k : Nat} (hk : h.mip.getLsbD k = true) : k ∈ interruptOrder := by
  rw [h.getLsbD_mip (BitVec.lt_of_getLsbD hk)] at hk
  simp only [interruptOrder, List.mem_cons, List.not_mem_nil]
  tauto

theorem Hart.forM_iff (h : Hart c) (k : Nat) :
    h.ForM k ↔ h.mEnabled = true ∧ (h.pend &&& ~~~h.mideleg).getLsbD k = true := by
  have hlt : h.mip.getLsbD k = true → k < c.xlen := BitVec.lt_of_getLsbD
  simp only [Hart.ForM, Hart.mEnabled, Hart.pend, BitVec.getLsbD_and, BitVec.getLsbD_not, Bool.or_eq_true, bne_iff_ne,
    Bool.and_eq_true, decide_eq_true_eq, Bool.not_eq_true']
  tauto

theorem Hart.forS_iff (h : Hart c) (k : Nat) :
    h.ForS k ↔ (c.hasS && h.sEnabled) = true ∧ (h.pend &&& h.mideleg).getLsbD k = true := by
  simp only [Hart.ForS, Hart.sEnabled, Hart.pend, BitVec.getLsbD_and, Bool.or_eq_true, Bool.and_eq_true, beq_iff_eq]
  tauto

theorem Hart.ForM.mem_interruptOrder {h : Hart c} {k : Nat} (hk : h.ForM k) : k ∈ interruptOrder := by
  obtain ⟨-, hmip, -⟩ := hk
  exact Hart.mem_interruptOrder_of_mip hmip

theorem Hart.ForS.mem_interruptOrder {h : Hart c} {k : Nat} (hk : h.ForS k) : k ∈ interruptOrder := by
  obtain ⟨-, -, hmip, -⟩ := hk
  exact Hart.mem_interruptOrder_of_mip hmip

/-! ## The interrupt selected (R724) -/

/-- Settles O16: the search for M-mode, and after it fails the one for S-mode. -/
theorem interruptSelection : Obligations.InterruptSelection := by
  unfold Obligations.InterruptSelection
  intro c h forM forS rank
  have hM (k : Nat) : forM k ↔ _ := h.forM_iff k
  have hS (k : Nat) : forS k ↔ _ := h.forS_iff k
  have noM (hnone : firstPending h.mEnabled (h.pend &&& ~~~h.mideleg) = none) (k : Nat) : ¬forM k := fun hk =>
    firstPending_eq_none hnone (Hart.ForM.mem_interruptOrder hk) ((hM k).1 hk)
  refine ⟨fun k hk => ?_, fun hnone k => ?_⟩
  · rw [h.interrupt_eq_or, Option.or_eq_some_iff] at hk
    obtain hk | ⟨hnone, hk⟩ := hk
    · obtain ⟨hmem, hoffers, hfirst⟩ := firstPending_eq_some hk
      exact ⟨hmem, .inl ⟨(hM k).2 hoffers, fun j hj => hfirst j ((hM j).1 hj)⟩⟩
    · obtain ⟨hmem, hoffers, hfirst⟩ := firstPending_eq_some hk
      exact ⟨hmem, .inr ⟨(hS k).2 hoffers, noM hnone, fun j hj => hfirst j ((hS j).1 hj)⟩⟩
  · rw [h.interrupt_eq_or, Option.or_eq_none_iff] at hnone
    obtain ⟨hnoM, hnoS⟩ := hnone
    exact ⟨noM hnoM k, fun hk => firstPending_eq_none hnoS (Hart.ForS.mem_interruptOrder hk) ((hS k).1 hk)⟩

end Sys2Proof.Machine
end

section
/-! The values the spec gives for reset (R98, R762): the two that are computed from the configuration as numbers, and the
whole state. -/

namespace Sys2Proof.Machine

open Sys2Proof

/-- RESET_PC cut to XLEN bits (R43). -/
theorem Hart.toNat_reset_pc (c : Config) : (Hart.reset c).pc.toNat = c.resetPc.toNat % 2 ^ c.xlen :=
  BitVec.toNat_setWidth c.xlen c.resetPc

/-- vill = 1 and no other bit (R76, R81): bit XLEN-1 is inside the register, whatever XLEN is. -/
theorem Hart.toNat_reset_vtype (c : Config) : (Hart.reset c).vtype.toNat = 2 ^ (c.xlen - 1) :=
  BitVec.toNat_twoPow_of_lt (Nat.sub_lt (xlen_pos c) Nat.one_pos)

/-- Settles O9: pc and vtype by their numbers; x0 reads 0 whatever its slot holds; the others are the fields as reset
writes them. -/
theorem resetState : Obligations.ResetState := by
  unfold Obligations.ResetState
  intro c h
  exact ⟨Hart.toNat_reset_pc c, rfl, h.getX_zero, rfl,
    -- delegation, interrupts, counter enables and mcause
    rfl, rfl, rfl, rfl, rfl, rfl, rfl, rfl, rfl,
    -- fcsr, and the vector setting
    rfl, rfl, rfl, rfl, rfl, rfl, Hart.toNat_reset_vtype c,
    -- reservation, waiting, stale_code
    rfl, rfl, rfl⟩

end Sys2Proof.Machine
end
